-- ==== Sys2Proof/Word.lean ====
section
/-! DEFINITION. The word types, the index types of the ports, and the sparse map type. -/
namespace Sys2Proof

/-- An 8-bit byte (the block is little-endian throughout, R6). -/
abbrev Byte := BitVec 8
/-- A 32-bit register half. -/
abbrev W32 := BitVec 32
/-- A 64-bit register or memory word. -/
abbrev W64 := BitVec 64

/-- Host ports HP0 to HP3. -/
abbrev HP := Fin 4
/-- Memory ports MP0 to MP71. -/
abbrev MP := Fin 72
/-- Core fabric ports CF0 to CF63. -/
abbrev CF := Fin 64
/-- Fabric links FL0 to FL31. -/
abbrev FL := Fin 32
/-- Compute cores 0 to 511; core k of port N has number 8N + k. -/
abbrev CoreIx := Fin 512
/-- Service classes 0 to 15. -/
abbrev Cls := Fin 16
/-- Functions: 0 is the physical function, 1 to 256 the virtual functions. -/
abbrev Fn := Fin 257
/-- Envelope indexes. -/
abbrev EnvIx := Fin 256
/-- Chip numbers. -/
abbrev Chip := Fin 8192

/-- A sparse table: key and value pairs, keys strictly rising. -/
abbrev Map (α : Type) := List (Nat × α)

end Sys2Proof
end

