-- ==== Sys2Proof/Machine/Types/Base.lean ====
section
/-! DEFINITION. Types that several chapters share: request identity, statuses, handles, register writes. -/
namespace Sys2Proof

/-- A write of a 64-bit register: whole, or of one 32-bit half (R10, R11). -/
inductive RegW where
  | full (v : W64)
  | lower (v : W32)
  | upper (v : W32)
  deriving DecidableEq, Repr

/-- A register write at a host port. -/
structure RegAt where
  port : HP
  w : RegW
  deriving DecidableEq, Repr

/-- The completion statuses of Table 6-6. -/
inductive Status where
  | ok | fault | rights | revoked | poison | invalid | invalidFormat | invalidOp | staleHandle
  | noMemory | noSlot | fenceError | fenceTimeout | busy
  deriving DecidableEq, Repr

/-- Number format codes of Table 0-6; code 0xF is reserved and has no constructor. -/
inductive Fmt where
  | fp64 | fp32 | bf16 | fp16 | e4m3 | e5m2 | e3m2 | e2m3 | e2m1
  | int32 | int16 | int8 | uint8 | int4 | cxp
  deriving DecidableEq, Repr

/-- Scopes of Table 9-1. -/
inductive Scope where
  | engine | core | envChip | env | system
  deriving DecidableEq, Repr

/-- The identity a request carries (R15): context and generation, class, layer and operator, with the deadline field
of R37. `ctx` is none for work of the block itself. -/
structure Ident where
  ctx : Option Nat := none
  gen : Nat := 0
  cls : Nat := 0
  layer : Nat := 0
  oper : Nat := 0
  deadline : Nat := 0
  deriving DecidableEq, Repr

/-- A handle's fields (R122). -/
structure Handle where
  type : Nat
  rsvd : Nat
  index : Nat
  gen : Nat
  deriving DecidableEq, Repr

end Sys2Proof
end

