-- ==== Sys2Proof/Machine/Types/Coh.lean ====
section
/-! DEFINITION. State of chapter 11: agents, the directory, transactions, bias. -/
namespace Sys2Proof

/-- Requests that a home takes (R263, Table 11-8), and its own recalls and flips. -/
inductive CohKind where
  | rdShared | rdOwn | upgrade | wrBack | evictClean | ncRead | ncWrite | atomic
  /-- SnpInv of every holder, for a recall (R253) or a flip (R257) -/
  | inval
  /-- snoop of the internal holders for a host's H2D snoop (R273): 0 SnpData, 1 SnpInv, 2 SnpCur -/
  | h2d (kind : Nat)
  deriving DecidableEq, Repr

/-- A request at a home: its sender, its transaction number, the request of the block it serves, and the data that a
host's MemWr carries. -/
structure CohReq where
  kind : CohKind
  agent : Nat := 0
  txn : Nat := 0
  req : Option Nat := none
  data : List Byte := []
  poison : Bool := false
  deriving DecidableEq, Repr

/-- Transient states of a home (Table 11-8), and the wait for a host's GO (R273). -/
inductive CohWait where
  | xSd | xSi | sSi | gA | wD | go
  deriving DecidableEq, Repr

/-- An open transaction of a line. -/
structure CohTxn where
  st : CohWait
  r : CohReq
  /-- agents whose snoop response is awaited -/
  snooped : List Nat := []
  /-- agents that announced dirty data -/
  owing : List Nat := []
  /-- the grant sent is for exclusive ownership -/
  exclusive : Bool := false
  deriving DecidableEq, Repr

/-- A directory entry (Table 11-2): no holders is state I, `owner` is state X. -/
structure DirEnt where
  host : Bool := false
  owner : Option Nat := none
  sharers : List Nat := []
  coarse : Bool := false
  groups : List Nat := []
  /-- HSTATE: 0 I, 1 S, 2 E, 3 M -/
  hstate : Nat := 0
  txn : Option CohTxn := none
  waiting : List CohReq := []
  /-- use order for recalls (R253) -/
  stamp : Nat := 0
  deriving DecidableEq, Repr

/-- States of an agent (COH_AGENT_STATUS.STATE). -/
inductive AgentSt where
  | absent | active | flushing | dead
  deriving DecidableEq, Repr

/-- An agent. -/
structure Agent where
  st : AgentSt := .absent
  cause : Nat := 0
  /-- COH_AGENT_CTL.ENABLE, CTX and GEN -/
  en : Bool := false
  ctx : Nat := 0
  gen : Nat := 0
  /-- the reclaim sweep has ended -/
  swept : Bool := false
  deriving DecidableEq, Repr

/-- Header of a message from an agent (Table 11-4): the core fabric port it came through, or none for the internal path of
the mooring cores; `host` tells a host address from a device address in a message that brings a physical one; `msgOk` is
false for a reserved MSG, which reaches the block in the row of its channel. -/
structure CohHdr where
  port : Option CF
  agent : BitVec 10
  txn : BitVec 10
  addr : BitVec 57
  va : Bool
  host : Bool
  rsvdZero : Bool
  msgOk : Bool
  deriving DecidableEq, Repr

/-- A CXL.mem request of a host, as the rows of R271 tell them apart. -/
inductive CxlOp where
  /-- MemRd with MetaValue A, S or I; MemRdData without caching is the last -/
  | rdA | rdS | rdI
  /-- MemWr with MetaValue I, and MemWr that evicts a line the host holds: data, and whether it is poison -/
  | wrI (data : List Byte) (bad : Bool)
  | evict (data : List Byte) (bad : Bool)
  /-- BIConflict (R272): the host's own request for the line crosses a back-invalidate snoop -/
  | conflict
  deriving DecidableEq, Repr

/-- A page on its way from shared to device bias (R257). -/
structure Flip where
  page : Nat
  fn : Nat
  waiting : List (Nat × CohReq) := []
  deriving DecidableEq, Repr

/-- A bias action (R258). -/
structure BiasAct where
  status : Status := .ok
  busy : Bool := false
  done : Nat := 0
  /-- pages left, for a context: context, generation, next page, pages, shared -/
  ctx : Nat := 0
  va : Nat := 0
  left : Nat := 0
  shared : Bool := false
  deriving DecidableEq, Repr

/-- Coherence (chapter 11). Lines are keyed by line number, host lines by 2^50 + line number. -/
structure CohState where
  dir : Map DirEnt := []
  agents : Map Agent := []
  /-- 4 KiB pages in shared bias, in rising order -/
  shared : List Nat := []
  flips : List Flip := []
  acts : Map BiasAct := []
  /-- requests that wait for an entry of a full set (R253): line and request -/
  setWait : List (Nat × CohReq) := []
  /-- requests of the block that a transaction has made ready -/
  ready : List Nat := []
  /-- lines poisoned by reclaim, host lines the proxy holds as poison (by key), and those whose first read has raised its event (R276) -/
  poisoned : List Nat := []
  poisonSeen : List Nat := []
  /-- data the proxy holds for host lines, by line key -/
  hostData : Map (List Byte) := []
  recalls : Nat := 0
  reclaimed : Nat := 0
  reclaimLines : Nat := 0
  hostOutside : Nat := 0
  /-- host ports whose CXL.cache and CXL.mem are out of use until hpN_perst_n (R274) -/
  cxlOff : List Nat := []
  stamp : Nat := 0
  deriving DecidableEq, Repr

end Sys2Proof
end

