-- ==== Sys2Proof/Machine/Types/Endpoint.lean ====
section
/-! DEFINITION. State and operands of chapters 5 and 8: host ports, function instances, MSI-X, and the traffic on
the host ports with replay and flushes. -/
namespace Sys2Proof

/-- An MSI-X table entry (R106). -/
structure MsixEntry where
  addr : W64 := 0
  data : W32 := 0
  masked : Bool := true
  deriving DecidableEq, Repr

/-- A function instance on a port (R98): its configuration space as double words written, and D3cold. -/
structure Inst where
  cfg : Map W32 := []
  cold : Bool := false
  pmeStatus : Bool := false
  deriving DecidableEq, Repr

/-- What a link training gives (R51, R80, R95, R96): width and rate codes, flit mode, the CXL protocols that the partner
takes among those offered, and the lane groups that have failed it. -/
structure Trained where
  width : Fin 3
  rate : Fin 7
  flit : Bool
  cxl : BitVec 3
  failed : List (Fin 4) := []
  deriving DecidableEq, Repr

/-- A configuration request (R100): a read or a write of one double word, with byte enables for the write. -/
inductive CfgReq where
  | read (dw : Fin 1024)
  | write (dw : Fin 1024) (be : BitVec 4) (v : W32)
  deriving DecidableEq, Repr

/-- What a host brings with a memory request. -/
structure HostData where
  bytes : List Byte
  deriving DecidableEq, Repr

/-- What a memory request or message of a host carries beside its own fields: whether it comes outside every IDE stream
(R117), and its attributes, which its completion carries (R119). -/
structure Tlp where
  outside : Bool := false
  attr : BitVec 3 := 0
  deriving DecidableEq, Repr

/-- A memory request or message of a host as it comes to a host port. -/
structure Arrival where
  tlp : Tlp
  port : HP
  deriving DecidableEq, Repr

/-- An HDM decoder as a host has programmed it (R96, R97): base and size of its range, log2 of the interleave ways, and
log2 of the interleave granularity in units of 256 bytes. -/
structure HdmDec where
  base : BitVec 52
  size : BitVec 52
  ways : Fin 3
  gran : Fin 7
  deriving DecidableEq, Repr

/-- A host address and the decoder that it is decoded by (R97). -/
structure HdmAddr where
  dec : HdmDec
  addr : BitVec 52
  deriving DecidableEq, Repr

/-- A DOE exchange (R116). An SPDM exchange that sets up or ends a session says so, where the responder takes it. -/
inductive DoeReq where
  | discovery (index : Nat)
  | spdm (msg : List Byte) (session : Option Bool)
  | securedSpdm (msg : List Byte) (session : Option Bool)
  | ideKeyProg (stream : Fin 9) (key : Nat)
  | ideGo (stream : Fin 9)
  | ideStop (stream : Fin 9)
  | other (vendor type : Nat)
  deriving DecidableEq, Repr

/-- Message kinds the block drives at a host port. -/
inductive HostMsg where
  /-- posted write: untranslated, or translated under a PASID -/
  | write (fn : Nat) (pasid : Option Nat) (addr : Nat) (data : List Byte)
  /-- a posted write whose data is poison (EP) -/
  | writeEp (fn : Nat) (pasid : Option Nat) (addr : Nat) (data : List Byte)
  | read (fn : Nat) (pasid : Option Nat) (tag : Nat) (addr len : Nat)
  | flush (fn : Nat) (tag addr : Nat)
  | msix (fn vec : Nat) (addr : W64) (data : W32)
  | atsReq (fn pasid tag addr : Nat) (write : Bool)
  | prg (fn pasid index : Nat) (addr : Nat) (read write last : Bool)
  | invalCpl (fn itag : Nat)
  /-- completion of a host's read or AtomicOp; `ep` marks poisoned data -/
  | cpl (fn tag : Nat) (data : List Byte) (ep : Bool) (attr : BitVec 3)
  | unsupported (fn tag : Nat) (attr : BitVec 3)
  | cfgCpl (fn : Nat) (data : W32)
  | cfgRetry (fn : Nat)
  | doe (data : List Nat)
  | pme (fn : Nat)
  | frs (fn : Nat)
  | drs
  | l0p (lanes : Nat)
  | l0pGrant (lanes : Nat)
  | enterL1
  | exitL1
  /-- link training with the receivers of some lane groups, and lane reversal (R51) -/
  | train (groups : List Nat) (reversed : Bool)
  | cxlRsp (tag : Nat) (kind : Nat) (data : List Byte)
  /-- S2M BIConflictAck (R272) -/
  | biConflictAck (tag : Nat)
  | biSnp (addr : Nat) (inv : Bool)
  /-- a D2H request of the host proxy: 0 RdShared, 1 RdOwn, 2 RdCurr, 3 ItoMWr, 4 DirtyEvict, 5 CleanEvict (R273); `bad`
marks data as poison -/
  | d2h (addr : Nat) (op : Nat) (data : List Byte) (bad : Bool)
  | h2dRsp (addr : Nat) (rsp : Nat) (data : List Byte) (bad : Bool)
  deriving DecidableEq, Repr

/-- Why a non-posted request is outstanding. -/
inductive NpPurpose where
  /-- flush covering every posted write issued on its port before a sequence number -/
  | flush (upTo : Nat)
  /-- fetch of a ring entry of a queue, with its number -/
  | fetch (q num : Nat)
  /-- read for an access, and the byte offset within it -/
  | access (id off : Nat)
  /-- translation request (R163) -/
  | ats (pasid vpage : Nat)
  /-- bytes of the envelope template of an action, from an offset on -/
  | template (off : Nat)
  deriving DecidableEq, Repr

/-- An outstanding non-posted request and what its tag table entry records (R115). -/
structure NpReq where
  tag : Nat
  fn : Nat
  fnGen : Nat
  ctx : Option Nat
  ctxGen : Nat
  pasid : Option Nat
  addr : Nat
  len : Nat
  purpose : NpPurpose
  /-- it has been sent a second time (R210) -/
  resent : Bool := false
  deriving DecidableEq, Repr

/-- A replay buffer entry (R207). -/
structure RepEntry where
  seq : Nat
  fn : Nat
  ctx : Option Nat
  msg : HostMsg
  bytes : Nat
  /-- vector whose message announces this record or fence value (R204) -/
  announces : Option Nat := none
  deriving DecidableEq, Repr

/-- A message of uncharged traffic that waits for the allowance of a tick, the replay buffer or the port (R195):
its rank in the order of R195, its function, context and size. -/
structure UqEntry where
  rank : Nat
  fn : Nat
  ctx : Option Nat
  msg : HostMsg
  units : Nat
  /-- vector whose message announces this record or fence value (R204) -/
  announces : Option Nat := none
  deriving DecidableEq, Repr

/-- Port states of DPA_PORT_STATEn. -/
inductive PathSt where
  | down | up | suspect
  deriving DecidableEq, Repr

/-- Link states of EPT_PORT_STATUSn.LSTATE. -/
inductive LinkSt where
  | l0 | l0p | l1 | l2
  deriving DecidableEq, Repr

/-- A host port (chapters 3, 5 and 8). -/
structure HostPort where
  /-- EPT_PORT_STATUSn.LINK: 0 down, 1 training, 2 up, 3 diagnostic -/
  link : Nat := 0
  width : Nat := 0
  /-- width code of the training: the full width of L0p -/
  trained : Nat := 0
  rate : Nat := 0
  cxl : Nat := 0
  lstate : LinkSt := .l0
  /-- IDE streams that stand, and the keys that IDE_KM has delivered, by stream (R116) -/
  ideRun : List Nat := []
  ideSecure : Bool := true
  ideKeys : Map Nat := []
  /-- an SPDM session stands (R116) -/
  spdm : Bool := false
  /-- requests and messages that came outside the stream the port requires (R117) -/
  outside : Nat := 0
  hostId : Nat := 0
  perst : Bool := true
  wakeLow : Bool := false
  /-- ticks for which hpN_wake_n stays low whatever happens (R109) -/
  wakeHold : Nat := 0
  idle : Nat := 0
  lowTicks : Nat := 0
  /-- units sent in the current tick -/
  sent : Nat := 0
  queued : Nat := 0
  st : PathSt := .down
  seq : Nat := 0
  /-- every entry issued before this number is covered by a completed flush -/
  covered : Nat := 0
  /-- sequence number at which the port last came up: earlier entries are left from before -/
  upSeq : Nat := 0
  replay : List RepEntry := []
  nps : List NpReq := []
  replays : Nat := 0
  /-- uncharged allowance spent in the tick, in units -/
  allowance : Nat := 0
  /-- uncharged traffic waiting, in order of rank and arrival -/
  uq : List UqEntry := []
  laneOut : List Nat := []
  /-- lane groups of the trained width, and whether it is presented through lane reversal; the lanes of the other groups
  receive powerdown P2 (R51) -/
  groups : List Nat := [0, 1, 2, 3]
  reversed : Bool := false
  /-- HP_WIDTH and MAX_RATE have taken effect (R80, R89) -/
  limited : Bool := false
  deriving DecidableEq, Repr

/-- A replay running on a port for a function of a lost port (R208). -/
structure Replay where
  lost : Nat
  fn : Nat
  port : Nat
  entries : List RepEntry
  /-- buckets of the lost port, to be spread once the replay is covered -/
  buckets : List Nat
  nps : List NpReq
  /-- the sequence number a flush must cover before the buckets spread -/
  coverSeq : Nat
  deriving DecidableEq, Repr

/-- A route bucket that moves once a flush covers its requests (R201). -/
structure BucketMove where
  fn : Nat
  bucket : Nat
  src : Nat
  dst : Nat
  need : Nat
  deriving DecidableEq, Repr

/-- A failed check of a function (Table 7-9): VA, ACCESS, CAUSE, CTX and TICK. -/
structure XFault where
  va : Nat
  access : Nat
  cause : Nat
  ctx : Nat
  tick : Nat
  deriving DecidableEq, Repr

/-- The translation fault record of a function (R178): the first failure, how many came while it was held, and, for each port
that has latched it, the first failure since that latching read with how many came after that one. -/
structure FaultRec where
  first : Option XFault := none
  overflow : Bool := false
  count : Nat := 0
  since : Map (Option (XFault × Nat)) := []
  deriving DecidableEq, Repr

/-- A configuration write that waits for the end of a reset (R112): its port, whether its completion is due then, the
request. -/
structure HeldCfg where
  port : Nat
  told : Bool
  req : CfgReq
  deriving DecidableEq, Repr

/-- A function (R98, R105, R106, R111). -/
structure Func where
  gen : Nat := 0
  /-- bound envelope -/
  env : Option Nat := none
  vectors : Nat := 1
  flrBusy : Bool := false
  flrPort : Nat := 0
  heldCfg : List HeldCfg := []
  /-- route table: bucket to port -/
  route : Map Nat := []
  winActive : Bool := false
  winError : Bool := false
  winDropped : Nat := 0
  winLate : Nat := 0
  winFaults : Nat := 0
  winBase : Nat := 0
  winCtx : Nat := 0
  winGen : Nat := 0
  /-- a wake event has been raised since the function lost its last usable instance (R109) -/
  waking : Bool := false
  /-- next offset that a warm of the window reads (R186) -/
  warm : Option Nat := none
  dbDropped : Nat := 0
  dbStale : Nat := 0
  rillMerged : Nat := 0
  rillDropped : Nat := 0
  adminErr : Bool := false
  /-- the page request stop of R164 -/
  priStopped : Bool := false
  /-- PRI Enable has been cleared since the stop -/
  priCleared : Bool := false
  fault : FaultRec := {}
  deriving DecidableEq, Repr

/-- Accumulated firings of a vector (R250). -/
structure ModAcc where
  firings : Nat := 0
  ticks : Nat := 0
  deriving DecidableEq, Repr

/-- A host-window read that waits for its data (R185). -/
structure WinRead where
  id : Nat
  port : Nat
  fn : Nat
  tag : Nat
  attr : BitVec 3 := 0
  deriving DecidableEq, Repr

/-- Something made visible once flushes on ports have covered sequence numbers (R203, R413). -/
inductive PubAct where
  /-- completion record of a command, by command id -/
  | record (cmd : Nat)
  /-- the message of a vector whose record or fence value stands on another port (R204) -/
  | fire (fn vec : Nat)
  | vc0 (id : Nat)
  | signal (cmd : Nat)
  | auditTail (seq : Nat)
  | mirror (slot : Nat)
  deriving DecidableEq, Repr

/-- A publication and the flushes it waits for. -/
structure Pub where
  need : List (Nat × Nat)
  act : PubAct
  deriving DecidableEq, Repr

/-- Endpoint and host data paths (chapters 5 and 8). -/
structure EndState where
  ports : Map HostPort := []
  funcs : Map Func := []
  /-- instances, keyed 4 × function + port -/
  insts : Map Inst := []
  msix : Map MsixEntry := []
  msixPending : List Nat := []
  mods : Map ModAcc := []
  /-- manager group ports, fixed once known (R99) -/
  mgr : List Nat := []
  lateCpl : Nat := 0
  vecRefused : Bool := false
  hdmNext : Map W64 := []
  /-- HDM decoders that hosts hold committed, as they have programmed them (R97), by 4 × port + decoder -/
  hdm : Map HdmDec := []
  classNext : Map W64 := []
  classRefused : Bool := false
  /-- units spent in this tick, keyed 16 × resource + class, and units borrowed from a class (R196) -/
  spent : Map Nat := []
  lent : Map Nat := []
  /-- resource and class keys with a request waiting since the edge -/
  waited : List Nat := []
  /-- round-robin position of each resource -/
  turn : Map Nat := []
  gmiss : Map Nat := []
  dlmiss : Map Nat := []
  badKey : Nat := 0
  /-- envelopes whose first aperture failure of the tick has been reported -/
  badKeyTick : List Nat := []
  vecThisTick : Bool := false
  replays : List Replay := []
  moves : List BucketMove := []
  pubs : List Pub := []
  /-- host-bound traffic of functions without a usable port, oldest first (R98) -/
  parked : List UqEntry := []
  winReads : List WinRead := []
  /-- PME messages sent and not yet serviced: 4 × function + port -/
  pmeOut : List Nat := []
  deriving DecidableEq, Repr

end Sys2Proof
end

