-- ==== Sys2Proof/Machine/Types/Spool.lean ====
section
/-! DEFINITION. State and operands of chapter 4: the Spool image, start-up, staging, the journal, the peer table. -/
namespace Sys2Proof

/-- A lane entry (Table 4-4). -/
structure LaneEntry where
  port : Nat
  kind : Nat
  lane : Nat
  spare : Nat
  deriving DecidableEq, Repr

/-- A credit class descriptor as DPA_CLASSn holds it is kept as its 64-bit word. -/
structure HostPortCfg where
  width : Nat := 0
  maxRate : Nat := 6
  protoEn : Nat := 0
  ideRequired : Bool := false
  hostId : Nat := 0
  deriving DecidableEq, Repr

/-- An envelope template (Table 15-2): `rsvd` says that a reserved byte or flag is not 0. -/
structure Template where
  instantiate : Bool
  rsvd : Bool
  vf : Nat
  tag : Nat
  kgen : Nat
  hostId : Nat
  classMask : Nat
  rights : Nat
  lbase : Nat
  llen : Nat
  qCtx : Nat
  qQueue : Nat
  qFence : Nat
  qRegion : Nat
  qObj : Nat
  vectors : Nat
  cores : List Nat
  rill : List Nat
  deriving DecidableEq, Repr

/-- The fields of a Spool image that the block uses (Table 4-4). -/
structure Image where
  serial : W64 := 0
  tsEn : Nat := 0
  rsvrEn : Nat := 0
  cisEn : Nat := 0
  movEn : Nat := 0
  moorEn : Nat := 0
  hpEn : Nat := 0
  flEn : Nat := 0
  mpEn : Nat := 0
  cfEn : Nat := 0
  ballastPolicy : Nat := 0
  minMemPorts : Nat := 1
  bucketTable : List Nat := []
  shrinkable : Nat := 0
  trainTimeoutMs : Nat := 200
  lanes : List LaneEntry := []
  vendorId : Nat := 0
  deviceId : Nat := 0
  subsysVendor : Nat := 0
  subsysId : Nat := 0
  numVfs : Nat := 0
  hostLossWaitMs : Nat := 0
  ports : List HostPortCfg := []
  chipNumber : Nat := 0xFFFF
  helloPeriod : Nat := 1024
  peerLostTicks : Nat := 3072
  planes : List Nat := []
  laneMasks : List Nat := []
  tetherRole : Nat := 0
  rootPriority : Nat := 0xFF
  domainId : Nat := 0
  holdoverTicks : Nat := 12000
  acqTicks : Nat := 3000000
  classes : List W64 := []
  quietTicks : Nat := 1000
  quietLevel : List Nat := []
  sensorMapT : Nat := 0
  sensorMapP : Nat := 0
  tempLimit : List Int := []
  powerLimit : List Nat := []
  templates : List (List Byte) := []
  fwLoad : Nat := 0
  fwEntry : W64 := 0
  fwSize : Nat := 0
  fwCode : List Byte := []
  deriving DecidableEq, Repr

/-- A repair journal entry (R76). -/
structure JournalEntry where
  seq : Nat
  lane : LaneEntry
  /-- commit marker, and whether it was made in recovery posture -/
  marker : Option Bool
  tick : Nat
  mac : Nat
  deriving DecidableEq, Repr

/-- What the NVM answers in phase 2: its SFDP, size and mode, the image bytes from address 0 (unlisted bytes are 0),
the journal entries of both halves, and what the check of R410 finds in the identity block: 0 if it passes, else the
number of the check that failed. -/
structure NvmData where
  answers : Bool
  mib : Nat
  mode8d : Bool
  bytes : Map Byte
  half0 : List JournalEntry
  half1 : List JournalEntry
  chainFail : Nat
  deriving DecidableEq, Repr

/-- States of the staging area (SPL_STAGE_STATUS.STATE). -/
inductive StageSt where
  | closed | opened | authenticating | authenticated
  deriving DecidableEq, Repr

/-- Peer states (Table 4-9). -/
inductive PeerSt where
  | absent | seen | active | lost | conflict
  deriving DecidableEq, Repr

/-- A peer table entry (Table 4-10, R93). -/
structure Peer where
  st : PeerSt := .absent
  linkMask : Nat := 0
  hops : Nat := 0
  rootCapable : Bool := false
  lastSeen : Nat := 0
  /-- ticks since a hello or an acknowledged packet -/
  silent : Nat := 0
  /-- identity digest of its hello; none until a hello has been heard -/
  digest : Option Nat := none
  wasLost : Bool := false
  deriving DecidableEq, Repr

/-- What a memory port's controller answers in phase 3 (R82): for each of the two attempts, whether TRAIN_DONE came
in time and passed, the capacity, and the failing lanes named. -/
structure TrainReport where
  done : Bool
  pass : Bool
  gib : Nat
  lanes : List Nat
  deriving DecidableEq, Repr

/-- Spool, start-up, journal and peer table (chapter 4). -/
structure SpoolState where
  phase : Nat := 1
  /-- phases 4 and 7 whose start has been made -/
  begun : List Nat := []
  /-- phases 1 to 7 that have ended -/
  ended : List Nat := []
  phaseEnd : Map W64 := []
  recovery : Bool := false
  recoveryTicks : Nat := 0
  staged : Bool := false
  nvm8d : Bool := false
  cause : Nat := 0
  img : Image := {}
  stage : StageSt := .closed
  stageOk : Bool := false
  stageCause : Nat := 0
  stageDropped : Nat := 0
  staging : Map Byte := []
  commitBusy : Bool := false
  /-- the commit that runs, or ran last, began in recovery posture (R76) -/
  commitRec : Bool := false
  /-- entries of the active half and of the other half -/
  journal : List JournalEntry := []
  journalOther : List JournalEntry := []
  /-- the active half is the second, at NVM address 0x0108_0000 (R76) -/
  journalSecond : Bool := false
  journalWait : List JournalEntry := []
  journalSeq : Nat := 0
  live : Nat := 0
  rejected : Nat := 0
  /-- newest verified commit marker at start -/
  marker : Nat × Bool := (0, false)
  laneMap : List LaneEntry := []
  chip : Nat := 0xFFFF
  peers : Map Peer := []
  otherDomain : Nat := 0
  /-- chips whose latest hello carried another DOMAIN_ID: no announcement enters them in the peer table (R92) -/
  foreign : List Nat := []
  planesExcluded : List Nat := []
  /-- ticks a context group has waited for re-enumeration, by function -/
  hostLoss : Map Nat := []
  /-- ticks spent in phase 4 -/
  acqTicks : Nat := 0
  fwRunning : Bool := false
  /-- the mooring cores' scratch memory, 8 MiB: bytes that are not listed read 0 -/
  scratch : Map Byte := []
  resetCause : Nat := 0
  deriving DecidableEq, Repr

end Sys2Proof
end

