-- ==== Sys2Proof/Machine/Types/Env.lean ====
section
/-! DEFINITION. State and operands of chapter 15: envelopes, envelope actions and the key store. -/
namespace Sys2Proof

/-- Envelope states other than FREE (Table 15-5). -/
inductive EnvSt where
  | creating | ready | pausing | paused | removing
  deriving DecidableEq, Repr

/-- ENV_INFO.MOVE. -/
inductive MoveSt where
  | idle | copying | mirrored | switched
  deriving DecidableEq, Repr

/-- A peer map entry (R155): chip, LBASE and LLEN in GiB, rights bits R, W, A. -/
structure PeerMap where
  lbase : Nat
  llen : Nat
  rights : Nat
  deriving DecidableEq, Repr

/-- Dirty-page logging of an envelope (R374 to R376). -/
structure Dirty where
  ring : Nat
  k : Nat
  device : Bool
  host : Bool
  head : Nat := 0
  tail : Nat := 0
  cleared : Nat := 0
  /-- pages with LOGGED set, in order of their records -/
  logged : List Nat := []
  /-- pages with PEND set, in address order -/
  pend : List Nat := []
  /-- kind (1 host) and page of each unconsumed record, oldest first -/
  recs : List (Bool × Nat) := []
  deriving DecidableEq, Repr

/-- An envelope that is not FREE (Table 15-1). -/
structure Env where
  st : EnvSt := .creating
  vf : Nat
  tag : Nat
  kgen : Nat
  hostId : Nat
  classMask : Nat
  remoteRights : Nat
  lbase : Nat
  llen : Nat
  qCtx : Nat
  qQueue : Nat
  qFence : Nat
  qRegion : Nat
  qObj : Nat
  vectors : Nat
  /-- core map: envelope-local index to physical core -/
  cores : List Nat
  /-- Rill slots assigned -/
  rill : List Nat
  peers : Map PeerMap := []
  move : MoveSt := .idle
  /-- the other range of a mirrored pair, in GiB -/
  newBase : Nat := 0
  movers : Nat := 1
  rewritten : Bool := false
  /-- ticks until mirroring ends after MEM_RELEASE -/
  releaseIn : Option Nat := none
  /-- bytes of the local range scrubbed -/
  scrubbed : Nat := 0
  /-- free blocks of the allocator: (log2, offset) -/
  blocks : List (Nat × Nat) := []
  dirty : Option Dirty := none
  /-- tick of the last key port acknowledgement -/
  ackTick : Nat := 0
  /-- flushes that PAUSED waits for, once they have been issued (R373) -/
  pauseNeed : Option (List (Nat × Nat)) := none
  /-- Rill slots written while the envelope is paused, whose notification waits (R373) -/
  rillDue : List Nat := []
  /-- ticks since the effect tick of REMOVE -/
  removeTicks : Nat := 0
  /-- cores that have still to return to the pool -/
  coresOut : List Nat := []
  /-- requests refused or failing authentication, counted against the envelope -/
  refused : Nat := 0
  deriving DecidableEq, Repr

/-- Envelope actions (Table 15-3), without the envelope index. -/
inductive EnvAct where
  | create (t : List Byte)
  | remove
  | update (t : List Byte)
  | coreBind (index core : Nat)
  | peerSet (chip : Nat) (m : PeerMap)
  | peerClear (chip : Nat)
  | memMove (base movers : Nat)
  | memSwitch
  | memRelease
  | memLen (len : Nat)
  | pause
  | resume
  | dirtyStart (ring k : Nat) (device host : Bool)
  | dirtyStop
  deriving DecidableEq, Repr

/-- The read of an envelope template (R357): the action word and its port, its effect tick, whether the read has been
issued, the bytes that have come, how many have not, and whether any was poison. -/
structure TmplRead where
  act : W64
  port : Fin 4
  effect : Nat
  sent : Bool := false
  data : Map Byte := []
  left : Nat := 256
  bad : Bool := false
  deriving DecidableEq, Repr

/-- A leaving core's progress (R363). -/
inductive CoreLeave where
  | quiescing | flushing (ticks : Nat) | resetting (ticks : Nat) | returning
  deriving DecidableEq, Repr

/-- Envelopes and the key store (chapter 15). -/
structure EnvState where
  envs : Map Env := []
  /-- (tag, KGEN) pairs used since power-on -/
  used : List (Nat × Nat) := []
  /-- actions of the pending epoch, in the order in which they started, and its effect tick -/
  pending : List (Nat × EnvAct) := []
  effect : Nat := 0
  busy : Bool := false
  /-- the action that waits for its template -/
  tmpl : Option TmplRead := none
  status : Status := .ok
  epoch : Nat := 0
  /-- cores leaving an envelope: core to its progress, the envelope it leaves, and the index it had -/
  leaving : Map (CoreLeave × Nat × Nat) := []
  /-- memory key slots loaded -/
  loaded : List Nat := []
  /-- the keys that the key store holds, by memory key slot (R369) -/
  keys : Map Nat := []
  /-- the filter of recent host pages of dirty logging (R376): envelope and page, newest last -/
  hostPages : List (Nat × Nat) := []
  zeroising : Bool := false
  zeroRefused : Bool := false
  zeroised : Bool := false
  deriving DecidableEq, Repr

end Sys2Proof
end

