-- ==== Sys2Proof/Machine/Types/Cis.lean ====
section
/-! DEFINITION. Types of chapter 13: values, accumulators, plans, chunks and reductions. -/
namespace Sys2Proof

/-- The exact value of an element: NaN, an infinity, or (−1)^neg × m × 2^e (R299, R302). -/
inductive Val where
  | nan
  | inf (neg : Bool)
  | fin (neg : Bool) (m : Nat) (e : Int)
  deriving DecidableEq, Repr

/-- An accumulator (R309): A in two's complement, and its flags. The class is that of the reduction's format. -/
structure Acc where
  a : Int := 0
  nan : Bool := false
  pinf : Bool := false
  ninf : Bool := false
  ovf : Bool := false
  nz : Bool := false
  pz : Bool := false
  mz : Bool := false
  deriving DecidableEq, Repr

/-- A reduction plan (Table 13-8). -/
structure Plan where
  id : Nat
  parent : Nat
  outFmt : Nat
  firstSlot : Nat
  stride : Nat
  perSlot : Nat
  leaf : Nat
  leaves : Nat
  round : Nat
  all : Bool
  sat : Bool
  loc : Nat
  lateTicks : Nat
  srKey : W64
  children : List Nat
  rsvdZero : Bool
  deriving DecidableEq, Repr

/-- A partial record as its header gives it (Table 13-6), with its payload. -/
structure Rec where
  id : Nat
  chunk : Nat
  fmt : Nat
  kind : Nat
  op : Nat
  elements : Nat
  failed : Bool
  sender : Nat
  contribs : Nat
  slot : Nat
  nblocks : Nat
  payload : List Byte
  deriving DecidableEq, Repr

/-- A chunk of a reduction on this chip (R317 to R323). -/
structure Chunk where
  /-- its locked state is held; the chip's own contribution has started -/
  started : Bool := false
  /-- it has waited for locked state (R318) -/
  waited : Bool := false
  own : Bool := false
  /-- core contributions each element has received (R322) -/
  counts : List Nat := []
  accs : List Acc := []
  blocks : List (Nat × Nat × List Nat) := []
  /-- the maximum or minimum of each element so far -/
  native : List (Option Nat) := []
  /-- children whose record has been added -/
  got : List Nat := []
  contribs : Nat := 1
  failed : Bool := false
  /-- a late record has been added (R319) -/
  late : Bool := false
  /-- its record has been sent, or at the root its result has been made -/
  sent : Bool := false
  /-- written or sent: its part in the command's completion is over -/
  fin : Bool := false
  ok : Bool := false
  /-- its locked state has been released -/
  released : Bool := false
  deriving DecidableEq, Repr

/-- A REDUCE command in flight, keyed by its command (R315, R316). -/
structure Reduction where
  plan : Plan
  fmt : Nat
  op : Nat
  ordered : Bool
  count : Nat
  src : Nat
  dst : Nat
  ctx : Nat
  env : Nat
  cls : Nat
  /-- identity of the command (R15) -/
  ident : Ident := {}
  chunks : Map Chunk := []
  late : Nat := 0
  /-- a status other than OK with which a chunk has ended -/
  bad : Option Status := none
  /-- the command has completed; only locked state that awaits acknowledgement is left -/
  isOver : Bool := false
  deriving DecidableEq, Repr

/-- The Cistern (chapter 13). -/
structure CisState where
  reds : Map Reduction := []
  late : Nat := 0
  failed : Nat := 0
  mismatch : Nat := 0
  sat : Nat := 0
  deriving DecidableEq, Repr

end Sys2Proof
end

