-- ==== Sys2Proof/Machine/Types/Ports.lean ====
section
/-! DEFINITION. State and operands of chapter 3: memory ports, core fabric ports, sensors, MGMT and the test port. -/
namespace Sys2Proof

/-- A granule request at a memory port (Table 3-7). -/
structure MpReq where
  write : Bool
  gran : Nat
  smask : Nat
  kslot : Nat
  /-- write data, four sectors of 64 bytes; empty for a read -/
  data : List Byte := []
  /-- its words, 0 to 31, whose codewords carry P (R57, R387) -/
  bad : List Nat := []
  deriving DecidableEq, Repr

/-- An open request: accepted by the port, its tag, and the sectors whose beats have not returned. -/
structure MpOpen where
  tag : Nat
  req : MpReq
  left : List Nat
  deriving DecidableEq, Repr

/-- A word and its 16 check bits, as a port brings them (R57, R386). -/
structure CodeWord where
  d : W64
  chk : BitVec 16
  deriving DecidableEq, Repr

/-- What the (80,64) code makes of a word that arrives (R386): good, corrected, or poisoned. -/
inductive WordIn where
  | good (d : W64)
  | corrected (d : W64)
  | poison
  deriving DecidableEq, Repr

/-- A response beat (Table 3-7): read data of one sector with its check bits and mpN_rsp_poison, a write done, or an
error. -/
inductive MpBeat where
  | data (beat : Fin 4) (words : List CodeWord) (poison : Bool)
  | writeDone
  | error
  deriving DecidableEq, Repr

/-- The tag of a request open at a memory port, on the wide path or the narrow one (R55, R58). -/
structure MpTag where
  narrow : Bool
  tag : BitVec 9
  deriving DecidableEq, Repr

/-- A response of the narrow path: a word with its check bits, and whether it comes as poison (R57, R58). -/
structure NrBeat where
  w : CodeWord
  poison : Bool
  deriving DecidableEq, Repr

/-- A narrow request (Table 3-9); `who` is true for the manager's MPT_NR request (R293), `fill` for a read of the Reservoir
that goes over the narrow path, and `bad` marks the data of a write as poison (R292). -/
structure NrReq where
  tag : Nat
  write : Bool
  word : Nat
  kslot : Nat
  data : W64
  who : Bool
  fill : Bool := false
  bad : Bool := false
  deriving DecidableEq, Repr

/-- A key port operation (R60): load of a slot, zeroise of a slot, zeroise of all; `env` is the owner, `beats` the key
material of a load, beat 0 first. -/
structure KeyOp where
  op : Nat
  slot : Nat
  env : Option Nat
  beats : List W64 := []
  deriving DecidableEq, Repr

/-- Service state of a memory port. -/
inductive MpSt where
  | untrained | training | inService | quiescing | quiesced | failing | mappedOut | outOfService | bist
  deriving DecidableEq, Repr

/-- A memory port: credits, open and waiting requests, the narrow path, training and the key port. -/
structure MpPort where
  st : MpSt := .untrained
  /-- QUIESCE has been sent and RESUME has not (R59) -/
  quiet : Bool := false
  reqCred : Nat := 0
  wdCred : Nat := 0
  opened : List MpOpen := []
  waiting : List MpReq := []
  narrow : List NrReq := []
  narrowWait : List NrReq := []
  keyBusy : Option KeyOp := none
  keyWait : List KeyOp := []
  gib : Nat := 0
  /-- lanes named failing since the last TRAIN_START -/
  failLanes : List Nat := []
  /-- corrected and uncorrectable words (Table 12-9), and the ticks of the latter for UE_LIMIT (R295) -/
  ce : Nat := 0
  ue : Nat := 0
  ueTicks : List Nat := []
  repaired : Nat := 0
  /-- spare lane chosen for a failed lane, taken at the next edge (R294) -/
  laneDue : List Nat := []
  /-- it leaves service once quiesced (R296) -/
  leaving : Bool := false
  /-- its buckets fit only under a lowered extent, so it is being mapped out (R297) -/
  mapOut : Bool := false
  deriving DecidableEq, Repr

/-- An upstream VC0 header (Table 3-16) without its OP, which the row names; `rsvd` holds the three reserved fields
[99], [106] and [127:126]. -/
structure Vc0Hdr where
  core : Fin 8
  engine : Fin 4
  token : BitVec 16
  tag : BitVec 9
  addr : BitVec 57
  len : BitVec 6
  hint : Fin 4
  fmt : BitVec 4
  scope : Fin 8
  deadline : BitVec 16
  rsvd : BitVec 4
  /-- the request brings the reserved operation code 0x0C + n in place of the row's (Table 3-17) -/
  badOp : Option (Fin 52)
  deriving DecidableEq, Repr

/-- A temperature or power sensor (R70). -/
structure Sensor where
  value : Int := 0
  tick : Nat := 0
  stale : Bool := false
  deriving DecidableEq, Repr

/-- Downstream flits of the core fabric (Table 3-15); data is at most 64 bytes. -/
inductive CfMsg where
  /-- VC1 response (R67): core, engine, tag, status code, data flit number -/
  | rsp (core engine tag status flit : Nat) (data : List Byte) (poison : Bool)
  /-- VC2 work dispatch with a token (R66): entry, args, item count, argument, index among the cores used -/
  | dispatch (core token : Nat) (entry args : W64) (items : W32) (arg0 : W64) (index cores : Nat)
  | abort (core token : Nat)
  /-- VC2 Rill notification (R134) -/
  | rill (core slot seq len : Nat)
  /-- VC3 to VC6 coherence message: agent, MSG of Table 11-5, transaction, address, STATUS or SIZE_LOG2, data -/
  | coh (agent msg txn addr arg : Nat) (data : List Byte) (poison : Bool)
  /-- VC7: OP of Table 15-6: 1 CORE_QUIESCE, 2 CORE_RESET, 3 CORE_BIST -/
  | ctl (core kind : Nat)
  deriving DecidableEq, Repr

/-- A core fabric port: credits per virtual channel, and flits that wait for a credit, oldest first. -/
structure CfPort where
  /-- credits the block holds for downstream channels, at most 255 each (R64) -/
  dn : Map Nat := []
  waiting : List (Nat × CfMsg) := []
  errored : Bool := false
  deriving DecidableEq, Repr

/-- How a MGMT request comes (R69): over I3C, or as a PCIe vendor-defined message through the physical function of a
host port. -/
inductive MgmtVia where
  | i3c
  | vdm (p : Nat)
  deriving DecidableEq, Repr

/-- A MGMT request (R69): an MCTP control message, or a PLDM request of a type and command. -/
inductive MgmtReq where
  | mctpControl (cmd : Nat)
  | pldmBase (cmd : Nat)
  | pldmSensor (sensor : Nat)
  | pldmOther (type : Nat)
  | writeRootSet (v : W64)
  deriving DecidableEq, Repr

/-- A management request and the way it comes (R69). -/
structure MgmtIn where
  via : MgmtVia
  req : MgmtReq
  deriving DecidableEq, Repr

/-- A TAP instruction or instrument (R72): one that is available at all times, or one that drives pins or reads
internal state. -/
inductive TapOp where
  | idcode
  | bypass
  | bistMonitor
  | intrusive (code : BitVec 16)
  deriving DecidableEq, Repr

/-- Ports other than host ports and fabric links (chapter 3). -/
structure PortState where
  mp : Map MpPort := []
  cf : Map CfPort := []
  temp : Map Sensor := []
  power : Map Sensor := []
  /-- the present marks of the reference inputs (R48) -/
  ref10m : Bool := false
  refPps : Bool := false
  /-- TAP instruction register; BYPASS after reset -/
  tap : TapOp := .bypass
  /-- ticks since the bucket table was published (R63) -/
  ilvTicks : Nat := 0
  ilvEpoch : Nat := 0
  /-- cores in error or out of service -/
  coreOut : List Nat := []
  /-- cores that cfN_core_present did not show at the self-test (R79) -/
  absent : List Nat := []
  deriving DecidableEq, Repr

end Sys2Proof
end

