-- ==== Sys2Proof/Machine/Types/Queue.lean ====
section
/-! DEFINITION. State and operands of chapters 6, 9 and 10: contexts, queues, commands, objects, fences, requests. -/
namespace Sys2Proof

/-- A command header (Table 6-3) with bytes 48 to 63, and which parts of the fetch returned poison (R130). -/
structure CmdHdr where
  serial : Bool := false
  irq : Bool := false
  rsvd : BitVec 4 := 0
  cls : Cls := 0
  scope : Fin 8 := 4
  ext : Fin 8 := 0
  deadline : BitVec 16 := 0
  userTag : BitVec 24 := 0
  layer : W32 := 0
  oper : W32 := 0
  sigFence : W64 := 0
  sigValue : W64 := 0
  poisonBody : Bool := false
  poisonSig : Bool := false
  deriving DecidableEq, Repr

/-- The body of a command (Table 6-4), one constructor per opcode; `unknown` is any other opcode. -/
inductive CmdBody where
  | nop
  | unknown (op : Byte)
  | dispatch (entry args : W64) (cores first : BitVec 16) (items : W32) (arg0 : W64)
  | copy (src dst : W64) (len : W64) (srcHint dstHint : Byte)
  | fill (dst len pattern : W64) (hint : Byte)
  | inlineWrite (dst : W64) (len : BitVec 16) (hint : Byte) (data : List Byte)
  | convert (src dst : W64) (count : W32) (srcFmt dstFmt round flags : Byte) (srKey : W64)
  | reduce (src dst : W64) (count : W32) (fmt op mode rsvd : Byte) (plan : W64)
  | fenceSignal (fence value : W64)
  | fenceWait (fence target : W64) (timeout : W32)
  | alloc (size : W64) (alignLog2 flags : Byte)
  | free (object : W64)
  | query (item index : BitVec 16)
  | ctxCreate (pasid : W32) (ptRoot : W64) (defClass : Byte)
  | ctxDestroy (ctx : W64)
  | ctxResume (ctx : W64)
  | ctxReclaim (index : BitVec 16)
  | queueCreate (ctx ring cpl : W64) (k fetchMaxLog2 : Byte) (vector : BitVec 16) (prio : Byte)
  | queueDestroy (queue : W64)
  | queueStop (queue : W64)
  | queueStart (queue : W64)
  | fenceCreate (ctx initial : W64) (scope mode : Byte)
  | fenceDestroy (fence : W64)
  | regionRegister (object offset len : W64) (rights : Byte)
  | regionRevoke (region : W64)
  | rillBind (slot core : BitVec 16) (ctx : W64)
  | rillUnbind (slot : BitVec 16)
  deriving DecidableEq, Repr

/-- Context states (Table 6-7). -/
inductive CtxSt where
  | active | faulted | hostPathLost | destroying
  deriving DecidableEq, Repr

/-- A context that is not FREE. -/
structure Ctx where
  st : CtxSt
  fn : Nat
  env : Option Nat
  pasid : Nat
  /-- object slot of the page-table object; none for a context without a device page table (R424) -/
  ptObj : Option Nat
  defCls : Nat
  /-- host ports that carried writes since the last system-scope release: port to the latest sequence number -/
  wrote : Map Nat := []
  /-- address of the most recent posted write on each port (R202) -/
  lastAddr : Map Nat := []
  fault : W64 := 0
  mismatches : Nat := 0
  mismatchTick : Bool := false
  /-- destruction: commands aborted, tick of its effect cycle, command to report -/
  aborted : Nat := 0
  destroyAt : Nat := 0
  reportTo : Option Nat := none
  paused : Bool := false
  deriving DecidableEq, Repr

/-- Queue states and error causes (Table 6-8). -/
inductive QueueSt where
  | active | stopped
  | ringOverrun | hostLost | fetchFailed | recordFailed | headerPoison
  deriving DecidableEq, Repr

/-- A ring entry whose fetch has been issued and which has not been taken up: its position, the number of the fetch,
whether it counts against FETCH_MAX, whether it has arrived, and the parts of it that came back as poison (R130): bytes
0 to 15, 16 to 47 and 48 to 63. -/
structure Fetched where
  pos : Nat
  num : Nat
  paid : Bool
  here : Bool := false
  badHdr : Bool := false
  badBody : Bool := false
  badSig : Bool := false
  deriving DecidableEq, Repr

/-- A queue that is not FREE; an admin queue has no context. -/
structure Queue where
  st : QueueSt := .active
  ctx : Option Nat
  fn : Nat
  ring : Nat
  cpl : Nat
  k : Nat
  fetchMax : Nat
  vector : Nat
  prio : Nat := 0
  db : Nat
  head : Nat := 0
  tail : Nat := 0
  cdone : Nat := 0
  chead : Nat := 0
  /-- entries fetched from `head` on and not taken up, in ring order -/
  entries : List Fetched := []
  /-- fetches in flight whose entries are discarded and fetched again -/
  void : List Nat := []
  /-- entries of the INLINE_WRITE at `head` that waits for its extension entries (R132); 0 where none does -/
  wait : Nat := 0
  /-- TAIL at the last service of its doorbell, and the commands that may still be fetched in the tick of it (R35, R130) -/
  upTo : Nat := 0
  left : Nat := 0
  deriving DecidableEq, Repr

/-- Progress of a started command. -/
inductive CmdSt where
  /-- fetched, not started -/
  | queued
  /-- started; its work runs -/
  | running
  /-- its work has ended; the release before its record or signal waits for flushes -/
  | releasing
  deriving DecidableEq, Repr

/-- A fetched command that has not ended. -/
structure Cmd where
  queue : Nat
  pos : Nat
  body : CmdBody
  hdr : CmdHdr
  ctxGen : Nat
  st : CmdSt := .queued
  /-- ticks of its deadline left; 0 when none or missed (R37) -/
  dlLeft : Nat := 0
  dlMiss : Bool := false
  /-- dispatch tokens that have not reported -/
  tokens : List Nat := []
  /-- next byte to cut and bytes that have ended, for transfers; chunks for reductions -/
  next : Nat := 0
  done : Nat := 0
  inFlight : Nat := 0
  /-- step of a command that reads before it writes -/
  step : Nat := 0
  res0 : Nat := 0
  res1 : Nat := 0
  status : Status := .ok
  /-- tick of its effect cycle, where the record is written later (R126) -/
  effTick : Option Nat := none
  /-- SIG_FENCE has been handled -/
  signalled : Bool := false
  /-- a COPY has carried poison to its destination (R387) -/
  carried : Bool := false
  deriving DecidableEq, Repr

/-- A dispatch token (R66). -/
structure Token where
  core : Nat
  cmd : Nat
  ctx : Nat
  ctxGen : Nat
  ident : Ident
  relaxed : Bool
  /-- index among the cores of its command -/
  ix : Nat := 0
  aborted : Bool := false
  /-- ticks since the abort dispatch -/
  abortTicks : Nat := 0
  deriving DecidableEq, Repr

/-- Memory object states (Table 6-8). -/
inductive ObjSt where
  | live | zombie | quarantine
  deriving DecidableEq, Repr

/-- A memory object that is not FREE. -/
structure Obj where
  st : ObjSt := .live
  ctx : Option Nat
  env : Nat
  /-- offset of its block within the envelope's memory, and log2 of its size -/
  off : Nat
  log2 : Nat
  rights : Nat
  shared : Bool
  isPt : Bool := false
  /-- next free byte of a page-table object (R150) -/
  ptNext : Nat := 128
  /-- commands admitted before the effect cycle that have not completed (R138) -/
  refs : List Nat := []
  /-- tick edges since the revoking edge -/
  edges : Nat := 0
  deriving DecidableEq, Repr

/-- A placement region that is not FREE. -/
structure Region where
  ctx : Nat
  obj : Nat
  off : Nat
  len : Nat
  key : Nat
  win : Nat
  nwin : Nat
  /-- it ends at the next tick edge (R190) -/
  ending : Bool := false
  deriving DecidableEq, Repr

/-- A Rill slot (R134, R135). -/
structure Rill where
  ctx : Option Nat := none
  core : Nat := 0
  mem : Map Byte := []
  deriving DecidableEq, Repr

/-- Fence states (Table 10-1). -/
inductive FenceSt where
  | live | error | exhausted | destroying
  deriving DecidableEq, Repr

/-- The signaller a fence records (Table 10-1). -/
structure Signaller where
  chip : Nat := 0
  core : Nat := 0
  engine : Nat := 0
  scope : Nat := 0
  deriving DecidableEq, Repr

/-- A fence record that is not FREE (Table 10-1). -/
structure Fence where
  value : W64
  st : FenceSt := .live
  compat : Bool := false
  scope : Nat
  ctx : Nat
  cause : Nat := 0
  sig : Signaller := {}
  /-- VALUE comes from a signal, which `sig` names, and not from INITIAL or a RESET (R242) -/
  signed : Bool := false
  stale : Nat := 0
  mirror : Option Nat := none
  /-- a mirror write is in flight, and a change waits behind it (R246) -/
  mirrorBusy : Bool := false
  /-- the write in flight has been issued and awaits its acceptance -/
  mirrorSent : Bool := false
  mirrorAgain : Bool := false
  armVector : Nat := 0
  armTarget : W64 := 0
  armed : Bool := false
  /-- the arm fires once the mirror write in flight has been accepted, or the one that follows it -/
  armDue : Bool := false
  armNext : Bool := false
  deriving DecidableEq, Repr

/-- Who waits at a fence. -/
inductive WaitWho where
  | cmd (id : Nat)
  | vc0 (id : Nat)
  | remote (chip seq env cls : Nat)
  deriving DecidableEq, Repr

/-- A pending wait (R235 to R237). -/
structure Wait where
  fence : Nat
  target : W64
  who : WaitWho
  scope : Nat
  /-- context of the waiter, where it is of this chip; identity and envelope of its command or request (R15) -/
  ctx : Option Nat := none
  ident : Ident := {}
  env : Option Nat := none
  /-- core and engine of the waiter, for the mismatch check -/
  core : Nat
  engine : Nat
  /-- ticks left; none without a TIMEOUT -/
  left : Option Nat
  /-- it holds a waiter table entry -/
  registered : Bool
  deriving DecidableEq, Repr

/-- The slots of one kind of object (R124). -/
structure Slots where
  /-- lowest slot never used -/
  fresh : Nat := 0
  /-- slots freed, in the order in which they were freed -/
  freed : List Nat := []
  gens : Map Nat := []
  retired : List Nat := []
  deriving DecidableEq, Repr

/-- An atomic operation (Table 12-2): code, width in bytes, format, operands. -/
structure AtomOp where
  aop : Nat
  width : Nat
  fmt : Nat
  operand : BitVec 128
  compare : BitVec 128
  noret : Bool
  deriving DecidableEq, Repr

/-- A tile (R173): base, row pitch, rows, bytes per row. -/
structure Tile where
  base : BitVec 57
  pitch : W32
  rows : BitVec 16
  rowBytes : BitVec 24
  /-- [511:136] of the descriptor is 0 -/
  rsvdZero : Bool := true
  deriving DecidableEq, Repr

/-- The data field of a core fence operation (Table 10-3). -/
structure FenceData where
  handle : W64
  value : W64
  chip : Chip
  timeout : W32
  rsvdZero : Bool := true
  deriving DecidableEq, Repr

/-- The work of a request that waits, translates or awaits data. -/
inductive ReqOp where
  | load (va len : Nat)
  | store (va : Nat) (data : List Byte)
  | tileRead (t : Tile)
  | tileWrite (t : Tile)
  | atomic (va : Nat) (op : AtomOp)
  | release (scope : Nat)
  | acquire (scope : Nat)
  | fenceSignal (d : FenceData) (scope : Nat)
  | fenceWait (d : FenceData) (scope : Nat)
  /-- a mover piece: source, destination, length -/
  | copy (src dst len : Nat)
  | fill (dst len : Nat) (pattern : W64) (phase : Nat)
  /-- a write whose last byte takes only its low bits (R300) -/
  | storeBits (va : Nat) (data : List Byte) (bits : Nat)
  /-- the read of one chunk's SRC elements, and the write of its DST elements (R319, R323) -/
  | contribute (chunk va len : Nat)
  | result (chunk va : Nat) (data : List Byte) (bits : Nat)
  | place (va : Nat) (data : List Byte) (region : Nat)
  | mirror (slot va : Nat) (value : W64)
  /-- the fetch of a ring entry of a queue, with its number -/
  | ptFetch (q num : Nat) (va len : Nat)
  | record (cmd va : Nat) (data : List Byte)
  /-- accesses that bring a physical address: of a peer (R156) or of a host's CXL.mem (R271) -/
  | paRead (pa len : Nat)
  | paWrite (pa : Nat) (data : List Byte)
  | paAtomic (pa : Nat) (op : AtomOp)
  /-- a coherent request of an agent (R261): 0 RdShared, 1 RdOwn, 2 Upgrade; address and source once translated -/
  | coh (kind agent txn va pa src : Nat)
  /-- a page of a bias action of a function (R258) -/
  | bias (va pa src : Nat)
  /-- a doorbell and a Rill write that follow earlier writes of their port (R191): 0 submit, 1 completion -/
  | ring (fn slot which : Nat) (value : W64)
  | rill (fn slot off : Nat) (data : List Byte)
  /-- a core's allocator calls and its contribution (R143, R322) -/
  | alloc (size align flags : Nat)
  | free (object : W64)
  | reduce (id chunk first n fmt : Nat) (elems : BitVec 384)
  /-- mover work at physical addresses (Table 8-2): a piece of an ALLOC's ZERO with what is left behind it, of a scrub,
  of a move between the ranges of a mirrored pair, and the granules of a bucket that leaves its port -/
  | zero (obj pa len left : Nat)
  | scrub (env pa len : Nat)
  | carry (env src dst len : Nat)
  | shift (grans : List Nat)
  deriving DecidableEq, Repr

/-- Who made a request. -/
inductive ReqWho where
  | core (cf core engine tag token : Nat)
  | cmd (id : Nat)
  | window (port fn tag : Nat) (read : Bool)
  /-- a packet of a peer: chip, ESEQ on VC3, the class of its answer -/
  | remote (chip eseq cls : Nat)
  /-- a CXL.mem request of a host port (R271) -/
  | cxl (port tag : Nat)
  /-- a posted write of a host port outside the host window (R191) -/
  | inbound (port : Nat)
  | block
  deriving DecidableEq, Repr

/-- Phase of a request. -/
inductive ReqSt where
  /-- waits behind an earlier request of its covered set or span (R215, R216, R224) -/
  | held
  /-- waits for class credit (R196) -/
  | credit
  /-- translates; parked while a fill is outstanding -/
  | translate
  /-- its reads are outstanding -/
  | reading
  /-- its writes have been issued and are not all accepted -/
  | accepting
  /-- waits for flushes (R203) -/
  | flushing
  deriving DecidableEq, Repr

/-- A request in the block. -/
structure Req where
  who : ReqWho
  fn : Nat
  env : Option Nat
  ident : Ident
  op : ReqOp
  st : ReqSt := .translate
  hint : Nat := 0
  relaxed : Bool := false
  /-- PRI rounds used (R165) -/
  rounds : Nat := 0
  /-- data that has arrived, by byte offset; staged tile data -/
  data : Map Byte := []
  /-- bytes still to arrive -/
  expect : Nat := 0
  /-- fabric packets not yet acknowledged -/
  acks : Nat := 0
  poisoned : Bool := false
  /-- poisoned spans of what a COPY piece has read: offset and length (R387) -/
  bad : List (Nat × Nat) := []
  /-- ticks of its deadline left (R37) -/
  dlLeft : Nat := 0
  /-- its deadline miss has been counted (R199) -/
  dlMissed : Bool := false
  /-- arrival order -/
  seq : Nat := 0
  /-- 0 its reads, 1 its writes -/
  phase : Nat := 0
  /-- resource whose credit it waits for (R196): 0 to 3 host ports, 4 to 35 links, 36 to 107 memory ports -/
  res : Nat := 0
  cost : Nat := 0
  /-- resources whose credit it has spent in the running phase -/
  paid : List Nat := []
  /-- its lines of device memory have been looked up in the running phase -/
  asked : Bool := false
  /-- a core's request holds a range entry; it stands in its core's wait list; its VC0 credit is withheld (R217) -/
  entry : Bool := false
  listed : Bool := false
  owed : Bool := false
  /-- a release at scope 1 has widened its tracking to the whole token (Table 9-2) -/
  wide : Bool := false
  /-- mover that works on the piece (R192) -/
  mover : Option Nat := none
  /-- pieces of its transfer that follow it, and what the pieces before it have read (R36, R198) -/
  behind : List ReqOp := []
  before : List Byte := []
  deriving DecidableEq, Repr

/-- Contexts, queues, commands, objects, fences and requests (chapters 6, 9 and 10). -/
structure QueState where
  ctxSlots : Slots := {}
  queSlots : Slots := {}
  objSlots : Slots := {}
  fenSlots : Slots := {}
  regSlots : Slots := {}
  tokSlots : Slots := {}
  ctxs : Map Ctx := []
  queues : Map Queue := []
  objs : Map Obj := []
  regions : Map Region := []
  fences : Map Fence := []
  tokens : Map Token := []
  rills : Map Rill := []
  waits : Map Wait := []
  cmds : Map Cmd := []
  reqs : Map Req := []
  /-- mover work that the block gives itself, by kind and envelope: how far its pieces have been issued (Table 8-2) -/
  jobs : Map Nat := []
  nextCmd : Nat := 0
  nextReq : Nat := 0
  nextFetch : Nat := 0
  nextWait : Nat := 0
  /-- waits that have ended: who waited, with which status and value -/
  fenceEnds : List (WaitWho × Status × W64) := []
  /-- requests that have ended, with their status, not yet reported -/
  finished : List (Nat × Req × Status) := []
  /-- queues whose doorbells are recorded and not fully served, in order of arrival -/
  rung : List Nat := []
  /-- result registers of a function's fence action, keyed by function -/
  actStatus : Map Nat := []
  actValue : Map W64 := []
  actOverrun : List Nat := []
  actState : Map Nat := []
  /-- a SET_MIRROR that runs: fence slot and address, by function -/
  actBusy : Map (Nat × Nat) := []
  deriving DecidableEq, Repr

end Sys2Proof
end

