-- ==== Sys2Proof/Machine/Types/Time.lean ====
section
/-! DEFINITION. State and operands of chapter 2: the tick and the tether. -/
namespace Sys2Proof

/-- Tether states (Table 2-4). -/
inductive TthState where
  | acquire | locked | holdover | freeRun | stepPending
  deriving DecidableEq, Repr

/-- A root claim (R28): quality, priority and chip number, compared field by field. -/
structure RootClaim where
  quality : Nat
  priority : Nat
  chip : Nat
  deriving DecidableEq, Repr

/-- A stamp of link timing: a tether value and its 4-bit fraction, in units of 3.906 25 ps (R25, Table 14-6). -/
abbrev Stamp := BitVec 68

/-- What a sync message brings to a link (R30, R32, Table 14-6): the root's departure stamp and the link's own arrival
stamp, the correction field, the root, the domain, and the switch hops of its path to the root. -/
structure SyncMsg where
  depart : Stamp
  correction : BitVec 48
  arrive : Stamp
  root : Nat
  domain : Nat
  hops : Nat
  deriving DecidableEq, Repr

/-- The tether and its registers (chapter 2). -/
structure TimeState where
  /-- TTH_NOW -/
  now : W64 := 0
  /-- the fraction that extends stamps, in 1/16 of a unit (R25) -/
  frac : Nat := 0
  st : TthState := .acquire
  isRoot : Bool := false
  refQuality : Nat := 2
  hops : Nat := 0
  /-- ERR_BOUND in units of 0.05 ps; the register shows whole ps saturating at 0xFFFF -/
  errBound20 : Nat := 0xFFFF * 20
  cycPerTick : Nat := 0
  rootChip : Nat := 0
  rootPriority : Nat := 0xFF
  offset : Int := 0
  stepOffset : Int := 0
  stepCount : Nat := 0
  stepGo : Bool := false
  linkDelay : Map Nat := []
  linkMissed : Map Nat := []
  /-- departure stamps of link delay exchanges that have not returned in this tick (R31) -/
  exchange : Map Stamp := []
  /-- consecutive ticks without valid sync (R38) -/
  noSync : Nat := 0
  syncThisTick : Bool := false
  /-- consecutive ticks with valid sync (R40) -/
  syncRun : Nat := 0
  /-- ticks spent in HOLDOVER (R38) -/
  holdTicks : Nat := 0
  /-- links excluded as sync sources (R32) -/
  excluded : List Nat := []
  /-- the sync heard on each link in this tick: its offset and the message -/
  heard : Map (Int × SyncMsg) := []
  /-- the message of the tick that ended which this chip relays, and the links that heard sync themselves (R30) -/
  relay : Option (Nat × SyncMsg × List Nat) := none
  /-- ticks of slewing left on the way back to LOCKED (R40) -/
  slewTicks : Option Nat := none
  /-- an election runs; ticks since its start (R28) -/
  election : Option Nat := none
  /-- claims heard in hello messages (R28) -/
  claims : List RootClaim := []
  /-- a new root with REF_QUALITY 0 waits for its first 1 PPS edge (R29) -/
  awaitPps : Bool := false
  deriving DecidableEq, Repr

end Sys2Proof
end

