-- ==== Sys2Proof/Machine/Types/Fabric.lean ====
section
/-! DEFINITION. State and operands of chapter 14: fabric links, peers' sessions and sequences, packets. -/
namespace Sys2Proof

/-- Body of an end-to-end packet (Table 14-4). A request carries the sender's own request number, a response the ESEQ of
the request that it answers. -/
inductive Pkt where
  | write (req : Nat) (pa : Nat) (data : List Byte)
  | read (req off pa len : Nat)
  | atomic (req pa : Nat) (op : AtomOp)
  | record (id chunk : Nat) (bytes : List Byte)
  | fenceOp (req : Nat) (signal : Bool) (handle value : W64) (timeout scope core engine : Nat)
  | rdata (eseq : Nat) (data : List Byte) (st : Status)
  | aresp (eseq : Nat) (old : Option Nat) (st : Status)
  | fenceDone (eseq : Nat) (value : W64) (st : Status)
  deriving DecidableEq, Repr

/-- A packet with its class and its envelope's fabric tag and key generation; tag 0xFFF for traffic of no envelope. -/
structure PktOut where
  cls : Nat := 0
  tag : Nat := 0xFFF
  kgen : Nat := 0
  body : Pkt
  /-- identity of the request, up to the port (R15) -/
  ident : Ident := {}
  deriving DecidableEq, Repr

/-- A packet as sent (Table 14-4a): channel, end-to-end sequence number, packet counter, send tick and key epoch. -/
structure Packet where
  dst : Nat
  vc : Nat
  eseq : Nat
  ctr : Nat
  stick : Nat
  kepoch : Bool
  p : PktOut
  deriving DecidableEq, Repr

/-- What a frame of the model carries (log 30). -/
inductive FlMsg where
  | sync (depart : Stamp) (correction : BitVec 48) (root domain hops : Nat) (tickno : W64)
  | delayReq (t1 : Stamp)
  | hello (dst : Nat) (chip domain quality : Nat) (rootCapable : Bool) (priority plane hops : Nat) (claim : Bool)
  | linkInit (plane mask : Nat) (credits : List Nat)
  /-- handshake message of Table 14-4: 1 INIT, 2 REPLY, 3 FINISH, 4 DONE -/
  | session (dst kind : Nat)
  /-- SLUICE messages (R394, R396, R399): 0 SLUICE, 1 SLUICE_ACK, 2 SLUICE_MARK, 3 the notice of R -/
  | sluice (kind dst tick a b c : Nat)
  /-- cumulative ESEQ for VC1, VC2 and VC3 (R348), with the packet counter and the key epoch (R343) -/
  | eack (dst a1 a2 a3 ctr : Nat) (kepoch : Bool)
  | packet (p : Packet)
  deriving DecidableEq, Repr

/-- A received frame (R329, Tables 14-1 and 14-2). The field of the Reed-Solomon code has no polynomial in the spec, so
what its decoder finds is told (log 30). -/
structure FrameIn where
  /-- symbols corrected in each of the four codewords; none where one is not decodable -/
  symbols : List (Option Nat)
  /-- bytes 0–4,095 as decoded; 0 beyond the end of the list -/
  slots : List Byte
  /-- the frame header, bytes 4,096–4,127 -/
  head : BitVec 256
  deriving DecidableEq, Repr

/-- FLK_STATUSn.STATE. -/
inductive FlSt where
  | out | training | initialising | up | retraining
  deriving DecidableEq, Repr

/-- A fabric link. -/
structure FLink where
  st : FlSt := .out
  /-- a retrain has passed its training and waits for LINK_INIT -/
  locked : Bool := false
  /-- lanes in use -/
  mask : Nat := 0
  plane : Nat := 0
  retrains : Nat := 0
  /-- ticks at which retrains started (R334) -/
  retrainAt : List Nat := []
  /-- ticks of the running retrain -/
  ticks : Nat := 0
  txlat : Nat := 0
  rxlat : Nat := 0
  txSeq : Nat := 0
  /-- next FSEQ to accept -/
  rxSeq : Nat := 0
  /-- a frame has been accepted since link initialisation, so that FACK is meaningful (Table 14-2) -/
  rxAny : Bool := false
  /-- frames kept until a FACK covers them (R332) -/
  replay : List (Nat × FlMsg) := []
  /-- FSEQ that NAKs asked for last, and how often -/
  nakFor : Nat × Nat := (0, 0)
  fec : Nat := 0
  frameErr : Nat := 0
  naks : Nat := 0
  /-- credit units held per channel (R338), and the switch's grant at LINK_INIT -/
  cred : Map Nat := []
  grant : Map Nat := []
  /-- class traffic that waits for credit or room: channel, units and message -/
  queue : List (Nat × Nat × FlMsg) := []
  /-- what goes ahead of class traffic: VC0, VC1 and resends (R339) -/
  first : List (Nat × Nat × FlMsg) := []
  /-- units of this tick that have gone ahead -/
  ahead : Nat := 0
  deriving DecidableEq, Repr

/-- Progress of a handshake (R342). -/
inductive SessSt where
  | closed | initSent | replySent | finishSent | established
  deriving DecidableEq, Repr

/-- An unacknowledged packet (R348). -/
structure Sent where
  pkt : Packet
  bytes : Nat
  link : Nat
  deriving DecidableEq, Repr

/-- What the fabric keeps for a peer. -/
structure FabPeer where
  sess : SessSt := .closed
  /-- a first session exists, so that a handshake that runs is a re-key -/
  live : Bool := false
  kepoch : Bool := false
  /-- KEPOCH flips at the next edge (R345) -/
  flip : Bool := false
  /-- ticks for which the old keys are still held -/
  oldTicks : Nat := 0
  /-- session secrets in the key store (R342, R345): of the epoch in use, of the one that begins at the next edge, and the
  old one, which is zeroised when its ticks have passed -/
  secret : Nat := 0
  newSecret : Nat := 0
  oldSecret : Nat := 0
  rekeyTicks : Nat := 0
  /-- ticks until a failed handshake is tried again (R342) -/
  retryIn : Option Nat := none
  /-- next ESEQ to send and to deliver, per channel -/
  tx : Map Nat := []
  rx : Map Nat := []
  /-- VC3 packets delivered and not yet taken at their home -/
  pend : List Nat := []
  unacked : List Sent := []
  /-- ticks the oldest unacknowledged packet has waited since it was last sent -/
  wait : Nat := 0
  waiting : List PktOut := []
  /-- requests sent that await a response: channel, ESEQ and packet -/
  asked : List (Nat × Nat × Pkt) := []
  path : Option Nat := none
  /-- link to which the path moves once everything sent is acknowledged (R349) -/
  moveTo : Option Nat := none
  /-- packet counters sent, per link -/
  ctr : Map Nat := []
  /-- packet counter last accepted, by link and key epoch: 2 × link + KEPOCH (R343) -/
  rctr : Map Nat := []
  /-- consecutive failures of authentication, per link -/
  fails : Map Nat := []
  /-- link of the newest packet delivered, for the EACK -/
  lastLink : Nat := 0
  deriving DecidableEq, Repr

/-- Header of a received packet (Table 14-4a); `authOk` is the outcome of its GCM check under the keys of its epoch and
the counter that CTR_LO gives. -/
structure PktHdr where
  link : FL
  src : Chip
  eseq : BitVec 20
  cls : Cls
  tag : BitVec 12
  stick : BitVec 7
  kepoch : Bool
  ctrLo : BitVec 16
  authOk : Bool
  deriving DecidableEq, Repr

/-- Fabric links and the end-to-end layer (chapter 14). -/
structure FabState where
  links : Map FLink := []
  peers : Map FabPeer := []
  /-- chips named by the latest ANNOUNCE of each link's plane -/
  announced : Map (List Nat) := []
  /-- packets to be put on their paths, oldest first -/
  outbox : List (Nat × PktOut) := []
  authFail : Nat := 0
  resent : Nat := 0
  /-- sessions established and failed in phase 6 -/
  opened : Nat := 0
  failed : Nat := 0
  deriving DecidableEq, Repr

end Sys2Proof
end

