-- ==== Sys2Proof/Machine/Types/Trans.lean ====
section
/-! DEFINITION. State of chapter 7: the IOTLB, the filter, fills in progress, page requests, invalidations. -/
namespace Sys2Proof

/-- An IOTLB entry (Table 7-4) and, in the L2, its place. -/
structure TlbEnt where
  src : Nat
  size : Nat
  r : Bool
  w : Bool
  a : Bool
  ctx : Nat
  pasid : Nat
  /-- VA and PA of the page -/
  va : Nat
  pa : Nat
  slice : Nat := 0
  set : Nat := 0
  way : Nat := 0
  /-- stamp of the fill's request, against which the filter tells older entries (R168) -/
  born : Nat := 0
  deriving DecidableEq, Repr

/-- What a filter entry matches (R168). -/
inductive FMatch where
  /-- device-half VA range of some contexts; every context where the list is none -/
  | va (ctxs : Option (List Nat)) (lo len : Nat)
  | host (pasid lo len : Nat)
  | pa (lo len : Nat)
  deriving DecidableEq, Repr

/-- A filter entry (R168). -/
structure FiltEnt where
  id : Nat
  revoke : Bool
  m : FMatch
  active : Bool
  swept : Bool := false
  /-- its source still needs it (Table 7-7) -/
  hold : Bool := false
  /-- stamp at which it became active: later fills are not its concern (R168) -/
  act : Nat := 0
  deriving DecidableEq, Repr

/-- A device page-table walk or a peer-map read in progress, and the requests that wait for it; none wait for a prefetch
(R166). -/
structure Walk where
  ctx : Nat
  /-- page of the miss: VA / 4,096 for a walk, VA / 2^30 for a peer-map read -/
  page : Nat
  waiters : List Nat
  stale : Bool := false
  /-- lines of the Reservoir that the walk has asked for (R154) -/
  asked : List Nat := []
  born : Nat := 0
  deriving DecidableEq, Repr

/-- An ATS translation request in flight (R163). -/
structure Ats where
  tag : Nat
  port : Nat
  fn : Nat
  fnGen : Nat
  pasid : Nat
  /-- host page number -/
  page : Nat
  /-- contexts and requests that wait -/
  waiters : List (Nat × Nat)
  stale : Bool := false
  /-- contexts for which it prefetches (R166) -/
  pre : List Nat := []
  born : Nat := 0
  /-- context that its tag names, and that context's generation (R115) -/
  ctx : Nat := 0
  ctxGen : Nat := 0
  deriving DecidableEq, Repr

/-- A Page Request Group (R164): its pages with the read and write access they need, and how many of them have been sent as
successive groups. -/
structure Prg where
  index : Nat
  fn : Nat
  pasid : Nat
  req : Nat
  pages : List (Nat × Bool × Bool)
  /-- pages of the group that is outstanding; 0 while it waits -/
  out : Nat := 0
  /-- port of the instance that sent it -/
  port : Nat := 0
  ticks : Nat := 0
  deriving DecidableEq, Repr

/-- An ATS Invalidate Request being processed (R169). -/
structure Inval where
  port : Nat
  fn : Nat
  itag : Nat
  /-- PASID of the request; 2^20 for one without -/
  pasid : Nat
  filt : Nat
  /-- reads whose completions it awaits: request and offset of each -/
  np : List (Nat × Nat)
  /-- the flushes of step 4 have been sent, and what they must cover: port and sequence number -/
  flushed : Bool := false
  fl : List (Nat × Nat) := []
  deriving DecidableEq, Repr

/-- A pointer that a slice's walk cache holds (R154): its context, level, and the address bits that index up to it. -/
structure WalkPtr where
  slice : Nat
  ctx : Nat
  level : Nat
  va : Nat
  deriving DecidableEq, Repr

/-- A page that a request cannot have: the fill of its range failed (R161, R175). -/
structure BadPage where
  req : Nat
  lo : Nat
  len : Nat
  st : Status
  cause : Nat
  deriving DecidableEq, Repr

/-- What an ATS completion brings (R163). -/
inductive AtsRes where
  | grant (addr log2 : Nat) (r w : Bool)
  | refused
  deriving DecidableEq, Repr

/-- A PRG Response code (R164). -/
inductive PrgRes where
  | success | invalid | failure
  deriving DecidableEq, Repr

/-- Address translation (chapter 7). -/
structure TransState where
  l1 : Map (List TlbEnt) := []
  l2 : List TlbEnt := []
  sliceMap : Map Nat := []
  filter : List FiltEnt := []
  nextFilt : Nat := 0
  walks : List Walk := []
  peers : List Walk := []
  ats : List Ats := []
  nextAts : Nat := 0
  prgs : List Prg := []
  nextPrg : Nat := 0
  /-- host pages for which ATS gave nothing, by request -/
  noTrans : List (Nat × Nat) := []
  invals : List Inval := []
  /-- the slices' walk caches, most recently used first -/
  wcache : List WalkPtr := []
  /-- fills that failed, for the requests that asked for them -/
  bad : List BadPage := []
  /-- clears that stand in at the next edge for entries the full filter could not take (R171) -/
  fullDue : List FMatch := []
  priLate : Nat := 0
  /-- requests to retry, or to end with a status and a fault cause -/
  ready : List (Nat × Option (Status × Nat)) := []
  deriving DecidableEq, Repr

end Sys2Proof
end

