-- ==== Sys2Proof/Machine/Types/Weir.lean ====
section
/-! DEFINITION. State and operands of chapter 16: faults, units and the sluice stop. -/
namespace Sys2Proof

/-- Causes of Table 16-2. -/
inductive Cause where
  | corrected | poisoned | unitCheck | bistFail | partnerTimeout | linkEvent | portFailing | timeEvent
  | sensorStale | advisory | coreError | ideFail | envelope | fatalState | forced
  deriving DecidableEq, Repr

/-- An error input raised in the current tick, waiting for the latch (R378, R381). -/
structure ErrIn where
  src : Nat
  cause : Cause
  ctx : Option Nat := none
  env : Option Nat := none
  detail : Nat := 0
  deriving DecidableEq, Repr

/-- A Weir record (Table 16-4). -/
structure WeirRec where
  src : Nat
  cause : Cause
  level : Nat
  forced : Bool
  escalated : Bool
  ctx : Option Nat
  env : Option Nat
  detail : Nat
  tick : Nat
  deriving DecidableEq, Repr

/-- What the Weir keeps for a region beside its status word (R381, R385). -/
structure WeirRegion where
  first : Option WeirRec := none
  /-- order of the first record among all, for FIRST_REGION -/
  firstSeq : Nat := 0
  maxLevel : Nat := 0
  /-- ticks since the last latch in the region -/
  quiet : Nat := 0
  deriving DecidableEq, Repr

/-- Unit operations of Table 16-8. -/
inductive UnitOp where
  | test | retire | ret | substitute
  deriving DecidableEq, Repr

/-- State of a unit (WEIR_UNIT_STATUS.STATE). -/
inductive UnitSt where
  | inService | leaving | testing | outOfService | waitingSubst | replaced
  deriving DecidableEq, Repr

/-- States of the sluice stop (WEIR_SLUICE_STATUS.STATE). -/
inductive SluiceSt where
  | idle | announced | capturing | held | resumePending
  deriving DecidableEq, Repr

/-- The sluice stop of this chip (R394 to R400). -/
structure SluiceState where
  st : SluiceSt := .idle
  origin : Bool := false
  originChip : Nat := 0
  domain : Bool := false
  tickT : Nat := 0
  tickR : Nat := 0
  /-- peers asked to take part that have not answered -/
  waiting : List Nat := []
  takingPart : List Nat := []
  missing : List Nat := []
  /-- marks received: peer to the last ESEQ on VC1, VC2 and VC3 -/
  marks : Map (Nat × Nat × Nat) := []
  complete : List Nat := []
  incomplete : Nat := 0
  incompleteFlag : Bool := false
  captured : Nat := 0
  tetherAtT : Nat := 0
  errBoundAtT : Nat := 0
  /-- faults latched while the chip is held (R395) -/
  heldFaults : List WeirRec := []
  deriving DecidableEq, Repr

/-- The Weir (chapter 16). -/
structure WeirState where
  raised : List ErrIn := []
  regions : Map WeirRegion := []
  firstSeq : Nat := 0
  /-- classes with an unacknowledged fault: source, cause, target and the recorded level (R383) -/
  classes : List ((Nat × Cause × Option Nat × Option Nat) × Nat) := []
  /-- ticks of corrected words per source since the last UNIT_CHECK (R384) -/
  corrected : Map (List Nat) := []
  recoveries : Nat := 0
  escalations : Nat := 0
  fatal : Bool := false
  /-- err_fatal_n driven low (R71) -/
  errFatalLow : Bool := false
  /-- err_nonfatal_n driven low (R71) -/
  errNonfatalLow : Bool := false
  /-- err_nonfatal_n has gone low in this tick, and stays low to its end (R71) -/
  errHold : Bool := false
  /-- the Weir vector has been raised in this tick -/
  irqThisTick : Bool := false
  /-- the unit operation that runs: kind, instance, operation -/
  unitBusy : Option (Nat × Nat × UnitOp) := none
  unitResult : Nat := 0
  /-- unit states, keyed 128 × kind + instance; absent is in service (active units) or spare (ballast) -/
  units : Map UnitSt := []
  /-- units that failed the self-test of phase 1, same key (R79) -/
  bist : List Nat := []
  /-- ballast unit standing in for a unit, same key -/
  subst : Map Nat := []
  /-- tests that a fault or CE_LIMIT asked for and that wait for the running operation -/
  testQueue : List Nat := []
  /-- ticks since the last patrol scrub of device memory (R388) -/
  scrubTicks : Nat := 0
  /-- next granule of device memory that a running patrol scrub reads (R388) -/
  patrol : Option Nat := none
  deriving DecidableEq, Repr

/-- Operand of a WEIR_UNIT_CTL write (Table 16-14). -/
structure UnitSel where
  kind : Fin 8
  inst : Fin 128
  deriving DecidableEq, Repr

end Sys2Proof
end

