-- ==== Sys2Proof/Syntax.lean ====
section
/-! DEFINITION. The commands of the block: one constructor per row of the spec's table of operations, in its
order, those without operands last. The
operands are what comes in with the command from outside (log 1). -/
namespace Sys2Proof

/-- A command: a write or read of a register, a message or signal at a port, or an event that a rule names. -/
inductive Instr where
  /-- PERST (R46). Assertion of hpN_perst_n resets the link and transaction layers and the PCIe-visible function state of
  host port N. -/
  | perst (p : HP)
  /-- SELF_TEST (R79). Start-up phase 1 runs built-in self-test of every unit and takes failing units out of service. -/
  | selfTest (bad : List UnitSel) (absent : List CoreIx)
  /-- SPOOL_READ (R75). Start-up phase 2 reads the NVM, authenticates the image in check order, loads FIRMWARE and starts
  the mooring cores. -/
  | spoolRead (n : NvmData)
  /-- MEMORY_TRAINING (R82). Start-up phase 3 trains every memory port with lane repair, places the buckets, sets the
  extent and publishes the bucket table. -/
  | memoryTraining (reports : List (MP × TrainReport × TrainReport))
  /-- HOST_PORT_LINK_UP (R80). Start-up phase 5 applies HP_WIDTH and MAX_RATE, completes host link-up and sends Device
  Readiness Status. -/
  | hostPortLinkUp (links : List (HP × Trained))
  /-- TRAIN_TIMEOUT (R82). A memory port that misses TRAIN_DONE within TRAIN_TIMEOUT_MS goes out of service or is failing. -/
  | trainTimeout (p : MP)
  /-- STAGING_WRITE (R88). A write to the staging window stores image bytes in OPEN, or is discarded and counted
  otherwise. -/
  | stagingWrite (p : HP) (off : BitVec 23) (data : List Byte)
  /-- STAGE_OPEN (R88). SPL_CTRL.STAGE_OPEN clears the staging RAM and sets STATE to OPEN, unless authentication or a
  commit is running. -/
  | stageOpen (p : HP)
  /-- STAGE_AUTH (R88). SPL_CTRL.STAGE_AUTH starts checks 2 to 8 on the staged image. -/
  | stageAuth (p : HP)
  /-- STAGE_BOOT (R89). In recovery posture with an authenticated image, SPL_CTRL.STAGE_BOOT continues start-up from phase
  3 with the staged image. -/
  | stageBoot (p : HP)
  /-- COMMIT (R90). SPL_CTRL.COMMIT erases image space and programs the authenticated staged image into the NVM. -/
  | commit (p : HP)
  /-- COMMIT_END (R90). A commit ends after read-back with COMMIT_DONE, which appends a commit marker, or with
  COMMIT_FAIL. -/
  | commitEnd (good : Bool)
  /-- HOSTLOSS_WAIT_EXPIRY (R91). When HOSTLOSS_WAIT_MS expires without re-enumeration, the contexts are destroyed and
  HOST_LOST_EXPIRED is set. -/
  | hostlossWaitExpiry (fn : Fn)
  /-- TICK_EDGE (R34). In each edge cycle every unit performs the actions of the tick-edge schedule in order. -/
  | tickEdge (cycles : BitVec 16) (ref10m : Bool)
  /-- LINK_DELAY_EXCHANGE (R31). At cycle 850 of each tick each fabric link sends a delay request stamped t1. -/
  | linkDelayExchange (ofs : BitVec 18)
  /-- DEADLINE_MISS (R199). A request whose deadline count reaches 0 before completion increments DPA_DLMISSn and may
  raise the manager's vector. -/
  | deadlineMiss (cmd : Bool) (id : Nat)
  /-- ELECT (R28). TTH_CTRL.ELECT starts a root election. -/
  | elect (p : HP)
  /-- REFERENCE_ABSENT (R48). A reference input with no edge for 1 µs or 1.1 s is marked absent, which changes REF_QUALITY
  and at a root causes an election. -/
  | referenceAbsent (pps : Bool)
  /-- STEP_GO (R40). TTH_CTRL.STEP_GO requests the pending step at the next edge. -/
  | stepGo (p : HP)
  /-- REGISTER_WRITE (R9). A write to a register that has no row of its own acts under its access code and the rules for
  halves. -/
  | registerWrite (p : Arrival) (fn : Fn) (off : BitVec 24) (w : Option RegW)
  /-- COUNT_READ (R248). A read of a count block returns the event counts it covers and clears them. -/
  | countRead (p : Arrival) (fn : Fn) (off : BitVec 24) (wide : Bool) (tag : BitVec 14)
  /-- FAULT_RECORD_READ (R178). A read of TRN_FN_FAULT latches the record on its lower half and clears it on its upper
  half. -/
  | faultRecordRead (p : Arrival) (fn : Fn) (word : Fin 4) (wide : Bool) (tag : BitVec 14)
  /-- CTX_FAULT_READ (R9). A read of QUE_CTX_FAULT returns the selected context's fault record and clears it. -/
  | ctxFaultRead (p : Arrival) (hi wide : Bool) (tag : BitVec 14)
  /-- MP_REQ_CREDIT (R54). A pulse on mpN_req_crd returns one request credit to the HT9. -/
  | mpReqCredit (p : MP)
  /-- MP_WD_CREDIT (R54). A pulse on mpN_wd_crd returns one write-data credit to the HT9. -/
  | mpWdCredit (p : MP)
  /-- MP_RESPONSE (R55). A response beat brings read data, a write done or an error for a tagged granule request. -/
  | mpResponse (p : MP) (tag : BitVec 9) (b : MpBeat)
  /-- MP_TIMEOUT (R56). A request still open 6,800 cycles after it was accepted raises the port's timeout error and makes
  the port failing. -/
  | mpTimeout (p : MP) (tag : MpTag)
  /-- NARROW_RESPONSE (R58). A narrow-path response returns a word, with its check bits, for a tagged narrow request. -/
  | narrowResponse (p : MP) (tag : Fin 16) (w : NrBeat)
  /-- TRAIN_DONE (R59). The controller reports the pass or failure of a training, the port's capacity and its failing
  lanes. -/
  | trainDone (p : MP) (pass : Bool) (gib : BitVec 11) (failing : BitVec 12)
  /-- LANE_FAIL (R294). A lane failure reported in service starts a spare assignment, a quiesce and a retraining. -/
  | laneFail (p : MP) (lane : BitVec 12)
  /-- MP_QUIESCED (R59). The controller reports that every accepted request is complete after QUIESCE. -/
  | mpQuiesced (p : MP)
  /-- BIST_DONE (R59). The controller reports the result of a memory BIST. -/
  | bistDone (p : MP) (pass : Bool)
  /-- CTRL_ERROR (R59). A controller-defined error is forwarded to the Weir as the port's error. -/
  | ctrlError (p : MP) (code : BitVec 16)
  /-- KEY_ACK (R60). mpN_key_ack completes a key load or zeroise at a key port. -/
  | keyAck (p : MP)
  /-- LOAD (R67). A VC0 LOAD is translated, checked and answered with data. -/
  | load (p : CF) (h : Vc0Hdr)
  /-- STORE (R67). A VC0 STORE is translated, checked and accepted at its ordering point. -/
  | store (p : CF) (h : Vc0Hdr) (data : List Byte)
  /-- TILE_READ (R176). A VC0 TILE_READ translates every page and delivers its flits in row order only after every read
  has returned. -/
  | tileRead (p : CF) (h : Vc0Hdr) (t : Tile)
  /-- TILE_WRITE (R175). A VC0 TILE_WRITE writes all or nothing after every page has translated. -/
  | tileWrite (p : CF) (h : Vc0Hdr) (t : Tile)
  /-- TILE_WRITE_DATA (R173). A tile write data flit on VC1 is staged into the tile slot. -/
  | tileWriteData (p : CF) (core : Fin 8) (engine : Fin 4) (tag : BitVec 9) (data : List Byte)
  /-- ATOMIC (R283). A VC0 ATOMIC is performed at the home slice by its Cistern lane and returns the old value. -/
  | atomic (p : CF) (h : Vc0Hdr) (op : BitVec 6) (bit6 noret : Bool) (operand compare : BitVec 128)
  /-- RELEASE (R224). A VC0 RELEASE waits for its covered set to meet its scope's conditions and holds later requests. -/
  | release (p : CF) (h : Vc0Hdr)
  /-- ACQUIRE (R225). A VC0 ACQUIRE completes when every covered read has returned. -/
  | acquire (p : CF) (h : Vc0Hdr)
  /-- VC0_FENCE_SIGNAL (R239). A core fence signal is released and applied at the fence home, locally or over the fabric. -/
  | vc0FenceSignal (p : CF) (h : Vc0Hdr) (d : FenceData)
  /-- VC0_FENCE_WAIT (R239). A core fence wait is satisfied at the fence home or registered there. -/
  | vc0FenceWait (p : CF) (h : Vc0Hdr) (d : FenceData)
  /-- VC0_ALLOC (R143). A core allocator call returns a handle and an address, or NO_MEMORY or NO_SLOT. -/
  | vc0Alloc (p : CF) (h : Vc0Hdr) (size : W64) (alignLog2 flags : Byte)
  /-- VC0_FREE (R138). A core FREE makes the object a zombie and responds. -/
  | vc0Free (p : CF) (h : Vc0Hdr) (object : W64)
  /-- VC0_REDUCE (R322). A core reduction contribution is added into the chunk's accumulators. -/
  | vc0Reduce (p : CF) (h : Vc0Hdr) (id chunk : W32) (first : Fin 1024) (n : Fin 64) (rsvdZero : Bool) (elements :
      BitVec 384)
  /-- COMPLETION_REPORT (R66). A VC2 completion report, or a YIELD, ends a dispatch token's command on a core. -/
  | completionReport (p : CF) (core : Fin 8) (token : BitVec 16) (resume : Option W64)
  /-- CF_CREDIT_RETURN (R64). Credit bits on cfN_dn_crd return downstream credits to the HT9. -/
  | cfCreditReturn (p : CF) (mask : BitVec 8)
  /-- CF_CREDIT_TIMEOUT (R65). A VC1, VC5 or VC6 credit held for more than 6,800 cycles raises the port's error input. -/
  | cfCreditTimeout (p : CF) (vc : Fin 8)
  /-- CORE_ERROR (R393). cfN_core_err marks a licensee core failed, and the core is reclaimed and taken out of service. -/
  | coreError (c : CoreIx)
  /-- CORE_QUIESCED (R363). A core's QUIESCED reply on VC7 leads to its cache flush. -/
  | coreQuiesced (c : CoreIx)
  /-- CORE_RESET_REPLY (R363). A core's RESET reply returns the core to the pool at the next edge. -/
  | coreResetReply (c : CoreIx) (ok : Bool)
  /-- CORE_BIST_REPLY (R362). A core reports the result of its BIST on VC7. -/
  | coreBistReply (c : CoreIx) (ok : Bool)
  /-- MGMT_REQUEST (R69). An MCTP or PLDM request over MGMT is answered within 10 ms. -/
  | mgmtRequest (m : MgmtIn)
  /-- SENSOR_SAMPLE (R70). A sensor presents a temperature or power sample. -/
  | sensorSample (power : Bool) (n : Fin 16) (v : BitVec 16)
  /-- SENSOR_STALE (R70). A sensor without a sample for 10 ms is marked stale and raises a level-0 event. -/
  | sensorStale (power : Bool) (n : Fin 16)
  /-- TAP_INSTRUCTION (R72). A TAP instruction or instrument access is accepted or refused according to the key state. -/
  | tapInstruction (t : TapOp)
  /-- CONFIG_REQUEST (R100). A configuration request to a function instance is answered, or is answered with Request Retry
  Status before phase 5. -/
  | configRequest (p : HP) (fn : Fn) (r : CfgReq)
  /-- FUNCTION_LEVEL_RESET (R112). An Initiate FLR write starts the function-level reset sequence. -/
  | functionLevelReset (fn : Fn) (p : HP)
  /-- FLR_COMPLETE (R113). A function-level reset completes within 2 ms, with FRS sent and FLR_DONE set. -/
  | flrComplete (fn : Fn)
  /-- VF_ENABLE_CHANGE (R114). Clearing VF Enable or lowering NumVFs removes virtual function instances from the port. -/
  | vfEnableChange (p : HP) (on : Bool) (num : BitVec 16)
  /-- PRI_ENABLE_WRITE (R164). A write to PRI Enable may end a stop of PRI for the function. -/
  | priEnableWrite (fn : Fn) (p : HP) (on : Bool)
  /-- POWER_STATE_CHANGE (R108). A change of power state of a function instance changes what the instance carries. -/
  | powerStateChange (fn : Fn) (p : HP) (hot : Bool)
  /-- MSIX_TABLE_WRITE (R106). A write to an MSI-X table entry may unmask a vector, which sends its pending message. -/
  | msixTableWrite (p : Arrival) (fn : Fn) (vec : Fin 2048) (dw : Fin 4) (v : W32)
  /-- SUBMIT_DOORBELL (R129). A submit doorbell is recorded against its queue in the tick of its arrival, or is discarded
  or ignored as stale. -/
  | submitDoorbell (p : Arrival) (fn : Fn) (slot : Fin 32768) (w : RegW)
  /-- COMPLETION_DOORBELL (R129). A completion doorbell updates CHEAD, clamped to CDONE. -/
  | completionDoorbell (p : Arrival) (fn : Fn) (slot : Fin 32768) (w : RegW)
  /-- RILL_WRITE (R134). A host write to a Rill slot lands, and a sequence-word landing notifies the bound core. -/
  | rillWrite (p : Arrival) (fn : Fn) (slot : Fin 1024) (off : BitVec 12) (data : List Byte)
  /-- HOST_WINDOW_READ (R184). A host-window read is translated under the window's context and completes within 2 µs. -/
  | hostWindowRead (p : Arrival) (fn : Fn) (off : BitVec 29) (len : Fin 4096) (tag : BitVec 14)
  /-- HOST_WINDOW_WRITE (R184). A host-window write is translated and checked, then applied or discarded. -/
  | hostWindowWrite (p : Arrival) (fn : Fn) (off : BitVec 29) (data : List Byte)
  /-- HOST_WINDOW_ATOMIC (R184). A host AtomicOp through the host window is performed at the Reservoir home. -/
  | hostWindowAtomic (p : Arrival) (fn : Fn) (off : BitVec 29) (kind width : Fin 3) (operand compare : BitVec 128) (tag
      : BitVec 14)
  /-- WINDOW_READ_LATE (R185). A host-window read without data after 3,230 cycles completes with EP and is counted. -/
  | windowReadLate (p : HP) (fn : Fn) (tag : BitVec 14)
  /-- PLACEMENT_WRITE (R189). A placement aperture write is checked in order and written into its region, or discarded and
  counted. -/
  | placementWrite (p : Arrival) (off : BitVec 36) (pasid : Option (BitVec 20)) (data : List Byte)
  /-- PLACEMENT_READ (R190). An aperture read completes with zero data, and an AtomicOp completes with Unsupported
  Request. -/
  | placementRead (p : Arrival) (len : Fin 4096) (atomic : Bool) (tag : BitVec 14)
  /-- DOE_REQUEST (R116). A DOE exchange carries discovery, SPDM or IDE_KM through the physical function. -/
  | doeRequest (p : HP) (r : DoeReq)
  /-- IDE_INTEGRITY_FAILURE (R118). A TLP or flit that fails IDE is discarded, the stream goes insecure and the port's
  instances become unusable. -/
  | ideIntegrityFailure (p : HP)
  /-- ATS_COMPLETION (R163). An ATS completion installs a translation, starts a page request or ends the access with a
  fault. -/
  | atsCompletion (p : HP) (tag : BitVec 14) (r : AtsRes)
  /-- ATS_INVALIDATE_REQUEST (R169). An ATS Invalidate Request installs a REFRESH filter entry and starts the invalidation
  procedure. -/
  | atsInvalidateRequest (p : Arrival) (fn : Fn) (pasid : Option (BitVec 20)) (page pages : BitVec 52) (itag : Fin 32)
  /-- INVALIDATE_COMPLETION (R169). After translated requests have drained and the flushes have completed, the Invalidate
  Completion is sent. -/
  | invalidateCompletion (p : HP) (itag : Fin 32)
  /-- PRG_RESPONSE (R164). A PRG Response retranslates the access or ends it with FAULT, possibly stopping PRI. -/
  | prgResponse (p : Arrival) (fn : Fn) (idx : BitVec 9) (r : PrgRes)
  /-- PRI_TIMEOUT (R165). A group unanswered after TRN_PRI_TIMEOUT ticks is abandoned, and its accesses fault. -/
  | priTimeout (fn : Fn) (idx : BitVec 9)
  /-- COMPLETION (R115). A completion for a non-posted request returns data, or is discarded when its generation is stale. -/
  | completion (p : HP) (tag : BitVec 14) (data : List Byte) (ep : Bool)
  /-- FLUSH_COMPLETION (R207). A flush completion releases the replay entries it covers and satisfies the releases waiting
  on it. -/
  | flushCompletion (p : HP) (tag : BitVec 14)
  /-- COMPLETION_TIMEOUT (R210). A read or flush that times out is resent on another port, marks the port SUSPECT or
  returns poison. -/
  | completionTimeout (p : HP) (tag : BitVec 14)
  /-- DL_DOWN (R208). DL_Down makes the port DOWN and starts replay on each function's replay port. -/
  | dlDown (p : HP)
  /-- HOT_RESET (R208). A received hot reset makes the port DOWN, and the port trains again. -/
  | hotReset (p : HP)
  /-- REPLAY_COMPLETE (R208). When the replay ends, outstanding non-posted requests are resent and a flush covers the
  replay. -/
  | replayComplete (lost : HP) (fn : Fn)
  /-- LINK_RECOVERY (R206). A link that passes through Recovery back to L0 loses nothing and sets RETRAINED. -/
  | linkRecovery (p : HP)
  /-- BUCKET_MOVE (R201). A route bucket leaves a port once a flush covering its requests there has completed. -/
  | bucketMove (fn : Fn) (b : Fin 64)
  /-- ASPM_L1_ENTRY (R110). A port idle for 64 ticks with ASPM L1 enabled enters L1. -/
  | aspmL1Entry (p : HP)
  /-- L0P_REQUEST (R110). The HT9 requests L0p narrowing or a return to full width from the traffic measured. -/
  | l0pRequest (p : HP)
  /-- PME_RESEND (R109). An unserviced PME is resent every 100 ms. -/
  | pmeResend (fn : Fn) (p : HP)
  /-- VEC_ALLOC (R105). A write to EPT_VEC_ALLOC changes a function's vector count or is refused. -/
  | vecAlloc (p : HP) (v : W32)
  /-- HDM_MAP_WRITE (R97). A write to EPT_HDM_MAPn binds an HDM decoder to envelope memory at the next edge, or is
  discarded. -/
  | hdmMapWrite (p : HP) (n : Fin 16) (w : RegW)
  /-- CXL_MEM_REQUEST (R271). A CXL.mem request is mapped onto a home transaction, or handled as outside every coherent
  range. -/
  | cxlMemRequest (p : HP) (dec : Fin 4) (a : HdmAddr) (tag : BitVec 16) (op : CxlOp)
  /-- H2D_SNOOP (R273). A host snoop makes the host proxy snoop its internal holders and answer the host. -/
  | h2dSnoop (p : HP) (addr : BitVec 56) (kind : Fin 3)
  /-- HOST_GO (R273). The host's GO for a proxy D2H request lets the waiting transaction continue. -/
  | hostGo (p : HP) (addr : BitVec 56) (st : Fin 4) (data : List Byte)
  /-- BISNP_RESPONSE (R272). A host BIRsp completes a back-invalidate snoop. -/
  | bisnpResponse (p : HP) (line : BitVec 38) (shared : Bool)
  /-- BI_TIMEOUT (R272). A BISnp unanswered after BI_TIMEOUT ticks makes the host agent dead. -/
  | biTimeout (p : HP) (line : BitVec 38)
  /-- ADMIN_ENABLE (R125). A write of 1 to QUE_ADMIN_CTRL.ENABLE starts the admin queue, or is refused and sets ERROR. -/
  | adminEnable (p : HP) (fn : Fn)
  /-- NOP (R133). NOP completes with a record and no effect. -/
  | nop (q : BitVec 16) (h : CmdHdr) (op : Byte)
  /-- DISPATCH (R214). DISPATCH sends work with a dispatch token to cores of the envelope and completes when each has
  reported. -/
  | dispatch (q : BitVec 16) (h : CmdHdr) (entry args : W64) (cores first : BitVec 16) (items : W32) (arg0 : W64)
  /-- COPY (R193). COPY moves bytes with the movers, as if through an intermediate buffer when the ranges overlap. -/
  | copy (q : BitVec 16) (h : CmdHdr) (src dst len : W64) (srcHint dstHint : Byte)
  /-- FILL (R192). FILL writes a repeated 8-byte pattern with the movers. -/
  | fill (q : BitVec 16) (h : CmdHdr) (dst len pattern : W64) (hint : Byte)
  /-- INLINE_WRITE (R132). INLINE_WRITE writes up to 448 bytes carried in its extension entries. -/
  | inlineWrite (q : BitVec 16) (h : CmdHdr) (dst : W64) (len : BitVec 16) (hint : Byte) (data : List Byte)
  /-- CONVERT (R302). CONVERT converts elements between formats with one rounding. -/
  | convert (q : BitVec 16) (h : CmdHdr) (src dst : W64) (count : W32) (srcFmt dstFmt round flags : Byte) (srKey :
      W64)
  /-- REDUCE (R316). REDUCE reads its plan and takes this chip's part in a tree reduction. -/
  | reduce (q : BitVec 16) (h : CmdHdr) (src dst : W64) (count : W32) (fmt op mode rsvd : Byte) (plan : W64)
  /-- FENCE_SIGNAL (R234). The FENCE_SIGNAL command releases and then raises the fence to max(v, s). -/
  | fenceSignal (q : BitVec 16) (h : CmdHdr) (fence value : W64)
  /-- FENCE_WAIT (R235). The FENCE_WAIT command holds the queue until the fence reaches its target, fails or times out. -/
  | fenceWait (q : BitVec 16) (h : CmdHdr) (fence target : W64) (timeout : W32)
  /-- ALLOC (R141). ALLOC takes a buddy block from the envelope's allocator and maps it. -/
  | alloc (q : BitVec 16) (h : CmdHdr) (size : W64) (alignLog2 flags : Byte)
  /-- FREE (R138). FREE makes the object a zombie after every earlier command of the queue. -/
  | free (q : BitVec 16) (h : CmdHdr) (object : W64)
  /-- QUERY (R144). QUERY returns a time, sensor or capacity item, coarsened for tenants. -/
  | query (q : BitVec 16) (h : CmdHdr) (item index : BitVec 16)
  /-- CTX_CREATE (R150). CTX_CREATE creates a context with its PASID and its page-table object. -/
  | ctxCreate (q : BitVec 16) (h : CmdHdr) (pasid : W32) (ptRoot : W64) (defClass : Byte)
  /-- CTX_DESTROY (R139). CTX_DESTROY starts the forced-abort destruction of a context. -/
  | ctxDestroy (q : BitVec 16) (h : CmdHdr) (ctx : W64)
  /-- CTX_RESUME (R422). CTX_RESUME returns a FAULTED context to ACTIVE. -/
  | ctxResume (q : BitVec 16) (h : CmdHdr) (ctx : W64)
  /-- CTX_RECLAIM (R136). CTX_RECLAIM returns a HOST_PATH_LOST context to ACTIVE under a new handle. -/
  | ctxReclaim (q : BitVec 16) (h : CmdHdr) (index : BitVec 16)
  /-- QUEUE_CREATE (R128). QUEUE_CREATE creates a data queue and assigns it the lowest free doorbell index. -/
  | queueCreate (q : BitVec 16) (h : CmdHdr) (ctx ring cpl : W64) (k fetchMaxLog2 : Byte) (vector : BitVec 16)
      (prio : Byte)
  /-- QUEUE_DESTROY (R137). QUEUE_DESTROY increments the queue's generation and aborts its fetched commands. -/
  | queueDestroy (q : BitVec 16) (h : CmdHdr) (queue : W64)
  /-- QUEUE_STOP (R137). QUEUE_STOP stops fetching and returns HEAD. -/
  | queueStop (q : BitVec 16) (h : CmdHdr) (queue : W64)
  /-- QUEUE_START (R137). QUEUE_START resumes fetching for a STOPPED queue. -/
  | queueStart (q : BitVec 16) (h : CmdHdr) (queue : W64)
  /-- FENCE_CREATE (R233). FENCE_CREATE creates a LIVE fence with its initial value, scope and mode. -/
  | fenceCreate (q : BitVec 16) (h : CmdHdr) (ctx initial : W64) (scope mode : Byte)
  /-- FENCE_DESTROY (R233). FENCE_DESTROY moves the fence to DESTROYING and revokes its waits. -/
  | fenceDestroy (q : BitVec 16) (h : CmdHdr) (fence : W64)
  /-- REGION_REGISTER (R187). REGION_REGISTER allocates aperture windows and a placement key for a region. -/
  | regionRegister (q : BitVec 16) (h : CmdHdr) (object offset len : W64) (rights : Byte)
  /-- REGION_REVOKE (R190). REGION_REVOKE ends the region at the next edge. -/
  | regionRevoke (q : BitVec 16) (h : CmdHdr) (region : W64)
  /-- RILL_BIND (R135). RILL_BIND binds a Rill slot to a context and a core. -/
  | rillBind (q : BitVec 16) (h : CmdHdr) (slot core : BitVec 16) (ctx : W64)
  /-- RILL_UNBIND (R135). RILL_UNBIND unbinds a Rill slot. -/
  | rillUnbind (q : BitVec 16) (h : CmdHdr) (slot : BitVec 16)
  /-- ABORT_TIMEOUT (R140). A core that has not reported 150 µs after an abort raises a core error, and its token is
  retired. -/
  | abortTimeout (token : BitVec 16)
  /-- DESTRUCTION_END (R139). The forced-abort destruction ends with the context's objects made zombies and its slots
  freed. -/
  | destructionEnd (c : Fin 4096)
  /-- QUARANTINE_END (R138). A quarantined range returns to the free lists once its drain condition holds, and the slot
  generation increments. -/
  | quarantineEnd (n : BitVec 24)
  /-- WALK_COMPLETE (R153). A device page-table walk ends by installing a leaf or with a failure status. -/
  | walkComplete (c : Fin 4096) (page : BitVec 45)
  /-- PEER_MAP_FILL (R155). A peer-map read installs a 1 GiB remote translation or faults. -/
  | peerMapFill (c : Fin 4096) (page : BitVec 27)
  /-- FILTER_SWEEP_DONE (R168). A filter sweep ends, and the entry is released once its source condition is met. -/
  | filterSweepDone (n : Nat)
  /-- WINDOW_SLIDE (R183). The upper-half write of DPA_WIN_CTL slides the host window after checking its context and base. -/
  | windowSlide (p : HP) (fn : Fn) (w : RegW)
  /-- CLASS_WRITE (R198). A write to DPA_CLASSn takes effect at the next edge or is refused. -/
  | classWrite (p : HP) (n : Cls) (w : RegW)
  /-- PIECE_ADMISSION (R196). The arbiter admits the first waiting request of an eligible class at a resource. -/
  | pieceAdmission (res : Fin 108) (late : Bool)
  /-- FENCE_READ (R245). The READ fence action returns the fence's value and state. -/
  | fenceRead (p : HP) (fn : Fn) (w : RegW)
  /-- FENCE_RESET (R238). The RESET fence action returns an ERROR or EXHAUSTED fence to LIVE with a new value. -/
  | fenceReset (p : HP) (fn : Fn) (w : RegW)
  /-- SET_MIRROR (R246). SET_MIRROR sets a mirror address and writes the current value to it. -/
  | setMirror (p : HP) (fn : Fn) (w : RegW)
  /-- CLEAR_MIRROR (R246). CLEAR_MIRROR removes the fence's mirror. -/
  | clearMirror (p : HP) (fn : Fn) (w : RegW)
  /-- ARM (R247). ARM sets a target and a vector that fire once when the fence reaches the target or fails. -/
  | arm (p : HP) (fn : Fn) (w : RegW)
  /-- DISARM (R247). DISARM removes the fence's arm. -/
  | disarm (p : HP) (fn : Fn) (w : RegW)
  /-- FENCE_TIMEOUT (R236). A wait whose TIMEOUT count reaches 0 completes with FENCE_TIMEOUT. -/
  | fenceTimeout (n : Nat)
  /-- MIRROR_WRITE_ACCEPTED (R246). Acceptance of a mirror write lets the next mirror write go with the latest value and
  lets an arm fire. -/
  | mirrorWriteAccepted (n : Fin 16384)
  /-- MODERATION_DELAY (R250). The DELAY-th edge after the first accumulated firing releases one message. -/
  | moderationDelay (fn : Fn) (vec : Fin 2048)
  /-- RD_SHARED (R261). An agent's RdShared is translated and handled by the home. -/
  | rdShared (h : CohHdr)
  /-- RD_OWN (R261). An agent's RdOwn is translated and granted ownership after any snoops. -/
  | rdOwn (h : CohHdr)
  /-- UPGRADE (R267). An agent's Upgrade is granted by GrantE, or by DataE when the copy has been lost. -/
  | upgrade (h : CohHdr)
  /-- WR_BACK (R266). An agent's WrBack is answered by WbPull, or by WbDrop when the agent is not the owner. -/
  | wrBack (h : CohHdr)
  /-- EVICT_CLEAN (R266). An agent's EvictClean is acknowledged by EvDone. -/
  | evictClean (h : CohHdr)
  /-- RSP_I (R263). A snoop response RspI advances the home transaction. -/
  | rspI (h : CohHdr)
  /-- RSP_S (R263). A snoop response RspS keeps the agent as sharer. -/
  | rspS (h : CohHdr)
  /-- RSP_I_DIRTY (R263). RspIDirty removes the agent, and the home awaits its dirty data. -/
  | rspIDirty (h : CohHdr)
  /-- RSP_S_DIRTY (R263). RspSDirty keeps the agent, and the home awaits its dirty data. -/
  | rspSDirty (h : CohHdr)
  /-- DIRTY_DATA (R263). DirtyData is written to the Reservoir and completes the snooping transaction. -/
  | dirtyData (h : CohHdr) (data : List Byte) (bad : Bool)
  /-- WB_DATA (R263). WbData is written to the Reservoir, and the line becomes I. -/
  | wbData (h : CohHdr) (data : List Byte) (bad : Bool)
  /-- CMP_ACK (R264). CmpAck moves the line from G_A to its stable state. -/
  | cmpAck (h : CohHdr)
  /-- FLUSH_DONE (R277). FlushDone ends a FlushRange, and the agent becomes ABSENT. -/
  | flushDone (h : CohHdr)
  /-- SNP_TIMEOUT (R274). A snoop unanswered beyond SNP_TIMEOUT makes the agent dead. -/
  | snpTimeout (a : Fin 1024)
  /-- FLUSH_TIMEOUT (R277). A FlushRange unanswered beyond FLUSH_TIMEOUT makes the agent dead. -/
  | flushTimeout (a : Fin 1024)
  /-- RECLAIM_SWEEP_END (R275). The reclaim sweep ends and sets AGENT_DEAD. -/
  | reclaimSweepEnd (a : Fin 1024)
  /-- AGENT_ENABLE (R277). A write to COH_AGENT_CTL.ENABLE enables an agent, or flushes a live agent when cleared. -/
  | agentEnable (p : HP) (w : RegW)
  /-- RANGE_WRITE (R255). A write to COH_RANGEn declares a coherent range or is refused. -/
  | rangeWrite (p : HP) (n : Fin 64) (w : RegW)
  /-- BIAS_ACTION (R258). The upper-half write of COH_FN_BIAS_CTL changes the bias of the pages it names. -/
  | biasAction (p : HP) (fn : Fn) (w : RegW)
  /-- BIAS_FLIP_END (R257). A shared-to-device flip ends when no line of the page has an entry, and the waiting requests
  are taken. -/
  | biasFlipEnd (page : BitVec 32)
  /-- RETIRE (R295). MPT_CTRL.RETIRE declares the selected memory port failing. -/
  | retire (p : HP) (v : W32)
  /-- NARROW_GO (R293). MPT_NR_CTL.GO issues a narrow request outside every envelope, or completes it with RIGHTS. -/
  | narrowGo (p : HP) (write : Bool)
  /-- PARTIAL_RECORD (R319). A partial record from a child is added into the chunk, or is discarded as a mismatch. -/
  | partialRecord (h : PktHdr) (bytes : List Byte)
  /-- CHUNK_SEND (R319). When a chunk's contributions are all added, and no earlier than its slot, the chip sends its
  record to the parent or the root rounds. -/
  | chunkSend (id k : Nat)
  /-- CHUNK_LATE_TIMEOUT (R319). An expected record still missing LATE_TICKS after the window closes fails the chunk. -/
  | chunkLateTimeout (id k : Nat)
  /-- FRAME (R329). A received frame is FEC-decoded and CRC-checked, then accepted in order or discarded with a NAK. -/
  | frame (l : FL) (f : FrameIn)
  /-- LINK_RETRAIN (R333). A FACK or good-frame timeout, three NAKs or a lane fault retrains the link. -/
  | linkRetrain (l : FL)
  /-- RETRAIN_TIMEOUT (R334). A retrain not complete within RETRAIN_TICKS, or one too many retrains, takes the link out of
  service. -/
  | retrainTimeout (l : FL)
  /-- LANE_ERROR (R330). flN_lane_err or a loss of signal retrains an 8-lane link at 4 lanes. -/
  | laneError (l : FL) (bad : BitVec 8)
  /-- FL_TRAIN_DONE (R331). flN_train_done completes SerDes training, and the latencies are latched. -/
  | flTrainDone (l : FL) (txlat rxlat : BitVec 16)
  /-- BRING_UP_TIMEOUT (R331). A bring-up step that exceeds its bound takes the link out of service. -/
  | bringUpTimeout (l : FL)
  /-- FLK_RESTORE (R334). A bit written in FLK_RESTORE restarts bring-up of that link. -/
  | flkRestore (p : HP) (v : W32)
  /-- LINK_INIT (R331). LINK_INIT starts FSEQ and grants credits, and the plane is checked. -/
  | linkInit (l : FL) (plane : BitVec 5) (mask : BitVec 8) (credits : List Nat)
  /-- FABRIC_WRITE (R348). A WRITE packet is authenticated, remote-checked, applied at its home and acknowledged. -/
  | fabricWrite (h : PktHdr) (pa : BitVec 57) (data : List Byte)
  /-- FABRIC_READ (R156). A READ packet is remote-checked and answered with RDATA. -/
  | fabricRead (h : PktHdr) (pa : BitVec 57) (n : Fin 64)
  /-- FABRIC_ATOMIC (R348). An ATOMIC packet is performed at the home and answered with ARESP. -/
  | fabricAtomic (h : PktHdr) (pa : BitVec 57) (o : AtomOp)
  /-- FENCE_OP (R240). A remote fence operation is checked against the requester's envelope and applied at the fence home. -/
  | fenceOp (h : PktHdr) (signal : Bool) (d : FenceData) (scope : Fin 8) (core : CoreIx) (engine : Fin 4)
  /-- FENCE_DONE (R240). A FENCE_DONE packet completes a remote fence operation for its requester. -/
  | fenceDone (h : PktHdr) (eseq : BitVec 20) (v : W64) (st : Status)
  /-- RDATA (R335). RDATA returns read data for a remote read. -/
  | rdata (h : PktHdr) (eseq : BitVec 20) (st : Status) (data : List Byte)
  /-- ARESP (R335). ARESP returns an atomic's old value or a refusal status. -/
  | aresp (h : PktHdr) (eseq : BitVec 20) (st : Status) (old : Option (BitVec 128))
  /-- EACK (R348). An EACK releases acknowledged packets, and remote writes become accepted at their ordering point. -/
  | eack (h : PktHdr) (a1 a2 a3 : BitVec 20)
  /-- HELLO (R93). A HELLO from a peer of this domain updates its peer state or starts a session. -/
  | hello (l : FL) (digest : BitVec 384) (chip : Chip) (domain : BitVec 16) (quality : Fin 4) (root : Bool)
      (priority : Byte) (claim : Bool)
  /-- HELLO_SEND (R340). Each link sends a HELLO to each chip of the plane every HELLO_PERIOD ticks. -/
  | helloSend (l : FL)
  /-- ANNOUNCE (R92). A switch ANNOUNCE assigns the chip number and lists the chips on the plane. -/
  | announce (l : FL) (chip : Chip) (plane : BitVec 5) (chips : List Chip)
  /-- SYNC (R32). A sync message gives the follower's offset and steers its tether by rate. -/
  | sync (l : FL) (m : SyncMsg)
  /-- DELAY (R31). A returned DELAY packet gives the link delay, or the link counts a missed measurement. -/
  | delay (l : FL) (t2 t3 t4 : Stamp)
  /-- SESSION_INIT (R342). The INIT handshake message carries an ephemeral key and a nonce. -/
  | sessionInit (l : FL) (src : Chip)
  /-- SESSION_REPLY (R342). The REPLY message carries the peer's key, certificate chain and signature for verification. -/
  | sessionReply (l : FL) (src : Chip) (digest : BitVec 384) (ok : Bool)
  /-- SESSION_FINISH (R342). The FINISH message carries the initiator's chain and signature. -/
  | sessionFinish (l : FL) (src : Chip) (digest : BitVec 384) (ok : Bool)
  /-- SESSION_DONE (R345). DONE completes the handshake, and senders flip KEPOCH at the next edge. -/
  | sessionDone (l : FL) (src : Chip)
  /-- E2E_RESEND (R348). When the oldest unacknowledged packet to a peer has waited 8 ticks, the peer's unacknowledged
  packets are resent. -/
  | e2eResend (c : Chip)
  /-- REKEY (R345). REKEY_TICKS or a counter reaching 2^40 starts a new handshake. -/
  | rekey (c : Chip)
  /-- FABRIC_CREDIT_TIMEOUT (R338). A VC0 to VC2 credit held more than 6,800 cycles retrains the link. -/
  | fabricCreditTimeout (l : FL)
  /-- PEER_LOST_TIMEOUT (R93). A peer unheard for PEER_LOST_TICKS becomes LOST. -/
  | peerLostTimeout (c : Chip)
  /-- PATH_MOVE (R349). A path moves to a new link once every packet on the old path has been acknowledged. -/
  | pathMove (c : Chip)
  /-- CREATE (R359). CREATE binds a template's resources at its effect tick, loads the memory key and scrubs the
  range. The template is no operand, as the action reads it (R357): `read` says nothing. -/
  | create (p : HP) (w : RegW) (read : Unit)
  /-- CREATE_SCRUB_DONE (R359). When the scrub ends, the virtual function is bound and the envelope enters READY. -/
  | createScrubDone (e : EnvIx)
  /-- REMOVE (R371). REMOVE runs the removal sequence at its effect tick. -/
  | remove (p : HP) (w : RegW)
  /-- REMOVAL_END (R371). After every key acknowledgement and core return the envelope is FREE and REMOVED is set. -/
  | removalEnd (e : EnvIx)
  /-- UPDATE (R357). UPDATE applies class mask, rights, quotas, vectors and Rill map at its effect tick. Its template is
  read as that of CREATE. -/
  | update (p : HP) (w : RegW) (read : Unit)
  /-- CORE_BIND (R363). CORE_BIND binds or unbinds a local core index and quiesces the core that leaves. -/
  | coreBind (p : HP) (w : RegW)
  /-- PEER_SET (R368). PEER_SET writes a peer map entry at its effect tick. -/
  | peerSet (p : HP) (w : RegW)
  /-- PEER_CLEAR (R368). PEER_CLEAR removes a peer map entry at its effect tick. -/
  | peerClear (p : HP) (w : RegW)
  /-- MEM_MOVE (R365). MEM_MOVE makes the old and new ranges a mirrored pair and starts the copy. -/
  | memMove (p : HP) (w : RegW)
  /-- MOVE_COPIED (R365). The last piece copied sets MOVE to MIRRORED. -/
  | moveCopied (e : EnvIx)
  /-- MEM_SWITCH (R365). MEM_SWITCH makes the new range primary and rewrites the page tables. -/
  | memSwitch (p : HP) (w : RegW)
  /-- MEM_RELEASE (R366). MEM_RELEASE ends mirroring and returns the old range to the pool. -/
  | memRelease (p : HP) (w : RegW)
  /-- MEM_LEN (R367). MEM_LEN grows or shrinks the local range. -/
  | memLen (p : HP) (w : RegW)
  /-- PAUSE (R373). PAUSE stops commands from starting and leads the envelope to PAUSED. -/
  | pause (p : HP) (w : RegW)
  /-- RESUME (R373). RESUME returns a paused envelope to READY and serves recorded doorbells. -/
  | resume (p : HP) (w : RegW)
  /-- DIRTY_START (R374). DIRTY_START enables dirty-page logging into a host ring. -/
  | dirtyStart (p : HP) (w : RegW)
  /-- DIRTY_STOP (R357). DIRTY_STOP ends dirty-page logging. -/
  | dirtyStop (p : HP) (w : RegW)
  /-- DIRTY_HEAD_WRITE (R376). A write of ENV_DIRTY_HEAD clears the LOGGED bits of consumed records and flushes PEND
  pages. -/
  | dirtyHeadWrite (p : HP) (v : W32)
  /-- ZEROISE_ALL (R370). KEY_CTRL.ZEROISE_ALL stops traffic and zeroises every key of the chip when all envelopes are
  FREE. -/
  | zeroiseAll (p : HP) (v : W32)
  /-- ERROR_INPUT (R378). A source raises its error input with a cause and a target, to be latched at the next edge. -/
  | errorInput (src : Fin 1024) (c : Cause) (ctx : Option (Fin 4096)) (env : Option EnvIx) (detail : BitVec 20)
  /-- QUIET_PERIOD (R385). A region with no latch for Q ticks has its cause bits cleared and its first record released. -/
  | quietPeriod (n : Fin 12)
  /-- UNIT_TEST (R392). TEST takes a unit out of service, tests it and returns or replaces it. -/
  | unitTest (p : HP) (u : UnitSel)
  /-- UNIT_RETIRE (R392). RETIRE takes a unit out of service and replaces it. -/
  | unitRetire (p : HP) (u : UnitSel)
  /-- UNIT_RETURN (R392). RETURN tests a unit out of service and returns it if it passes. -/
  | unitReturn (p : HP) (u : UnitSel)
  /-- UNIT_SUBSTITUTE (R392). SUBSTITUTE makes a substitution waiting under BALLAST_POLICY 2. -/
  | unitSubstitute (p : HP) (u : UnitSel)
  /-- UNIT_TEST_DONE (R392). An in-service test ends, and the unit returns or is replaced. -/
  | unitTestDone (pass : Bool)
  /-- WATCHDOG_TIMEOUT (R391). A mooring core that misses its watchdog raises UNIT_CHECK and leaves service. -/
  | watchdogTimeout (core : Fin 17)
  /-- SLUICE_ANNOUNCE (R394). The ANNOUNCE operation announces a sluice stop at tick T and sends SLUICE to peers. -/
  | sluiceAnnounce (p : HP) (domain : Bool)
  /-- SLUICE_RESUME (R399). The RESUME operation schedules the resume of a held chip at tick R. -/
  | sluiceResume (p : HP)
  /-- SLUICE (R394). A received SLUICE message makes the peer take part and answer, or refuse. -/
  | sluice (l : FL) (src : Chip) (t : W64) (origin : Chip)
  /-- SLUICE_ACK (R394). SLUICE_ACK confirms that a peer takes part. -/
  | sluiceAck (l : FL) (src : Chip) (t : W64)
  /-- SLUICE_MARK (R396). SLUICE_MARK gives the last ESEQ sent before T for dividing the fabric traffic. -/
  | sluiceMark (l : FL) (src : Chip) (t : W64) (a b c : BitVec 20)
  /-- RESUME_NOTICE (R399). The origin's notice of R makes a taking-part peer schedule its resume. -/
  | resumeNotice (l : FL) (src : Chip) (r : W64)
  /-- TRACE_DUMP (R409). DUMP copies the frozen tail buffer into the host ring. -/
  | traceDump (w : RegAt)
  /-- TRACE_MARK (R406). A write of OBS_TRACE_MARK produces a manager marker trace record. -/
  | traceMark (p : HP) (w : RegW)
  /-- AUDIT_HEAD_WRITE (R415). Advancing OBS_AUDIT_HEAD gives the audit ring room and may end a stall. -/
  | auditHeadWrite (p : HP) (w : RegW)
  /-- PERST_DEASSERT (R80). Deassertion of hpN_perst_n starts link training of the port within 20 ms, ends D3cold and
  releases hpN_wake_n. -/
  | perstDeassert (p : HP)
  /-- HOST_LINK_TRAINED (R91). A host port that lost its link or was reset after start-up finishes training and comes up,
  answering configuration from the established state. -/
  | hostLinkTrained (p : HP) (t : Trained)
  /-- HOST_L0P_REQUEST (R110). An L0p width request from the host is granted without loss of order or credit. -/
  | hostL0pRequest (p : HP) (w : Fin 3)
  /-- RESULT_RECORD (R323). A KIND 3 result record from the parent makes the chip write its DST elements and forward the
  record to its children. -/
  | resultRecord (h : PktHdr) (bytes : List Byte)
  /-- CORE_OVERDUE (R362). A core that misses the 120 µs FlushDone or 100 µs RESET bound raises a core error, sets
  ENV_EVENT.CORE_OVERDUE and is reclaimed. -/
  | coreOverdue (c : CoreIx)
  /-- REWRITE_DONE (R365). The page-table rewrite after MEM_SWITCH ends and sets ENV_INFO.REWRITTEN, which MEM_RELEASE
  requires. -/
  | rewriteDone (e : EnvIx)
  /-- PEER_REMOVAL (R93). Removal by the manager returns a peer table entry to ABSENT, clearing CONFLICT. -/
  | peerRemoval (c : Chip)
  /-- POWER_ON_RESET (R46). Assertion of rst_por_n resets the whole HT9, and start-up restarts at phase 1. -/
  | powerOnReset
  /-- WARM_RESET (R46). Assertion of rst_warm_n resets everything except the tether, MGMT and TAP, zeroises every key slot
  and restarts start-up at phase 2. -/
  | warmReset
  /-- TAP_RESET (R46). Assertion of tap_trst_n resets the TAP controller and the IEEE 1687 network. -/
  | tapReset
  /-- TETHER_ACQUIRE (R83). Start-up phase 4 brings the links to hello and sync state, runs the election and acquires the
  tether. -/
  | tetherAcquire
  /-- TETHER_ACQ_TIMEOUT (R83). When TETHER_ACQ_TICKS pass without LOCKED, phase 4 ends in FREE_RUN. -/
  | tetherAcqTimeout
  /-- FABRIC_BRING_UP (R331). Start-up phase 6 completes fabric link bring-up, sessions and partner discovery. -/
  | fabricBringUp
  /-- ENVELOPE_INSTANTIATION (R84). Start-up phase 7 instantiates each template with INSTANTIATE set and skips templates
  that name units not in service. -/
  | envelopeInstantiation
  /-- JOURNAL_APPEND (R78). A repair journal entry is appended to the NVM, waiting while another Spool update runs. -/
  | journalAppend
  /-- STAGE_AUTH_DONE (R88). Authentication of the staged image ends, with STATE AUTHENTICATED and RESULT_OK and CAUSE
  set. -/
  | stageAuthDone
  /-- ELECTION_COMPLETE (R28). An election ends with the lowest root claim as the time root. -/
  | electionComplete
  /-- PPS_EDGE (R29). A 1 PPS edge at a new root with REF_QUALITY 0 advances the tether to the next whole second. -/
  | ppsEdge
  /-- HOLDOVER_ENTRY (R38). A locked follower with no valid sync for 4 ticks enters HOLDOVER. -/
  | holdoverEntry
  /-- FREE_RUN_ENTRY (R38). HOLDOVER that has lasted HOLDOVER_TICKS, or whose ERR_BOUND exceeds 1,000 ps, becomes
  FREE_RUN. -/
  | freeRunEntry
  /-- SYNC_REGAINED (R40). After 16 ticks of valid sync a chip slews back to LOCKED or enters STEP_PENDING. -/
  | syncRegained
  /-- ILV_PUBLISH (R63). The bucket table is published again every 1,024 ticks and on every change. -/
  | ilvPublish
  /-- PRG_SEND (R164). A waiting Page Request Group is sent once the block and function limits allow. -/
  | prgSend
  /-- BUCKET_COPY_DONE (R296). After a bucket's last block has been copied, the new table is published and the next bucket
  moves. -/
  | bucketCopyDone
  /-- PATROL_SCRUB (R388). Each WEIR_SCRUB_TICKS firmware patrol-scrubs device memory. -/
  | patrolScrub
  /-- SLUICE_CAPTURE_END (R398). The snapshot capture ends, the sluice record is written and the chip enters HELD. -/
  | sluiceCaptureEnd
  /-- SLUICE_RESUME_EDGE (R399). At the edge of R the chip applies held faults, deferred epochs and held traffic, then
  resumes admission. -/
  | sluiceResumeEdge
  /-- HOLD_EXPIRY (R402). OBS_SNAP.HOLD clears itself 1,000 ticks after it was set. -/
  | holdExpiry
  /-- AUDIT_STALL_RELEASE (R414). When a class C holding entry frees, the oldest stalled operation is signed and takes
  effect. -/
  | auditStallRelease
  /-- MANAGER_GROUP (R99). 100 ms after recovery posture is entered, the lowest-numbered port whose link is up becomes the
  manager group. -/
  | managerGroup
  deriving DecidableEq, Repr

end Sys2Proof
end

