-- ==== Sys2Proof/Decode.lean ====
section
/-! DEFINITION. The command that a word spells. The spec's table of operations gives its rows no bits: commands reach the
block over its ports, not as words of an instruction stream (log 2). -/
namespace Sys2Proof

/-- No row of the table gives bits, so that no word spells a command (log 2). -/
def decodeTableWord (_nbits _w : Nat) : Option Instr := none

end Sys2Proof
end

