-- ==== Sys2Proof/Config.lean ====
section
/-! DEFINITION. What an implementation fixes and the free values: constants without a body, so that nothing can be
proved of their values. -/
namespace Sys2Proof.Config

/-- A choice the spec leaves open, drawn by a counter of the state (log 7). -/
opaque choice : Nat → Nat
/-- A 64-bit value the spec leaves open, drawn by a counter of the state (log 7). -/
opaque freeWord : Nat → W64
/-- The SHA-384 digest of this chip's device-identity certificate, 48 bytes as a number (log 8). -/
opaque identityDigest : Nat
/-- The SHA-384 digest of a byte string, 48 bytes as a number (log 8). -/
opaque sha384 : List Byte → Nat
/-- The ECDSA P-384 signature of a digest under a key named by a number (log 8). -/
opaque sign : Nat → Nat → Nat
/-- Key material drawn by the key store, by a counter of the state (log 8). -/
opaque keyMaterial : Nat → Nat
/-- The compressed public key of a key named by a number (log 8). -/
opaque publicKey : Nat → Nat
/-- The truncated HMAC of a repair journal entry under the device identity (log 8). -/
opaque journalMac : List Byte → Nat
/-- The frequency of clk_core in kHz, set by the integrator (log 9). -/
opaque clkCoreKhz : Nat

/-- ERR_BOUND of a chip that is the time root, in ps: the spec gives a bound for followers only (log 12). -/
opaque rootErrBound : Nat
/-- Verification of an ECDSA P-384 signature: public key, digest, signature (log 8). -/
opaque verify : Nat → Nat → Nat → Bool
/-- The Relastow release public key that the licensee certificate's signature is checked under (log 8). -/
opaque releaseKey : Nat

/-- The directory set of a line: the spec gives no hash (log 14). -/
opaque dirSet : Nat → Nat
/-- The slice a host line hashes to: the spec gives no hash (log 14). -/
opaque hostSlice : Nat → Nat
/-- The identifier of the Physical Layer 128.0 GT/s capability, which the spec takes from the PCIe specification (log 20). -/
opaque phy128Id : Nat

/-- A slot of a fabric packet whose fields the spec does not place: packet type, values, byte (log 30). -/
opaque openSlot : Nat → List Nat → Nat → Byte
/-- A parity symbol of a Reed-Solomon codeword: the field's polynomial is not given (log 30). -/
opaque rsParity : Nat → List Nat → Nat
/-- Keys of a session (R343): the link key and salt of a secret, link, sender and receiver, and an envelope's key (log 8). -/
opaque linkKey : Nat → Nat → Nat → Nat → Nat
opaque linkSalt : Nat → Nat → Nat → Nat → Nat
opaque envKey : Nat → Nat → Nat → Nat
/-- AES-256-GCM (R343): the key stream's byte, and the tag of a key, nonce, additional data and ciphertext (log 8). -/
opaque gcmStream : Nat → Nat → Nat → Byte
opaque gcmTag : Nat → Nat → Nat → List Byte → Nat

end Sys2Proof.Config
end

