-- ==== Sys2Proof/Machine/Types/Obs.lean ====
section
/-! DEFINITION. State of chapter 17: counters, trace and the audit log. -/
namespace Sys2Proof

/-- Audit record types (Table 17-7). -/
inductive AuditType where
  | genesis | envAction | envDone | policyRefused | keyEvent | reset | spool | tetherStep | sluice
  | tapRefused | templateSkipped | peer | managerConfig | fabricSessions | identity | writeDiscarded
  deriving DecidableEq, Repr

/-- An audit record before encoding (Table 17-6). -/
structure AuditRec where
  seq : Nat
  tether : W64
  type : AuditType
  classC : Bool
  refused : Bool
  coalesced : Bool
  unlocked : Bool
  chip : Nat
  /-- ACTOR: 0 HT9, 1 manager, 2 MGMT, 3 test port, 4 host reset -/
  actor : Nat
  fn : Nat
  env : Nat
  repeats : Nat
  payload : List W64
  /-- the 256 bytes as signed -/
  bytes : List Byte
  deriving DecidableEq, Repr

/-- A class O event held at its source when the reserve is full (R416). -/
structure HeldAudit where
  type : AuditType
  actor : Nat
  fn : Nat
  env : Nat
  payload : List W64
  tether : W64
  repeats : Nat
  deriving DecidableEq, Repr


/-- A trace record (Table 17-3). -/
structure TraceRec where
  tether : W64
  layer : Nat
  oper : Nat
  type : Nat
  cls : Nat
  ctx : Nat
  env : Nat
  unit : Nat
  arg : W64
  deriving DecidableEq, Repr

/-- A gap in the trace (R408). -/
structure TraceGap where
  first : W64
  last : W64
  cause : Nat
  lost : Nat
  deriving DecidableEq, Repr

/-- Counters, trace and audit (chapter 17). -/
structure ObsState where
  /-- live counters, keyed (group × 64 + event) × 4096 + instance (Table 17-1) -/
  cnt : Map Nat := []
  snap : Map Nat := []
  shadow : Map Nat := []
  snapTick : Nat := 0
  shadowTick : Nat := 0
  /-- ticks HOLD has been set -/
  holdTicks : Nat := 0
  /-- coarse snapshot of the function counters (R403) -/
  coarse : Map Nat := []
  coarseTick : Nat := 0
  /-- coarse sensor readings and their tick (R404), keyed item × 16 + index -/
  coarseSens : Map Int := []
  coarseSensTick : Nat := 0
  /-- tail buffer, oldest first, at most 262,144 records -/
  tail : List TraceRec := []
  traceDest : Nat := 0
  traceTail : Nat := 0
  gap : Option TraceGap := none
  gen : W64 := 0
  lost : W64 := 0
  /-- 64-byte units of the ring budget spent in this tick -/
  traceUnits : Nat := 0
  /-- records left to dump, oldest first -/
  dump : List TraceRec := []
  auditOn : Bool := false
  auditSeq : Nat := 0
  auditLast : List Byte := []
  /-- records in the holding buffer, in SEQ order -/
  holding : List AuditRec := []
  /-- SEQ of the next record to move into the ring -/
  auditSent : Nat := 0
  auditTail : Nat := 0
  auditUsed : Bool := false
  heldSrc : List HeldAudit := []
  coalesced : Nat := 0
  idValid : Bool := false
  deriving DecidableEq, Repr

end Sys2Proof
end

