-- ==== Sys2Proof/Machine/Types/Out.lean ====
section
/-! DEFINITION. What the block drives at its ports, as one list of messages, oldest first. -/
namespace Sys2Proof

/-- A message or signal the block has driven. -/
inductive Out where
  | host (port : Nat) (m : HostMsg)
  /-- a granule request; a write with the check bits of its words (R57) -/
  | mpReq (port tag : Nat) (r : MpReq) (chk : List (BitVec 16))
  /-- a narrow request, with the check bits of its word (R58) -/
  | mpNarrow (port : Nat) (r : NrReq) (chk : BitVec 16)
  /-- sideband message (Table 3-11) -/
  | mpSideband (port opcode payload : Nat)
  | mpKey (port : Nat) (op : KeyOp)
  /-- the 256 entries of the bucket table, its epoch and its tick (R63) -/
  | ilv (table : List Nat) (epoch tick : Nat)
  | cf (port vc : Nat) (m : CfMsg)
  /-- coherence message to a mooring core's cache over its internal path (Table 11-1) -/
  | moor (m : CfMsg)
  /-- upstream credits granted at a core fabric port: channel and count (R64) -/
  | cfCredit (port vc n : Nat)
  /-- a frame on a fabric link: FSEQ and what it carries (R328, R332; log 30) -/
  | fabric (link fseq : Nat) (m : FlMsg)
  /-- an IDLE frame that carries FACK, a NAK and returned credits of a channel -/
  | fabricIdle (link fack : Nat) (nak : Bool) (vc credits : Nat)
  /-- flN_lane_en and flN_train_req (Table 14-3) -/
  | fabricTrain (link mask : Nat)
  /-- NVM operation for a Spool update (R68): 0 erase, 1 program, with its address -/
  | nvm (op addr : Nat) (data : List Byte)
  /-- answer over MGMT (R69), the way the request came: completion code and values -/
  | mgmt (via : MgmtVia) (code : Nat) (vals : List W64)
  /-- answer of the test port: accepted, or refused with tap_tdo at 0 (R72) -/
  | tap (accepted : Bool)
  /-- tether state and ERR_BOUND that the completion record of a reduction carries (R39), by its queue and position;
  their place in the record is not given (log 106) -/
  | recordTether (queue pos state errBound : Nat)
  /-- tth_edge high for one cycle with tth_tickno (R47) -/
  | tickMark (tickno : W64)
  deriving DecidableEq, Repr

end Sys2Proof
end

