-- ==== Sys2Proof/Machine/Types/Rsvr.lean ====
section
/-! DEFINITION. State of chapter 12: device memory at its homes, lines of the Reservoir, buckets and their moves. -/
namespace Sys2Proof

/-- A line held by the Reservoir (R279, R282). -/
structure RLine where
  dirty : Bool := false
  keep : Bool := false
  /-- use order: the line of the least stamp in its set is least recently used -/
  stamp : Int := 0
  deriving DecidableEq, Repr

/-- The placement of a bucket (R287, R280). -/
structure Bucket where
  port : Nat := 0
  base : Nat := 0
  slice : Nat := 0
  deriving DecidableEq, Repr

/-- A bucket's move (R296): the bucket, its target and its new base. -/
structure BMove where
  bucket : Nat
  port : Nat
  base : Nat
  deriving DecidableEq, Repr

/-- The Reservoir and device memory (chapter 12). Bytes that are not listed read 0 (log 6). -/
structure RsvrState where
  mem : Map Byte := []
  /-- 8-byte words held as poison (R291), in rising order -/
  poison : List Nat := []
  /-- the extent E in GiB (R287) -/
  extent : Nat := 0
  buckets : Map Bucket := []
  lines : Map RLine := []
  stamp : Nat := 0
  outside : Nat := 0
  /-- moves of failing ports that have not been made, the running one first -/
  moves : List BMove := []
  /-- ports whose buckets move, with the extent that takes effect at the first publication (R297) -/
  lowerTo : Option Nat := none
  /-- ticks until the lowered extent takes effect -/
  lowerIn : Option Nat := none
  /-- writes also go to the old place until 2 ticks after publication: bucket, port, base and ticks left -/
  dual : List (Nat × Nat × Nat × Nat) := []
  nrStatus : Nat := 0
  nrBusy : Bool := false
  deriving DecidableEq, Repr

end Sys2Proof
end

