-- ==== Sys2Proof/Machine/State.lean ====
section
/-! DEFINITION. The state of the block as plain data, its reset, and the reasons a step can stop. -/
namespace Sys2Proof.Machine

/-- Why a step faults. -/
inductive Fault where
  /-- Nobody raises it: every command the spec lists has an effect in every state (safe). -/
  | none
  deriving DecidableEq, Repr

/-- Why a step is refused. -/
inductive Refusal where
  /-- Raised by an arm of exec whose command has no meaning yet (safe). -/
  | notModelled (mnemonic : String)
  deriving DecidableEq, Repr

/-- The register file: values that software wrote (absent: the reset value), event counts, and what R11 and R419
keep per host port. Register keys are BAR0 offsets, plus 2^20 × function for a function page (Table 18-1). -/
structure RegFile where
  val : Map W64 := []
  /-- event counts (R248), keyed 64 × register key + bit -/
  cnt : Map Nat := []
  /-- lower halves held (R11), keyed 4 × register key + port -/
  half : Map W32 := []
  /-- the value with which a 64-bit register last took effect (R11) -/
  last : Map W64 := []
  /-- selectors (R419), keyed 4 × register key + port -/
  sel : Map W64 := []
  /-- written values that take effect at the next edge, in order -/
  next : List (Nat × W64) := []
  /-- translation fault records latched by a port (R178), keyed 4 × function + port -/
  latch : Map (W64 × W64) := []
  deriving DecidableEq, Repr

/-- The block's state: one part per chapter of the spec, and the queue of waiting commands. -/
structure State where
  /-- commands waiting, first in, first out -/
  pending : List Instr := []
  /-- messages driven at the ports, oldest first -/
  out : List Out := []
  /-- the model's own counter of free values drawn (log 7) -/
  free : Nat := 0
  reg : RegFile := {}
  time : TimeState := {}
  weir : WeirState := {}
  obs : ObsState := {}
  spl : SpoolState := {}
  port : PortState := {}
  ep : EndState := {}
  que : QueState := {}
  env : EnvState := {}
  tr : TransState := {}
  coh : CohState := {}
  rsvr : RsvrState := {}
  cis : CisState := {}
  fab : FabState := {}
  /-- commands held by the audit stall rule, oldest first (R414) -/
  stalled : List Instr := []
  /-- commands held by a sluice stop, oldest first (R396, R397) -/
  sluiceHeld : List Instr := []
  sluice : SluiceState := {}
  deriving DecidableEq, Repr

/-- The machine right after rst_por_n: every field at the value its structure gives, which is the reset value of the
spec, or the model's choice that log 5 names. -/
def State.reset : State := {}

/-- The outcome type of a command. -/
abbrev Res := Host.Outcome State Fault Refusal

end Sys2Proof.Machine
end

