-- ==== Sys2Proof/Machine/Ops.lean ====
section
/-! DEFINITION. Named operations over sparse maps, bit fields, byte strings and device memory. -/
namespace Sys2Proof.Machine

/-! ### Sparse maps -/

/-- The value at a key. -/
def mget {α : Type} : Map α → Nat → Option α
  | [], _ => none
  | (k, a) :: r, i => if k = i then some a else mget r i

/-- The value at a key, or a default. -/
def mgetD {α : Type} (m : Map α) (i : Nat) (d : α) : α := (mget m i).getD d

/-- Set the value at a key, keeping the keys strictly rising. -/
def mset {α : Type} : Map α → Nat → α → Map α
  | [], i, a => [(i, a)]
  | (k, b) :: r, i, a =>
    if k = i then (i, a) :: r
    else if i < k then (i, a) :: (k, b) :: r
    else (k, b) :: mset r i a

/-- Remove a key. -/
def mdel {α : Type} : Map α → Nat → Map α
  | [], _ => []
  | (k, b) :: r, i => if k = i then r else (k, b) :: mdel r i

/-- Change the value at a key from its value or a default. -/
def mupd {α : Type} (m : Map α) (i : Nat) (d : α) (f : α → α) : Map α := mset m i (f (mgetD m i d))

/-- Change the value at a key where there is one. -/
def mmod {α : Type} (m : Map α) (i : Nat) (f : α → α) : Map α :=
  match mget m i with
  | some a => mset m i (f a)
  | none => m

/-- Values of a map. -/
def mvals {α : Type} (m : Map α) : List α := m.map (·.2)

/-- Keys of a map. -/
def mkeys {α : Type} (m : Map α) : List Nat := m.map (·.1)

/-- Apply a function to every value. -/
def mmap {α β : Type} (f : Nat → α → β) (m : Map α) : Map β := m.map fun e => (e.1, f e.1 e.2)

/-- Keys strictly rising. -/
def mwf {α : Type} : Map α → Bool
  | [] => true
  | [_] => true
  | (k, _) :: (j, b) :: r => decide (k < j) && mwf ((j, b) :: r)

/-! ### Fields, bytes -/

/-- Bits [lo + n − 1 : lo] of a word. -/
def fld (w : W64) (lo n : Nat) : Nat := (w.toNat / 2 ^ lo) % 2 ^ n

/-- Bit i of a word. -/
def bit (w : W64) (i : Nat) : Bool := fld w i 1 == 1

/-- A number placed at a bit position. -/
def at' (v lo : Nat) : W64 := BitVec.ofNat 64 (v * 2 ^ lo)

/-- A Bool as a bit. -/
def b2n (b : Bool) : Nat := if b then 1 else 0

/-- Saturating addition at an n-bit maximum. -/
def satAdd (n a b : Nat) : Nat := min (a + b) (2 ^ n - 1)

/-- n little-endian bytes of a number (R6). -/
def toBytes : Nat → Nat → List Byte
  | 0, _ => []
  | n + 1, v => BitVec.ofNat 8 v :: toBytes n (v / 256)

/-- The number of a little-endian byte string (R6). -/
def ofBytes : List Byte → Nat
  | [] => 0
  | b :: r => b.toNat + 256 * ofBytes r

/-- k-bit XOR-fold (R159). -/
def xorFold (k : Nat) : Nat → Nat → Nat
  | 0, _ => 0
  | n + 1, v => if v = 0 then 0 else Nat.xor (v % 2 ^ k) (xorFold k n (v / 2 ^ k))

/-- 32-bit serial distance (s − v) mod 2^32. -/
def dist32 (s v : Nat) : Nat := (s + 2 ^ 32 - v % 2 ^ 32) % 2 ^ 32

/-- Quotient rounded up. -/
def ceilDiv (a b : Nat) : Nat := (a + b - 1) / b

/-- Insert into a list of numbers in rising order, without repeats. -/
def insNat (a : Nat) : List Nat → List Nat
  | [] => [a]
  | b :: r => if a = b then b :: r else if a < b then a :: b :: r else b :: insNat a r

/-- The lowest tag of 0 to n − 1 that no open request uses. -/
def freeTag (n : Nat) (used : List Nat) : Option Nat := (List.range n).find? fun t => !used.contains t

/-- The generation of a slot. -/
def slotGen (k : Slots) (i : Nat) : Nat := mgetD k.gens i 0

/-- The bits set in a number below n. -/
def bitsOf (n v : Nat) : List Nat := (List.range n).filter fun i => (v / 2 ^ i) % 2 == 1

/-- A number from its set bits. -/
def ofBits (l : List Nat) : Nat := l.foldl (fun a i => a + 2 ^ i) 0

/-! ### Byte memories: bytes absent read 0 -/

/-- One byte of a byte map. -/
def cellGet (m : Map Byte) (a : Nat) : Byte := mgetD m a 0

/-- Store one byte, keeping the canonical form: no entry holds 0. -/
def cellSet (m : Map Byte) (a : Nat) (b : Byte) : Map Byte := if b = 0 then mdel m a else mset m a b

/-- n bytes from an address upwards. -/
def cellsGet (m : Map Byte) (a : Nat) : Nat → List Byte
  | 0 => []
  | n + 1 => cellGet m a :: cellsGet m (a + 1) n

/-- Store a byte string. -/
def cellsSet (m : Map Byte) (a : Nat) : List Byte → Map Byte
  | [] => m
  | b :: r => cellsSet (cellSet m a b) (a + 1) r

/-- The canonical form: keys strictly rising and no entry equal to 0. -/
def cellsWf (m : Map Byte) : Bool := mwf m && m.all fun e => e.2 != 0

/-- Drop the bytes of a range. -/
def cellsClear (m : Map Byte) (lo len : Nat) : Map Byte := m.filter fun e => e.1 < lo || lo + len ≤ e.1

/-! ### Messages and free values -/

/-- Drive a message. -/
def emit (o : Out) (s : State) : State := { s with out := s.out ++ [o] }

/-- Drive several messages. -/
def emitAll (os : List Out) (s : State) : State := { s with out := s.out ++ os }

/-- A choice among the candidates of a non-empty list that the spec leaves open (log 7). -/
def choose {α : Type} (l : List α) (s : State) : Option α × State :=
  match l with
  | [a] => (some a, s)
  | l => (l[Config.choice s.free % l.length]?, { s with free := s.free + 1 })

/-- The current tick number (R8). -/
def tick (s : State) : Nat := s.time.now.toNat / 16000

/-- The chip is frozen by a sluice stop: admission has stopped (R395). -/
def frozen (s : State) : Bool := s.sluice.st == .capturing || s.sluice.st == .held || s.sluice.st == .resumePending

/-- A word of fields (value, lowest bit, width); a value beyond its field shows as the greatest that fits. -/
def regWord (l : List (Nat × Nat × Nat)) : Nat :=
  (l.map fun f => min f.1 (2 ^ f.2.2 - 1) * 2 ^ f.2.1).foldl (· + ·) 0

/-- Fold a state change over a list. -/
def each {α : Type} (l : List α) (f : α → State → State) (s : State) : State := l.foldl (fun s a => f a s) s

/-- Apply a change when a condition holds. -/
def whenS (c : Bool) (f : State → State) (s : State) : State := if c then f s else s

end Sys2Proof.Machine
end

