-- ==== Sys2Proof/Machine/Code.lean ====
section
/-! DEFINITION. The (80,64) code of R386: check bits, decoding, and what a word of a memory port or a core fabric port
brings. -/
namespace Sys2Proof.Machine

/-- The product of two polynomials over GF(2), the bits of b below n. -/
def polyMul (a b : Nat) : Nat → Nat
  | 0 => 0
  | n + 1 => Nat.xor (polyMul a b n) (if b / 2 ^ n % 2 = 1 then a * 2 ^ n else 0)

/-- g(x) of R386: the minimal polynomial x^7 + x^3 + 1 of α times that of α^3, x^7 + x^3 + x^2 + x + 1. -/
def codeGen : Nat := polyMul 0x89 0x8F 8

/-- The remainder modulo g(x) of r x^n and the n lowest bits of v. -/
def codeRem (v : Nat) : Nat → Nat → Nat
  | 0, r => r
  | n + 1, r =>
    let t := 2 * r + v / 2 ^ n % 2
    codeRem v n (if t / 2 ^ 14 % 2 = 1 then Nat.xor t codeGen else t)

/-- Even parity of the n lowest bits. -/
def parityOf (v : Nat) : Nat → Nat
  | 0 => 0
  | n + 1 => (parityOf v n + v / 2 ^ n) % 2

/-- The check bits of a data word with its poison bit (R386): C[13:0] the remainder, C[14] even parity over the 79 other
bits, C[15] the poison bit. -/
def chkOf (d : W64) (p : Bool) : BitVec 16 :=
  let info := (b2n p * 2 ^ 64 + d.toNat) * 2 ^ 14
  let r := codeRem info 79 0
  BitVec.ofNat 16 (r + parityOf (info + r) 79 * 2 ^ 14 + b2n p * 2 ^ 15)

/-- The 80 bits of a codeword as one number: C[13:0], D, P and C[14], lowest first. -/
def codeNum (c : CodeWord) : Nat :=
  let k := c.chk.toNat
  k % 2 ^ 14 + c.d.toNat * 2 ^ 14 + k / 2 ^ 15 * 2 ^ 78 + k / 2 ^ 14 % 2 * 2 ^ 79

/-- The syndrome of 80 bits: 0 for a codeword, and linear. -/
def codeSyn (w : Nat) : Nat := codeRem w 79 0 + parityOf w 80 * 2 ^ 14

/-- The codeword that differs from 80 bits in at most two of them; none where more are wrong (R386). -/
def codeFix (w : Nat) : Option Nat :=
  let y := codeSyn w
  let t := (List.range 80).map fun i => (i, codeSyn (2 ^ i))
  if y = 0 then some w
  else match t.find? fun e => e.2 == y with
  | some e => some (Nat.xor w (2 ^ e.1))
  | none => t.findSome? fun e =>
      (t.find? fun f => f.1 < e.1 && Nat.xor e.2 f.2 == y).map fun f => Nat.xor (Nat.xor w (2 ^ e.1)) (2 ^ f.1)

/-- What a codeword brings (R386, R387): its word, the word that a correction of one or two bits gives, or poison: a codeword
whose P is 1, a word the code detects but cannot correct, or one that `poison` marks as known bad. -/
def codeIn (c : CodeWord) (poison : Bool) : WordIn :=
  if poison then .poison
  else match codeFix (codeNum c) with
  | none => .poison
  | some w =>
    let d : W64 := BitVec.ofNat 64 (w / 2 ^ 14)
    if w / 2 ^ 78 % 2 = 1 then .poison else if w = codeNum c then .good d else .corrected d

/-- The check bits of the words of some data, of which those named carry P (R57, R387). -/
def dataChk (data : List Byte) (bad : List Nat) : List (BitVec 16) :=
  (List.range (data.length / 8)).map fun i =>
    chkOf (BitVec.ofNat 64 (ofBytes ((data.drop (8 * i)).take 8))) (bad.contains i)

end Sys2Proof.Machine
end

