-- ==== Sys2Proof/Machine/Operands.lean ====
section
/-! DEFINITION. Number formats as operands (R299 to R308): element values, rounding, packing and block scaling. -/
namespace Sys2Proof.Machine

/-- Format codes of Table 0-6. -/
def fmtOf (n : Nat) : Option Fmt :=
  ([.fp64, .fp32, .bf16, .fp16, .e4m3, .e5m2, .e3m2, .e2m3, .e2m1, .int32, .int16, .int8, .uint8, .int4, .cxp]
    : List Fmt)[n]?

/-- Exponent and mantissa bits of a floating-point format (Table 13-1); none for the others. -/
def fmtEM : Fmt → Option (Nat × Nat)
  | .fp64 => some (11, 52) | .fp32 => some (8, 23) | .bf16 => some (8, 7) | .fp16 => some (5, 10)
  | .e4m3 => some (4, 3) | .e5m2 => some (5, 2) | .e3m2 => some (3, 2) | .e2m3 => some (2, 3) | .e2m1 => some (2, 1)
  | _ => none

/-- Width in bits (Table 0-6); CXP is variable. -/
def fmtWidth : Fmt → Nat
  | .fp64 => 64 | .fp32 => 32 | .bf16 => 16 | .fp16 => 16 | .e4m3 => 8 | .e5m2 => 8 | .e3m2 => 6 | .e2m3 => 6
  | .e2m1 => 4 | .int32 => 32 | .int16 => 16 | .int8 => 8 | .uint8 => 8 | .int4 => 4 | .cxp => 0

/-- Block scaling is allowed (Table 0-6). -/
def fmtBlock : Fmt → Bool
  | .e4m3 => true | .e5m2 => true | .e3m2 => true | .e2m3 => true | .e2m1 => true | .int8 => true | _ => false

/-- The format has infinities and NaNs under an all-ones exponent (Table 13-1). -/
def fmtIeee : Fmt → Bool
  | .fp64 => true | .fp32 => true | .bf16 => true | .fp16 => true | .e5m2 => true | _ => false

/-- Least and greatest value of an integer format (Table 13-2). -/
def intRange : Fmt → Int × Int
  | .int32 => (-2147483648, 2147483647) | .int16 => (-32768, 32767) | .int8 => (-128, 127) | .uint8 => (0, 255)
  | _ => (-8, 7)

/-- The exponent bias, 2^(e−1) − 1 (Table 13-1). -/
def fmtBias (eb : Nat) : Nat := 2 ^ (eb - 1) - 1

/-- Two's-complement value of the low w bits. -/
def signed (w v : Nat) : Int := if v % 2 ^ w < 2 ^ (w - 1) then (v % 2 ^ w : Nat) else (v % 2 ^ w : Nat) - (2 ^ w : Nat)

/-- The exact value of an element (R299; Table 13-2 for integers). -/
def decodeVal (f : Fmt) (v : Nat) : Val :=
  match fmtEM f with
  | some (eb, mb) =>
    let neg := v / 2 ^ (eb + mb) % 2 == 1
    let e := v / 2 ^ mb % 2 ^ eb
    let m := v % 2 ^ mb
    if fmtIeee f && e = 2 ^ eb - 1 then (if m = 0 then .inf neg else .nan)
    else if f == .e4m3 && e = 15 && m = 7 then .nan
    else if e = 0 then .fin neg m (1 - (fmtBias eb : Int) - mb)
    else .fin neg (2 ^ mb + m) ((e : Int) - fmtBias eb - mb)
  | none =>
    let i : Int := if f == .uint8 then ((v % 256 : Nat) : Int) else signed (fmtWidth f) v
    .fin (i < 0) i.natAbs 0

/-- The stochastic draw (R307). -/
def srMix (key index : W64) : W64 :=
  let z := key ^^^ (index * 0x9E3779B97F4A7C15)
  let z := (z ^^^ (z >>> 30)) * 0xBF58476D1CE4E5B9
  let z := (z ^^^ (z >>> 27)) * 0x94D049BB133111EB
  z ^^^ (z >>> 31)

/-- Does a magnitude a + r ÷ 2^k units of the last place round up (Table 13-3, R307)? -/
def roundUp (mode : Nat) (neg : Bool) (a r k : Nat) (key : W64) (index : Nat) : Bool :=
  if r = 0 then false
  else match mode with
  | 0 => 2 ^ k < 2 * r || (2 ^ k == 2 * r && a % 2 == 1)
  | 1 => 2 ^ k ≤ 2 * r
  | 2 => !neg
  | 3 => neg
  | 4 => false
  | _ => ((srMix key (BitVec.ofNat 64 index)) >>> 40).toNat < r * 2 ^ 24 / 2 ^ k

/-- Whole units of 2^q in m × 2^e, the remainder and its bits. -/
def splitAt (m : Nat) (e q : Int) : Nat × Nat × Nat :=
  if q ≤ e then (m * 2 ^ (e - q).toNat, 0, 0)
  else let k := (q - e).toNat; (m / 2 ^ k, m % 2 ^ k, k)

/-- The canonical NaN of a format (Tables 13-1 and 13-4); formats without one give +0. -/
def canonNan : Fmt → Nat
  | .fp64 => 0x7FF8000000000000 | .fp32 => 0x7FC00000 | .bf16 => 0x7FC0 | .fp16 => 0x7E00 | .e4m3 => 0x7F
  | .e5m2 => 0x7E | _ => 0

/-- The code of the largest finite magnitude. -/
def maxCode (f : Fmt) (eb mb : Nat) : Nat :=
  if fmtIeee f then (2 ^ eb - 1) * 2 ^ mb - 1 else if f == .e4m3 then 0x7E else 2 ^ (eb + mb) - 1

/-- Does an overflow under the IEEE directions give the infinity (R304)? `up` is the rounding step taken. -/
def overflowInf (mode : Nat) (neg up : Bool) : Bool :=
  match mode with
  | 0 => true | 1 => true | 2 => !neg | 3 => neg | 4 => false | _ => up

/-- Round an exact value into a format (R302, R304, R305, R307): the element, and whether it is counted. -/
def encodeVal (f : Fmt) (mode : Nat) (sat : Bool) (key : W64) (index : Nat) (x : Val) : Nat × Bool :=
  match fmtEM f with
  | some (eb, mb) =>
    let sgn (neg : Bool) (c : Nat) : Nat := (if neg then 2 ^ (eb + mb) else 0) + c
    let top := maxCode f eb mb
    match x with
    | .nan => (canonNan f, !(fmtIeee f || f == .e4m3))
    | .inf neg => if fmtIeee f then (sgn neg (top + 1), false) else (sgn neg top, true)
    | .fin neg m e =>
      if m = 0 then (sgn neg 0, false)
      else
        let qmin : Int := 1 - (fmtBias eb : Int) - mb
        let q : Int := max qmin ((Nat.log2 m : Int) + e - mb)
        let (a, r, k) := splitAt m e q
        let up := roundUp mode neg a r k key index
        let c := a + (q - qmin).toNat * 2 ^ mb + b2n up
        if c ≤ top then (sgn neg c, false)
        else if fmtIeee f && !sat && overflowInf mode neg up then (sgn neg (top + 1), true)
        else (sgn neg top, true)
  | none =>
    let (lo, hi) := intRange f
    let put (i : Int) : Nat := (i % (2 ^ fmtWidth f : Nat)).toNat
    match x with
    | .nan => (0, true)
    | .inf neg => (put (if neg then lo else hi), true)
    | .fin neg m e =>
      let (a, r, k) := splitAt m e 0
      let n := a + b2n (roundUp mode neg a r k key index)
      let i : Int := if neg then -(n : Int) else n
      if i < lo then (put lo, true) else if hi < i then (put hi, true) else (put i, false)

/-- A value times a power of two. -/
def scaleVal (k : Int) : Val → Val
  | .fin neg m e => .fin neg m (e + k)
  | x => x

/-- Element i of a packed array (R300): the bits from i × width up of the little-endian bytes. -/
def elemAt (w : Nat) (bytes : List Byte) (i : Nat) : Nat :=
  ofBytes ((bytes.drop (i * w / 8)).take (w / 8 + 2)) / 2 ^ (i * w % 8) % 2 ^ w

/-- Elements packed into bytes (R300). -/
def packElems (w : Nat) (es : List Nat) : List Byte :=
  let v := es.foldr (fun x a => x % 2 ^ w + 2 ^ w * a) 0
  toBytes (ceilDiv (es.length * w) 8) v

/-- Bytes of an array of n elements, block-scaled or plain (R300, R301). -/
def arrayBytes (f : Fmt) (bs : Bool) (n : Nat) : Nat :=
  if bs && fmtBlock f then n * fmtWidth f / 8 + n / 32 else ceilDiv (n * fmtWidth f) 8

/-- Byte offset of the group of element i (i a multiple of 1,024) in an array. -/
def groupOffset (f : Fmt) (bs : Bool) (i : Nat) : Nat := arrayBytes f bs i

/-- Value of element j of a group of n elements, block-scaled or plain (R301). -/
def groupVal (f : Fmt) (bs : Bool) (n : Nat) (bytes : List Byte) (j : Nat) : Val :=
  let x := decodeVal f (elemAt (fmtWidth f) bytes j)
  if bs && fmtBlock f then
    let sc := (bytes.getD (n * fmtWidth f / 8 + j / 32) 0).toNat
    if sc = 0xFF then .nan
    else scaleVal ((sc : Int) - 127 - (if f == .int8 then 6 else 0)) x
  else x

/-- emax of R306. -/
def fmtEmax : Fmt → Int
  | .e4m3 => 8 | .e5m2 => 15 | .e3m2 => 4 | .e2m3 => 2 | .e2m1 => 2 | _ => 0

/-- floor(log2) of a non-zero finite magnitude; none for the others. -/
def valLog : Val → Option Int
  | .fin _ m e => if m = 0 then none else some ((Nat.log2 m : Int) + e)
  | _ => none

/-- Exponent X of a block's scale (R306), or none where a value is NaN. -/
def blockScale (f : Fmt) (vs : List Val) : Option Int :=
  if vs.contains .nan then none
  else match vs.filterMap valLog with
  | [] => some (if vs.any fun v => match v with | .inf _ => true | _ => false then 127 else -127)
  | l :: r => some (max (-127) (min 127 (r.foldl max l - fmtEmax f)))

/-- A block of at most 32 values written block-scaled: elements, scale byte and how many are counted (R306). -/
def blockOut (f : Fmt) (mode : Nat) (key : W64) (first : Nat) (vs : List Val) : List Nat × Nat × Nat :=
  match blockScale f vs with
  | none => (vs.map fun _ => 0, 0xFF, 0)
  | some x =>
    let enc := (List.range vs.length).map fun j =>
      encodeVal f mode true key (first + j) (scaleVal ((if f == .int8 then 6 else 0) - x) (vs.getD j .nan))
    (enc.map (·.1), (x + 127).toNat, (enc.filter (·.2)).length)

/-- A group of at most 1,024 values written in a format: bytes and how many elements are counted. -/
def groupOut (f : Fmt) (bs : Bool) (mode : Nat) (sat : Bool) (key : W64) (first : Nat) (vs : List Val) :
    List Byte × Nat :=
  if bs && fmtBlock f then
    let blocks := (List.range (ceilDiv vs.length 32)).map fun b =>
      blockOut f mode key (first + 32 * b) ((vs.drop (32 * b)).take 32)
    (packElems (fmtWidth f) (blocks.map (·.1)).flatten ++ blocks.map (fun b => BitVec.ofNat 8 b.2.1),
      (blocks.map (·.2.2)).foldl (· + ·) 0)
  else
    let enc := (List.range vs.length).map fun j => encodeVal f mode sat key (first + j) (vs.getD j .nan)
    (packElems (fmtWidth f) (enc.map (·.1)), (enc.filter (·.2)).length)

/-- Exact sum of two values with the IEEE sign of an exact zero under a direction (R320, R325). -/
def addVal (mode : Nat) : Val → Val → Val
  | .nan, _ => .nan
  | _, .nan => .nan
  | .inf a, .inf b => if a == b then .inf a else .nan
  | .inf a, _ => .inf a
  | _, .inf b => .inf b
  | .fin n1 m1 e1, .fin n2 m2 e2 =>
    let e := min e1 e2
    let i1 : Int := (m1 * 2 ^ (e1 - e).toNat : Nat)
    let i2 : Int := (m2 * 2 ^ (e2 - e).toNat : Nat)
    let t := (if n1 then -i1 else i1) + (if n2 then -i2 else i2)
    if t = 0 then .fin (if n1 == n2 then n1 else mode == 3) 0 0 else .fin (t < 0) t.natAbs e

/-- Is a value below another, with −0 below +0 (R321)? -/
def ltVal : Val → Val → Bool
  | .nan, _ => false
  | _, .nan => false
  | .inf a, .inf b => a && !b
  | .inf a, .fin .. => a
  | .fin .., .inf b => !b
  | .fin n1 m1 e1, .fin n2 m2 e2 =>
    let e := min e1 e2
    let i1 : Int := (m1 * 2 ^ (e1 - e).toNat : Nat)
    let i2 : Int := (m2 * 2 ^ (e2 - e).toNat : Nat)
    let a := if n1 then -i1 else i1
    let b := if n2 then -i2 else i2
    a < b || (a == b && m1 == 0 && n1 && !n2)

/-- maximumNumber or minimumNumber of two elements at native width (R321): a NaN yields to a number, two NaNs give the
canonical NaN. -/
def maxMin (f : Fmt) (isMax : Bool) (x y : Nat) : Nat :=
  match decodeVal f x, decodeVal f y with
  | .nan, .nan => canonNan f
  | .nan, _ => y
  | _, .nan => x
  | a, b => if isMax then (if ltVal a b then y else x) else (if ltVal b a then y else x)

/-- Native addition of two elements with one rounding (R320, R325). -/
def addElem (f : Fmt) (mode : Nat) (sat : Bool) (x y : Nat) : Nat :=
  (encodeVal f mode sat 0 0 (addVal mode (decodeVal f x) (decodeVal f y))).1

end Sys2Proof.Machine
end

