-- ==== Sys2Proof/Machine/Flags.lean ====
section
/-! DEFINITION. Accumulators and their flags (R309 to R311), CXP descriptors (R312, R313), and canonical blocks
(R320). -/
namespace Sys2Proof.Machine

/-- V of Table 13-5: the sign bit's number. -/
def accV (wide : Bool) : Nat := if wide then 2130 else 309

/-- The weight exponent L. -/
def accL (wide : Bool) : Nat := if wide then 1074 else 149

/-- 32-bit words of an accumulator (R312). -/
def accWords (wide : Bool) : Nat := if wide then 68 else 10

/-- Wrap an integer to V + 1 bits of two's complement (R310). -/
def wrapV (wide : Bool) (x : Int) : Int :=
  let n : Int := (2 ^ (accV wide + 1) : Nat)
  let y := x % n
  if y < (2 ^ accV wide : Nat) then y else y - n

/-- Set the value with the OVF flag where the sum leaves the range (R310). -/
def accSum (wide : Bool) (x : Int) (a : Acc) : Acc :=
  let w := wrapV wide x
  { a with a := w, ovf := a.ovf || w != x }

/-- An operand added (R310). -/
def accAdd (wide : Bool) (v : Val) (a : Acc) : Acc :=
  match v with
  | .nan => { a with nan := true }
  | .inf neg => if neg then { a with ninf := true } else { a with pinf := true }
  | .fin neg m e =>
    if m = 0 then (if neg then { a with mz := true } else { a with pz := true })
    else
      let i : Int := (m * 2 ^ (e + accL wide).toNat : Nat)
      accSum wide (a.a + (if neg then -i else i)) { a with nz := true }

/-- Two accumulators added: values added, flags ORed (R310). -/
def accMerge (wide : Bool) (x y : Acc) : Acc :=
  accSum wide (x.a + y.a)
    { a := 0, nan := x.nan || y.nan, pinf := x.pinf || y.pinf, ninf := x.ninf || y.ninf, ovf := x.ovf || y.ovf
      nz := x.nz || y.nz, pz := x.pz || y.pz, mz := x.mz || y.mz }

/-- The value that an accumulator rounds as (R311). -/
def accVal (wide : Bool) (mode : Nat) (x : Acc) : Val :=
  if x.nan || x.ovf || (x.pinf && x.ninf) then .nan
  else if x.pinf then .inf false
  else if x.ninf then .inf true
  else if x.a ≠ 0 then .fin (x.a < 0) x.a.natAbs (-(accL wide : Int))
  else if x.mz && !x.pz && !x.nz then .fin true 0 0
  else if !x.mz && !x.nz then .fin false 0 0
  else .fin (mode == 3) 0 0

/-- An accumulator rounded once (R311). -/
def accRound (wide : Bool) (f : Fmt) (mode : Nat) (sat : Bool) (key : W64) (index : Nat) (x : Acc) : Nat × Bool :=
  encodeVal f mode sat key index (accVal wide mode x)

/-- The bits of an accumulator (Table 13-5): [V:0] the value, then the flags; reserved bits 0. -/
def accBits (wide : Bool) (x : Acc) : Nat :=
  let n := accV wide + 1
  (x.a % (2 ^ n : Nat)).toNat + 2 ^ n * (b2n x.nan + 2 * b2n x.pinf + 4 * b2n x.ninf + 8 * b2n x.ovf + 16 * b2n x.nz
    + 32 * b2n x.pz + 64 * b2n x.mz)

/-- An accumulator of its bits; reserved bits are ignored (R326). -/
def accOf (wide : Bool) (v : Nat) : Acc :=
  let n := accV wide + 1
  let b (i : Nat) : Bool := v / 2 ^ (n + i) % 2 == 1
  { a := signed n v, nan := b 0, pinf := b 1, ninf := b 2, ovf := b 3, nz := b 4, pz := b 5, mz := b 6 }

/-- The smallest count of words whose sign extension gives an integer (R313). -/
def cxpCount : Nat → Nat → Int → Nat
  | 0, c, _ => c
  | n + 1, c, x => if -(2 ^ (32 * c - 1) : Nat) ≤ x && x < (2 ^ (32 * c - 1) : Nat) && 0 < c then c else cxpCount n (c + 1) x

/-- The lowest non-zero word of a non-zero number. -/
def cxpLow : Nat → Nat → Nat
  | 0, _ => 0
  | n + 1, v => if v % 2 ^ 32 = 0 && v ≠ 0 then cxpLow n (v / 2 ^ 32) + 1 else 0

/-- Descriptor (LOW, COUNT) and words of an accumulator (R312, R313). An accumulator with OVF is a NaN (R311). -/
def cxpElem (wide : Bool) (x : Acc) : Nat × Nat × List Nat :=
  if x.nan || x.ovf || (x.pinf && x.ninf) then (8, 0, [])
  else if x.pinf then (9, 0, [])
  else if x.ninf then (10, 0, [])
  else if x.a = 0 then (b2n x.nz + 2 * b2n x.pz + 4 * b2n x.mz, 0, [])
  else
    let low := cxpLow (accWords wide) x.a.natAbs
    let y := x.a / (2 ^ (32 * low) : Nat)
    let c := cxpCount (accWords wide) 1 y
    (low, c, (List.range c).map fun i => (y / (2 ^ (32 * i) : Nat) % (2 ^ 32 : Nat)).toNat)

/-- The accumulator of a descriptor and its words; none for a reserved code or a violated limit (R313). -/
def cxpDecode (wide : Bool) (low c : Nat) (ws : List Nat) : Option Acc :=
  if c = 0 then
    if low ≤ 7 then some { nz := low % 2 == 1, pz := low / 2 % 2 == 1, mz := low / 4 % 2 == 1 }
    else if low = 8 then some { nan := true }
    else if low = 9 then some { pinf := true }
    else if low = 10 then some { ninf := true }
    else none
  else if low + c ≤ accWords wide then
    let v := ws.foldr (fun w a => w + 2 ^ 32 * a) 0
    some { a := signed (32 * c) v * (2 ^ (32 * low) : Nat), nz := true }
  else none

/-- Bytes of a CXP payload (R312): descriptors, padding to 4, words. -/
def cxpPayload (wide : Bool) (l : List Acc) : List Byte :=
  let es := l.map (cxpElem wide)
  let ds := (es.map fun e => if wide then toBytes 2 (e.1 + 128 * e.2.1) else toBytes 1 (e.1 + 16 * e.2.1)).flatten
  ds ++ List.replicate ((4 - ds.length % 4) % 4) 0 ++ ((es.map fun e => e.2.2).flatten.map (toBytes 4 ·)).flatten

/-- Read n accumulators of a payload whose descriptors and words are given as bytes. -/
def cxpRead (wide : Bool) : Nat → List Byte → List Byte → Option (List Acc)
  | 0, _, _ => some []
  | n + 1, ds, ws =>
    let d := ofBytes (ds.take (if wide then 2 else 1))
    let low := if wide then d % 128 else d % 16
    let c := if wide then d / 128 % 128 else d / 16
    let words := (List.range c).map fun i => ofBytes ((ws.drop (4 * i)).take 4)
    match (if wide && d / 2 ^ 14 ≠ 0 then none else cxpDecode wide low c words),
        cxpRead wide n (ds.drop (if wide then 2 else 1)) (ws.drop (4 * c)) with
    | some a, some l => some (a :: l)
    | _, _ => none

/-- The accumulators of a payload of n elements. -/
def cxpParse (wide : Bool) (n : Nat) (payload : List Byte) : Option (List Acc) :=
  let d := n * (if wide then 2 else 1)
  cxpRead wide n payload (payload.drop (ceilDiv d 4 * 4))

/-- The header of a partial record (Table 13-6), 32 bytes. -/
def partHeader (id chunk fmt kind op elements : Nat) (failed : Bool) (sender bytes contribs slot nblocks : Nat) :
    List Byte :=
  toBytes 32 (id % 2 ^ 32 + 2 ^ 32 * (chunk % 2 ^ 32) + 2 ^ 64 * (fmt % 16 + 16 * (kind % 4) + 64 * (op % 4)
    + 256 * ((elements - 1) % 1024) + 2 ^ 18 * b2n failed + 2 ^ 19 * (sender % 2 ^ 13)) + 2 ^ 96 * (bytes % 2 ^ 32)
    + 2 ^ 128 * (contribs % 2 ^ 32) + 2 ^ 160 * (slot % 2 ^ 64) + 2 ^ 224 * (nblocks % 2 ^ 32))

/-- A CXP record as CONVERT writes it, padded to a multiple of 64 bytes (R314). -/
def cxpRecord (wide : Bool) (fmt chunk : Nat) (l : List Acc) : List Byte :=
  let p := cxpPayload wide l
  let b := partHeader 0 chunk fmt 0 0 l.length false 0 (32 + p.length) 0 0 0 ++ p
  b ++ List.replicate ((64 - b.length % 64) % 64) 0

/-- Bytes of a full CXP record's place (R314). -/
def cxpPlace (wide : Bool) : Nat := if wide then 280640 else 42048

/-! ### Canonical blocks (R320) -/

/-- Where the block of n ≥ 2 leaves splits: 2^(ceil(log2 n) − 1). -/
def splitOf (n : Nat) : Nat := 2 ^ (Nat.log2 (2 * n - 1) - 1)

/-- Is a range (first, count) a block of the canonical tree over a range? -/
def isCanon : Nat → Nat → Nat → Nat → Nat → Bool
  | 0, _, _, _, _ => false
  | fuel + 1, f0, n0, f, n =>
    if f0 = f && n0 = n then true
    else if n0 < 2 then false
    else
      let h := splitOf n0
      if f < f0 + h then isCanon fuel f0 h f n else isCanon fuel (f0 + h) (n0 - h) f n

/-- Are two ranges the halves of one canonical block of 0 to leaves − 1? -/
def halves (leaves : Nat) (l r : Nat × Nat × List Nat) : Bool :=
  l.1 + l.2.1 == r.1 && splitOf (l.2.1 + r.2.1) == l.2.1 && isCanon 20 0 leaves l.1 (l.2.1 + r.2.1)

/-- Element-by-element rounded sum of two vectors. -/
def vecAdd (f : Fmt) (mode : Nat) (sat : Bool) : List Nat → List Nat → List Nat
  | x :: xs, y :: ys => addElem f mode sat x y :: vecAdd f mode sat xs ys
  | _, _ => []

/-- absorb of R320: insert a block and combine halves while there are any. -/
def absorb (f : Fmt) (mode : Nat) (sat : Bool) (leaves : Nat) :
    Nat → (Nat × Nat × List Nat) → List (Nat × Nat × List Nat) → List (Nat × Nat × List Nat)
  | 0, x, held => held ++ [x]
  | n + 1, x, held =>
    match held.find? fun h => halves leaves h x || halves leaves x h with
    | none => held ++ [x]
    | some h =>
      let p := if halves leaves h x then (h.1, h.2.1 + x.2.1, vecAdd f mode sat h.2.2 x.2.2)
        else (x.1, x.2.1 + h.2.1, vecAdd f mode sat x.2.2 h.2.2)
      absorb f mode sat leaves n p (held.filter (· != h))

end Sys2Proof.Machine
end

