-- ==== Sys2Proof/Machine/Frames.lean ====
section
/-! DEFINITION. Fabric frames and packet descriptors as bits (R328, R329, R335, R336, R341, R343), and the codes that responses
carry. -/
namespace Sys2Proof.Machine

/-! ### Codes of a response -/

/-- Completion STATUS codes (Table 6-6). -/
def statusCode : Status → Nat
  | .ok => 0 | .fault => 1 | .rights => 2 | .revoked => 3 | .poison => 4 | .invalid => 5 | .invalidFormat => 6
  | .invalidOp => 7 | .staleHandle => 8 | .noMemory => 9 | .noSlot => 10 | .fenceError => 11 | .fenceTimeout => 12
  | .busy => 13

/-- The status code of a response (R67, R335). -/
def rspCode : Status → Nat
  | .ok => 0
  | .fault => 1 | .noMemory => 1 | .fenceError => 1 | .fenceTimeout => 1
  | .rights => 2 | .revoked => 3 | .poison => 4
  | _ => 5

/-! ### The wire (R328 to R330) -/

/-- Where byte b of a frame travels at a width of 8 or 4 lanes: word cycle, lane among those in use, lowest bit of the lane's
word (R328, R330). -/
def frameAt (lanes b : Nat) : Nat × Nat × Nat := (b / (32 * lanes), b % (32 * lanes) / 32, 8 * (b % 32))

/-- Cycles of flN_txclk that a frame takes: 17 at 8 lanes, 34 at 4 (R328, R330). -/
def frameCycles (lanes : Nat) : Nat := 4352 / (32 * lanes)

/-- The byte of the frame at which symbol s of codeword c begins (R329). -/
def symbolAt (c s : Nat) : Nat := 2 * (4 * s + c)

/-- n bits of the register of CRC-32C (reflected polynomial 0x82F63B78; log 148). -/
def crcStep : Nat → Nat → Nat
  | 0, r => r
  | n + 1, r => crcStep n (if r % 2 = 1 then Nat.xor (r / 2) 0x82F63B78 else r / 2)

/-- The register of CRC-32C after some bytes; a register of 0 has an arm of its own, so that each step is evaluated. -/
def crcBytes : List Byte → Nat → Nat
  | [], r => r
  | b :: l, 0 => crcBytes l (crcStep 8 b.toNat)
  | b :: l, r + 1 => crcBytes l (crcStep 8 (Nat.xor (r + 1) b.toNat))

/-- CRC-32C of some bytes (Table 14-2; log 148). -/
def crc32c (d : List Byte) : Nat := Nat.xor (crcBytes d 0xFFFFFFFF) 0xFFFFFFFF

/-- Fields placed in a word: value, lowest bit, width. -/
def bitFields (l : List (Nat × Nat × Nat)) : Nat := (l.map fun f => f.1 % 2 ^ f.2.2 * 2 ^ f.2.1).foldl (· + ·) 0

/-- n bytes of a byte string, 0 beyond its end. -/
def padTo (n : Nat) (d : List Byte) : List Byte := d.take n ++ List.replicate (n - d.length) 0

/-- A field of a received frame's header. -/
def headFld (f : FrameIn) (lo n : Nat) : Nat := f.head.toNat / 2 ^ lo % 2 ^ n

/-- CRC-32C over bytes 0–4,095 and 4,096–4,123 of a received frame (Table 14-2). -/
def frameCrc (f : FrameIn) : Nat := crc32c (padTo 4096 f.slots ++ toBytes 28 f.head.toNat)

end Sys2Proof.Machine

namespace Sys2Proof

/-- A frame is good: every codeword is decodable and the CRC matches (R329). -/
def FrameIn.good (f : FrameIn) : Bool :=
  f.symbols.all (·.isSome) && Machine.frameCrc f == Machine.headFld f 224 32

/-- Symbols that the decoder has corrected (R329). -/
def FrameIn.corrected (f : FrameIn) : Nat := (f.symbols.map (·.getD 0)).foldl (· + ·) 0

/-- FSEQ, and FACK where FACK_VALID is 1 (Table 14-2). -/
def FrameIn.fseq (f : FrameIn) : W32 := BitVec.ofNat 32 (Machine.headFld f 0 32)
def FrameIn.fack (f : FrameIn) : Option W32 :=
  if Machine.headFld f 64 1 = 1 then some (BitVec.ofNat 32 (Machine.headFld f 32 32)) else none

/-- NAK and IDLE (Table 14-2). -/
def FrameIn.nak (f : FrameIn) : Bool := Machine.headFld f 65 1 == 1
def FrameIn.idle (f : FrameIn) : Bool := Machine.headFld f 66 1 == 1

/-- Credits returned on VC0 to VC3 (Table 14-2). -/
def FrameIn.credits (f : FrameIn) : List Nat := (List.range 4).map fun v => Machine.headFld f (68 + 10 * v) 10

end Sys2Proof

namespace Sys2Proof.Machine

/-! ### Descriptors and data slots (R335) -/

/-- Virtual channel of a packet (Table 14-4). -/
def pktVc : Pkt → Nat
  | .write .. => 3 | .read .. => 3 | .atomic .. => 3 | .record .. => 3
  | .fenceOp .. => 1 | .fenceDone .. => 1 | .rdata .. => 2 | .aresp .. => 2

/-- Data bytes of a packet. -/
def pktBytes : Pkt → Nat
  | .write _ _ d => d.length
  | .read .. => 0
  | .atomic .. => 64
  | .record _ _ d => d.length
  | .fenceOp .. => 64
  | .fenceDone .. => 64
  | .rdata _ d _ => d.length
  | .aresp _ o _ => if o.isSome then 64 else 0

/-- Data slots of 64 bytes. -/
def pktSlots (p : Pkt) : Nat := ceilDiv (pktBytes p) 64

/-- TYPE of a packet (Table 14-4). -/
def pktType : Pkt → Nat
  | .write .. => 1 | .read .. => 2 | .atomic .. => 3 | .record .. => 4
  | .fenceOp .. => 5 | .fenceDone .. => 6 | .rdata .. => 7 | .aresp .. => 8

/-- ADDR of a packet (Table 14-4a): the PA of a request; ESEQ of the request and status of a response. -/
def pktAddr : Pkt → Nat
  | .write _ pa _ => pa
  | .read _ _ pa _ => pa
  | .atomic _ pa _ => pa
  | .record .. => 0
  | .fenceOp .. => 0
  | .fenceDone e _ st => e % 2 ^ 20 + rspCode st * 2 ^ 20
  | .rdata e _ st => e % 2 ^ 20 + rspCode st * 2 ^ 20
  | .aresp e _ st => e % 2 ^ 20 + rspCode st * 2 ^ 20

/-- LEN_LAST (Table 14-4a): bytes in the last data slot, or slots requested by a READ, minus 1. -/
def pktLenLast : Pkt → Nat
  | .read _ _ _ len => ceilDiv len 64 - 1
  | p => (pktBytes p + 63) % 64

/-- Data of a packet before encryption (Table 14-4): the fields of R283, Table 10-3 and R239 in their slots. The width and
format of an atomic, and the scope, core and engine of a fence operation, have no place in the spec (log 30). -/
def pktData (dst : Nat) : Pkt → List Byte
  | .write _ _ d => d
  | .read .. => []
  | .atomic _ _ o => toBytes 64 (bitFields [(o.aop, 0, 6), (b2n o.noret, 7, 1), (o.operand.toNat, 128, 128), (o.compare.toNat, 256, 128)])
  | .record _ _ d => d
  | .fenceOp _ _ h v t _ _ _ => toBytes 64 (bitFields [(h.toNat, 0, 64), (v.toNat, 64, 64), (dst, 128, 13), (t, 144, 32)])
  | .fenceDone _ v st => toBytes 64 (bitFields [(v.toNat, 0, 64), (statusCode st, 64, 16)])
  | .rdata _ d _ => d
  | .aresp _ o _ => match o with
    | some v => toBytes 64 v
    | none => []

/-- The 20 bytes of a descriptor that travel in clear (Table 14-4a). -/
def descHead (type slots lenLast dst src eseq cls env stick : Nat) (kepoch : Bool) (ctr addr : Nat) : Nat :=
  bitFields [(type, 0, 4), (slots, 4, 7), (lenLast, 11, 6), (dst, 17, 13), (src, 30, 13), (eseq, 43, 20), (cls, 63, 4),
    (env, 67, 12), (stick, 79, 7), (b2n kepoch, 86, 1), (ctr, 87, 16), (addr, 103, 57)]

/-- The descriptor's header of what a frame carries: sender, tick of sending, message. -/
def msgHead (src stick : Nat) : FlMsg → Nat
  | .packet q =>
    let b := q.p.body
    descHead (pktType b) (pktSlots b) (pktLenLast b) q.dst src q.eseq q.p.cls q.p.tag q.stick q.kepoch q.ctr (pktAddr b)
  | .eack dst _ _ _ ctr kep => descHead 9 1 63 dst src 0 0 0xFFF stick kep ctr 0
  | .session dst kind => descHead 10 (if kind = 1 then 4 else if kind = 4 then 1 else 60) 63 dst src 0 0 0xFFF stick false 0 0
  | .sluice _ dst _ _ _ _ => descHead 10 1 63 dst src 0 0 0xFFF stick false 0 0
  | .hello dst .. => descHead 11 1 63 dst src 0 0 0xFFF stick false 0 0
  | .sync .. => descHead 13 1 63 0 src 0 0 0xFFF stick false 0 0
  | .delayReq .. => descHead 14 1 63 0 src 0 0 0xFFF stick false 0 0
  | .linkInit .. => descHead 15 1 63 0 src 0 0 0xFFF stick false 0 0

/-- A slot whose fields the spec does not place (log 30): its type and its values. -/
def openSlot (type : Nat) (vals : List Nat) : List Byte := (List.range 64).map (Config.openSlot type vals)

/-- Data slots of what a frame carries, before encryption (Tables 14-5 and 14-6). -/
def msgData : FlMsg → List Byte
  | .packet q => pktData q.dst q.p.body
  | .eack _ a1 a2 a3 _ _ => openSlot 9 [a1, a2, a3]
  | .session _ kind => ((List.range (if kind = 1 then 4 else if kind = 4 then 1 else 60)).map fun i => openSlot 10 [kind, i]).flatten
  | .sluice kind _ t a b c => openSlot 10 [4 + kind, t, a, b, c]
  | .hello _ chip domain quality root prio plane hops claim => toBytes 64 (bitFields [(Config.identityDigest, 0, 384),
      (chip, 384, 13), (domain, 397, 16), (quality, 413, 2), (b2n root, 415, 1), (prio, 416, 8), (plane, 424, 5), (hops, 429, 3),
      (b2n claim, 432, 1)])
  | .sync d c root domain hops t => toBytes 64 (bitFields [(d.toNat / 16, 0, 64), (d.toNat % 16, 64, 4), (c.toNat, 68, 48),
      (root, 116, 13), (domain, 129, 16), (hops, 145, 3), (t.toNat, 148, 64)])
  | .delayReq t1 => toBytes 64 (bitFields [(t1.toNat / 16, 0, 64), (t1.toNat % 16, 64, 4)])
  | .linkInit plane mask cr => openSlot 15 (plane :: mask :: cr)

/-- The chip that a message is for; none named for what the adjacent switch takes, or forwards to every leaf. -/
def msgDst : FlMsg → Nat
  | .packet q => q.dst
  | .eack dst .. => dst
  | .session dst _ => dst
  | .sluice _ dst .. => dst
  | .hello dst .. => dst
  | _ => 0

/-- Fabric tag and key generation under which a message is encrypted; none for VC0 and SESSION, whose messages have no
envelope key (Table 14-4, R343). -/
def msgKey : FlMsg → Option (Nat × Nat × Nat × Bool)
  | .packet q => some (q.p.tag, q.p.kgen, q.ctr, q.kepoch)
  | .eack _ _ _ _ ctr kep => some (0xFFF, 0, ctr, kep)
  | _ => none

/-- The key of a packet (R343): the link key of the session's secret, link and direction, or the envelope's key from it. -/
def pktKeyOf (secret link src dst tag kgen : Nat) : Nat :=
  let k := Config.linkKey secret link src dst
  if tag = 0xFFF then k else Config.envKey k tag kgen

/-- The 96-bit nonce of a packet: the salt, then the packet counter (R343). -/
def pktNonce (secret link src dst ctr : Nat) : Nat := Config.linkSalt secret link src dst % 2 ^ 32 * 2 ^ 64 + ctr % 2 ^ 64

/-- Encrypt data under a key and a nonce, byte by byte with the key stream of AES-256-GCM (R343). -/
def sealData (key nonce : Nat) (d : List Byte) : List Byte := d.zipIdx.map fun e => e.1 ^^^ Config.gcmStream key nonce e.2

/-- A descriptor of 32 bytes and its data as sent on a link with a session's secret (R335, R343): header in clear as additional
authenticated data, tag, and ciphertext; VC0 with a tag of 0; the authentication of SESSION messages is the key store's. -/
def msgSeal (secret link src stick : Nat) (m : FlMsg) : List Byte × List Byte :=
  let h := msgHead src stick m
  let dst := msgDst m
  match msgKey m with
  | some (tag, kgen, ctr, _) =>
    let key := pktKeyOf secret link src dst tag kgen
    let nonce := pktNonce secret link src dst ctr
    let c := sealData key nonce (msgData m)
    (toBytes 32 (h + Config.gcmTag key nonce h c % 2 ^ 96 * 2 ^ 160), c)
  | none =>
    let tag := match m with
      | .session .. | .sluice .. => Config.gcmTag secret 0 h (msgData m) % 2 ^ 96
      | _ => 0
    (toBytes 32 (h + tag * 2 ^ 160), msgData m)

/-! ### Frames (R328, R336) -/

/-- Data in whole slots. -/
def padSlots (d : List Byte) : List Byte := padTo (64 * ceilDiv d.length 64) d

/-- Packets from the fourth of a frame on (R336): a descriptor slot holds one descriptor, and the next packet's where that
follows at once; then the data slots of both. -/
def packSlots : List (List Byte × List Byte) → List Byte
  | [] => []
  | [a] => padTo 64 a.1 ++ padSlots a.2
  | a :: b :: r => a.1 ++ b.1 ++ padSlots a.2 ++ padSlots b.2 ++ packSlots r

/-- Parity of a frame's first 4,224 bytes (R329): symbols 528 to 543 of four codewords. -/
def frameParity (d : List Byte) : List Byte :=
  let word (c : Nat) : List Nat := (List.range 528).map fun s => ofBytes ((d.drop (symbolAt c s)).take 2)
  ((List.range 64).map fun i => toBytes 2 (Config.rsParity (i / 4) (word (i % 4)) % 2 ^ 16)).flatten

/-- A frame (Tables 14-1 and 14-2) with whole packets: their first three descriptors in the control area, slots, header with
its CRC, and parity. A frame of packets that all fit counts no continued slots. -/
def frameBytes (fseq : Nat) (fack : Option Nat) (nak : Bool) (crd : List Nat) (l : List (List Byte × List Byte)) : List Byte :=
  let slots := padTo 4096 (((l.take 3).map fun e => padSlots e.2).flatten ++ packSlots (l.drop 3))
  let head := bitFields [(fseq, 0, 32), (fack.getD 0, 32, 32), (b2n fack.isSome, 64, 1), (b2n nak, 65, 1), (b2n l.isEmpty, 66, 1),
    (crd.getD 0 0, 68, 10), (crd.getD 1 0, 78, 10), (crd.getD 2 0, 88, 10), (crd.getD 3 0, 98, 10), (min l.length 3, 108, 2)]
  let crc := crc32c (slots ++ toBytes 28 head)
  let body := slots ++ toBytes 32 (head + crc * 2 ^ 224) ++ padTo 96 ((l.take 3).map (·.1)).flatten
  body ++ frameParity body

end Sys2Proof.Machine
end

