-- ==== Sys2Proof/Machine/Regs.lean ====
section
/-! DEFINITION. The register map (chapter 18): every register that software can write or clear, its place, width and
access masks; the registers' stored values; writes under R9, R10, R11, R418 and R419. -/
namespace Sys2Proof.Machine

/-- A register of Tables 18-2 and 18-5: offset, instances, stride, width in bits (32 or 64), bits with access RW, bits
with access W1C, reset value. Fields with another access code are computed from the state, not stored. -/
structure RegDesc where
  off : Nat
  count : Nat := 1
  stride : Nat := 8
  wide : Bool := false
  rw : Nat := 0
  w1c : Nat := 0
  reset : Nat := 0
  deriving DecidableEq, Repr

/-! Offsets of the registers that definitions name (Tables 18-2 and 18-5). -/
def rTTH_CTRL : Nat := 0x10000
def rTTH_EVENT : Nat := 0x10008
def rTTH_ROOT_SET : Nat := 0x10010
def rSPL_CTRL : Nat := 0x14000
def rSPL_EVENT : Nat := 0x14010
def rSPL_PEER_SEL : Nat := 0x14028
def rEPT_EVENT : Nat := 0x18020
def rEPT_FUNC_SEL : Nat := 0x18028
def rEPT_VEC_ALLOC : Nat := 0x18038
def rEPT_HDM_MAP : Nat := 0x18080
def rQUE_EVENT : Nat := 0x1C000
def rQUE_CTX_SEL : Nat := 0x1C020
def rTRN_CTRL : Nat := 0x20000
def rTRN_EVENT : Nat := 0x20010
def rTRN_PRI_TIMEOUT : Nat := 0x20018
def rTRN_TLB_SEL : Nat := 0x20028
def rDPA_CTRL : Nat := 0x24000
def rDPA_EVENT : Nat := 0x24008
def rDPA_FLUSH_ADDR : Nat := 0x24018
def rDPA_CLASS : Nat := 0x24100
def rMOV_CLASS : Nat := 0x24800
def rSYN_EVENT : Nat := 0x28000
def rSYN_CHECK : Nat := 0x28008
def rSYN_MGR_VEC : Nat := 0x28010
def rSYN_FENCE_SEL : Nat := 0x28020
def rCOH_CTRL : Nat := 0x2C000
def rCOH_EVENT : Nat := 0x2C008
def rCOH_AGENT_SEL : Nat := 0x2C010
def rCOH_AGENT_CTL : Nat := 0x2C018
def rCOH_RANGE : Nat := 0x2C200
def rRSVR_CTRL : Nat := 0x30000
def rMPT_EVENT : Nat := 0x34000
def rMPT_SEL : Nat := 0x34008
def rMPT_CTRL : Nat := 0x34010
def rMPT_NR_ADDR : Nat := 0x34018
def rMPT_NR_DATA : Nat := 0x34020
def rMPT_NR_CTL : Nat := 0x34028
def rCIS_CTRL : Nat := 0x38000
def rCIS_EVENT : Nat := 0x38010
def rFLK_CTRL : Nat := 0x3C000
def rFLK_EVENT : Nat := 0x3C008
def rFLK_RESTORE : Nat := 0x3C010
def rENV_ACTION : Nat := 0x40000
def rENV_ARG0 : Nat := 0x40010
def rENV_ARG1 : Nat := 0x40018
def rENV_SEL : Nat := 0x40020
def rENV_EVENT : Nat := 0x40040
def rENV_DIRTY_HEAD : Nat := 0x40050
def rKEY_CTRL : Nat := 0x40808
def rWEIR_FORCE_CTL : Nat := 0x44008
def rWEIR_UNIT_CTL : Nat := 0x44010
def rWEIR_SLUICE_CTL : Nat := 0x44020
def rWEIR_EVENT : Nat := 0x44030
def rWEIR_CTRL : Nat := 0x44038
def rWEIR_SCRUB_TICKS : Nat := 0x44050
def rWEIR_SLUICE_TICK : Nat := 0x44058
def rWEIR_STATUS : Nat := 0x44100
def rWEIR_FORCE : Nat := 0x44300
def rOBS_EVENT : Nat := 0x48000
def rOBS_CNT_SEL : Nat := 0x48008
def rOBS_SNAP : Nat := 0x48018
def rOBS_TRACE_CTL : Nat := 0x48028
def rOBS_TRACE_RING : Nat := 0x48030
def rOBS_TRACE_CFG : Nat := 0x48038
def rOBS_TRACE_FILTER : Nat := 0x48040
def rOBS_TRACE_MATCH : Nat := 0x48048
def rOBS_TRACE_HEAD : Nat := 0x48050
def rOBS_TRACE_MARK : Nat := 0x48078
def rOBS_AUDIT_RING : Nat := 0x48080
def rOBS_AUDIT_CFG : Nat := 0x48088
def rOBS_AUDIT_HEAD : Nat := 0x48090
def rOBS_TAG : Nat := 0x48100
def rOBS_TAG_MASK : Nat := 0x48200
def rOBS_TAG_CTL : Nat := 0x48300
def fQUE_ADMIN_RING : Nat := 0x1000
def fQUE_ADMIN_CPL : Nat := 0x1008
def fQUE_ADMIN_CFG : Nat := 0x1010
def fQUE_ADMIN_CTRL : Nat := 0x1018
def fTRN_FAULT : Nat := 0x1400
def fDPA_WIN_BASE : Nat := 0x1800
def fDPA_WIN_CTL : Nat := 0x1808
def fSYN_ARG : Nat := 0x2000
def fSYN_ACTION : Nat := 0x2008
def fSYN_HANDLE : Nat := 0x2010
def fSYN_CTX_SEL : Nat := 0x2028
def fCOH_BIAS_ARG : Nat := 0x2400
def fCOH_BIAS_CTL : Nat := 0x2408
def fENV_EVENT : Nat := 0x2C08
def fSYN_MOD : Nat := 0x4000

/-- All 64 bits. -/
def m64 : Nat := 0xFFFFFFFFFFFFFFFF

/-- Registers of the function page (Table 18-2) that software can write or clear. -/
def fnRegs : List RegDesc :=
  [ { off := fQUE_ADMIN_RING, wide := true, rw := m64 },
    { off := fQUE_ADMIN_CPL, wide := true, rw := m64 },
    { off := fQUE_ADMIN_CFG, rw := 0x07FF001F, reset := 4 },
    { off := fQUE_ADMIN_CTRL, rw := 1 },
    { off := fDPA_WIN_BASE, wide := true, rw := 0x01FFFFFFFFFFFFFF },
    { off := fDPA_WIN_CTL, wide := true, rw := 0xFFFFFFFF00003FFF },
    { off := fSYN_ARG, wide := true, rw := m64 },
    { off := fSYN_ACTION, rw := 0x07FF0007 },
    { off := fSYN_HANDLE, wide := true },
    { off := fSYN_CTX_SEL, rw := 0xFFF },
    { off := fCOH_BIAS_ARG, wide := true, rw := m64 },
    { off := fCOH_BIAS_CTL, wide := true, rw := m64 },
    { off := fENV_EVENT, w1c := 1 },
    { off := fSYN_MOD, count := 2048, rw := 0xFFFFF } ]

/-- Registers of the manager windows (Table 18-5) that software can write or clear. -/
def mgrRegs : List RegDesc :=
  [ { off := rTTH_CTRL },
    { off := rTTH_EVENT, w1c := 0x3F },
    { off := rTTH_ROOT_SET, wide := true, rw := m64 },
    { off := rSPL_CTRL },
    { off := rSPL_EVENT, w1c := 0x7F },
    { off := rSPL_PEER_SEL, rw := 0x1FFF },
    { off := rEPT_EVENT, w1c := 0x7FFFF },
    { off := rEPT_FUNC_SEL, rw := 0x1FF },
    { off := rEPT_VEC_ALLOC },
    { off := rEPT_HDM_MAP, count := 16, wide := true, rw := 0x00001FFF000001FF },
    { off := rQUE_EVENT, w1c := 0x1F },
    { off := rQUE_CTX_SEL, rw := 0xFFF },
    { off := rTRN_CTRL, rw := 0xF01, reset := 0x401 },
    { off := rTRN_EVENT, w1c := 0x3F },
    { off := rTRN_PRI_TIMEOUT, rw := 0xFFFFFFFF, reset := 0x186A0 },
    { off := rTRN_TLB_SEL, rw := 0x3FFF3F },
    { off := rDPA_CTRL, rw := 0x7FF },
    { off := rDPA_EVENT, w1c := 0xFF7 },
    { off := rDPA_FLUSH_ADDR, wide := true, rw := 0xFFFFFFFFFFFFF000 },
    { off := rDPA_CLASS, count := 16, wide := true, rw := 0x7FFFFFFFFFF },
    { off := rMOV_CLASS, rw := 0xFFF, reset := 0xF0F },
    { off := rSYN_EVENT, w1c := 0xF },
    { off := rSYN_CHECK, rw := 1 },
    { off := rSYN_MGR_VEC, wide := true, rw := 0x000007FF07FF07FF },
    { off := rSYN_FENCE_SEL, rw := 0x3FFF },
    { off := rCOH_CTRL, wide := true, rw := 0x0000FFFFFFFFFFFF, reset := 0x006400C81A90 },
    { off := rCOH_EVENT, w1c := 0x1F },
    { off := rCOH_AGENT_SEL, rw := 0x3FF },
    { off := rCOH_AGENT_CTL, wide := true, rw := 0xFFFFFFFF00FFF001 },
    { off := rCOH_RANGE, count := 64, wide := true, rw := 0xFFFFFFFFFFE00001 },
    { off := rRSVR_CTRL, rw := 0xF, reset := 8 } ]

/-- Registers of the manager windows from MPT_ on (Table 18-5). -/
def mgrRegs2 : List RegDesc :=
  [ { off := rMPT_EVENT, w1c := 0x3F },
    { off := rMPT_SEL, rw := 0x7F },
    { off := rMPT_CTRL, rw := 0xFF00, reset := 0x400 },
    { off := rMPT_NR_ADDR, wide := true, rw := 0x1FFFFFFFFFF },
    { off := rMPT_NR_DATA, wide := true, rw := m64 },
    { off := rMPT_NR_CTL, rw := 1 },
    { off := rCIS_CTRL, rw := 0xFFFF, reset := 0xA000 },
    { off := rCIS_EVENT, w1c := 0x3F },
    { off := rFLK_CTRL, wide := true, rw := m64, reset := 0xD693A40041F40014 },
    { off := rFLK_EVENT, w1c := 0x1FF },
    { off := rFLK_RESTORE },
    { off := rENV_ACTION, wide := true, rw := 0xFFFFFFFF0000FF1F },
    { off := rENV_ARG0, wide := true, rw := m64 },
    { off := rENV_ARG1, wide := true, rw := m64 },
    { off := rENV_SEL, rw := 0xFF },
    { off := rENV_EVENT, w1c := 0x3F },
    { off := rENV_DIRTY_HEAD },
    { off := rKEY_CTRL },
    { off := rWEIR_FORCE_CTL, rw := 0x7FFFFFFF },
    { off := rWEIR_UNIT_CTL, rw := 0xFFF },
    { off := rWEIR_SLUICE_CTL },
    { off := rWEIR_EVENT, w1c := 0x7F },
    { off := rWEIR_CTRL, rw := 0xFFFF0007, reset := 0x04000002 },
    { off := rWEIR_SCRUB_TICKS, wide := true, rw := m64, reset := 0x141DD76000 },
    { off := rWEIR_SLUICE_TICK, wide := true, rw := m64 },
    { off := rWEIR_STATUS, count := 12, wide := true, w1c := 0x17FFF },
    { off := rWEIR_FORCE, count := 16, wide := true, rw := m64 },
    { off := rOBS_EVENT, w1c := 0xF },
    { off := rOBS_CNT_SEL, rw := 0x7FFFFF },
    { off := rOBS_SNAP, rw := 1 },
    { off := rOBS_TRACE_CTL, rw := 7 },
    { off := rOBS_TRACE_RING, wide := true, rw := 0xFFFFFFFFFFFFF000 },
    { off := rOBS_TRACE_CFG, rw := 0x7F1F, reset := 0x200A },
    { off := rOBS_TRACE_FILTER, wide := true, rw := m64 },
    { off := rOBS_TRACE_MATCH, rw := 0x3FFFFF, reset := 0x201000 },
    { off := rOBS_TRACE_HEAD, rw := 0xFFFFFFFF },
    { off := rOBS_TRACE_MARK, wide := true },
    { off := rOBS_AUDIT_RING, wide := true, rw := 0xFFFFFFFFFFFFF000 },
    { off := rOBS_AUDIT_CFG, rw := 0x11F, reset := 8 },
    { off := rOBS_AUDIT_HEAD, wide := true, rw := m64 },
    { off := rOBS_TAG, count := 16, wide := true, rw := m64 },
    { off := rOBS_TAG_MASK, count := 16, wide := true, rw := m64 },
    { off := rOBS_TAG_CTL, count := 16, rw := 0x3FF } ]

/-- Key of a function-page register of a function: page offsets lie at 2^20 × function. -/
def fnKey (fn off : Nat) : Nat := fn * 2 ^ 20 + off

/-- The descriptor among a list that covers an offset. -/
def findDesc (l : List RegDesc) (off : Nat) : Option RegDesc :=
  l.find? fun d => decide (d.off ≤ off ∧ off < d.off + d.count * d.stride ∧ (off - d.off) % d.stride = 0)

/-- The descriptor of a register key: a function page below 0x1_0000, the manager windows above it. -/
def regDesc (key : Nat) : Option RegDesc :=
  let off := key % 2 ^ 20
  if off < 0x10000 then findDesc fnRegs off
  else if key < 2 ^ 20 then (findDesc mgrRegs off).or (findDesc mgrRegs2 off)
  else none

/-- The stored value of a register: what was written, or its reset value. -/
def regRaw (key : Nat) (s : State) : W64 :=
  match mget s.reg.val key with
  | some v => v
  | none => match regDesc key with
    | some d => BitVec.ofNat 64 d.reset
    | none => 0

/-- A field of a stored register. -/
def regFld (key lo n : Nat) (s : State) : Nat := fld (regRaw key s) lo n

/-- Set the stored value. -/
def setRaw (key : Nat) (v : W64) (s : State) : State := { s with reg := { s.reg with val := mset s.reg.val key v } }

/-- Selector registers are kept for each host port (R419). -/
def isSel (key : Nat) : Bool :=
  let off := key % 2 ^ 20
  [rSPL_PEER_SEL, rEPT_FUNC_SEL, rQUE_CTX_SEL, rTRN_TLB_SEL, rSYN_FENCE_SEL, rCOH_AGENT_SEL, rMPT_SEL,
    rOBS_CNT_SEL, rENV_SEL, fSYN_CTX_SEL].contains off

/-- The selection a port holds (R419); 0 after reset. -/
def selGet (p key : Nat) (s : State) : W64 := mgetD s.reg.sel (4 * key + p) 0

/-- A 64-bit register takes effect with a value, which a later upper half may need (R11). -/
def regTook (key : Nat) (v : W64) (s : State) : State :=
  if (regDesc key).any (·.wide) then { s with reg := { s.reg with last := mset s.reg.last key v } } else s

/-- The value with which a write takes effect, if it does (R10, R11), and the state with the held half kept. -/
def regTake (p key : Nat) (d : RegDesc) (w : RegW) (s : State) : Option W64 × State :=
  if !d.wide then
    match w with
    | .full v => (some (BitVec.ofNat 64 (v.toNat % 2 ^ 32)), s)
    | .lower v => (some (BitVec.ofNat 64 v.toNat), s)
    | .upper _ => (none, s)
  else
    let hk := 4 * key + p
    match w with
    | .full v => (some v, s)
    | .lower v => (none, { s with reg := { s.reg with half := mset s.reg.half hk v } })
    | .upper u =>
      let lo : Nat := match mget s.reg.half hk with
        | some h => h.toNat
        | none => (mgetD s.reg.last key (BitVec.ofNat 64 d.reset)).toNat % 2 ^ 32
      let v : W64 := BitVec.ofNat 64 (lo + u.toNat * 2 ^ 32)
      (some v, { s with reg := { s.reg with half := mdel s.reg.half hk } })

/-- Store a taken value under the register's access codes (R9): RW bits take it, W1C bits written 1 clear. -/
def regStore (p key : Nat) (d : RegDesc) (v : W64) (s : State) : State :=
  if isSel key then { s with reg := { s.reg with sel := mset s.reg.sel (4 * key + p) (v &&& BitVec.ofNat 64 d.rw) } }
  else
    let rw : W64 := BitVec.ofNat 64 d.rw
    let wc : W64 := BitVec.ofNat 64 d.w1c
    let old := regRaw key s
    setRaw key ((old &&& ~~~rw &&& ~~~(v &&& wc)) ||| (v &&& rw)) s

/-- Hardware sets a W1C bit: the bit reads 1 and its 16-bit event count rises, saturating (R248). -/
def regSetBit (key i : Nat) (s : State) : State :=
  let s := setRaw key (regRaw key s ||| at' 1 i) s
  { s with reg := { s.reg with cnt := mupd s.reg.cnt (64 * key + i) 0 fun c => satAdd 16 c 1 } }

end Sys2Proof.Machine
end

