-- ==== Sys2Proof/Machine/CfgSpace.lean ====
section
/-! DEFINITION. Ports, functions, and the configuration space of a function's instance (R94, R100, R101): the layout of
the PCIe and CXL specifications at the offsets of Table 5-2 (log 20). -/
namespace Sys2Proof.Machine

/-! ### Ports and instances -/

/-- A host port's record. -/
def hport (p : Nat) (s : State) : HostPort := mgetD s.ep.ports p {}

/-- Change a host port. -/
def modPort (p : Nat) (f : HostPort → HostPort) (s : State) : State :=
  { s with ep := { s.ep with ports := mupd s.ep.ports p {} f } }

/-- A function's record; the physical function holds 2,048 vectors (R105). -/
def func (fn : Nat) (s : State) : Func := mgetD s.ep.funcs fn { vectors := if fn = 0 then 2048 else 1 }

/-- Change a function. -/
def modFunc (fn : Nat) (f : Func → Func) (s : State) : State :=
  { s with ep := { s.ep with funcs := mset s.ep.funcs fn (f (func fn s)) } }

/-! ### Configuration space -/

/-- The image whose identity and sizes configuration space shows; recovery posture shows none of it (R87; log 120). -/
def cfgIdentity (s : State) : Image := if s.spl.recovery then {} else s.spl.img

/-- Lanes of a width code of EPT_PORT_STATUSn. -/
def lanesOf (w : Nat) : Nat := if w = 0 then 16 else if w = 1 then 8 else 4

/-- The header of an extended capability: identifier, version, offset of the next one. -/
def extHdr (id ver next : Nat) : Nat := id + 2 ^ 16 * ver + 2 ^ 20 * next

/-- A time of Readiness Time Reporting, in ns: the smallest value and scale of 32^k ns that do not fall short. -/
def rtrTime (ns : Nat) : Nat :=
  match (List.range 6).find? fun k => ceilDiv ns (32 ^ k) ≤ 511 with
  | some k => ceilDiv ns (32 ^ k) + 512 * k
  | none => 0

/-- The protocols that a port's PROTO_EN enables (R96). -/
def protoEn (p : Nat) (s : State) : Nat := ((cfgIdentity s).ports.getD p {}).protoEn

/-- Header double words of an instance (Tables 5-2 and 5-3, R101). -/
def cfgHeader (fn : Nat) (i : Image) : Map Nat :=
  if fn = 0 then [(0, i.vendorId + i.deviceId * 2 ^ 16), (1, 0x00100000), (2, 0x12000041), (4, 0x4), (6, 0xC), (8, 0xC),
    (0xB, i.subsysVendor + i.subsysId * 2 ^ 16), (0xD, 0x40)]
  else [(0, 0xFFFFFFFF), (1, 0x00100000), (2, 0x12000041), (0xB, i.subsysVendor + i.subsysId * 2 ^ 16), (0xD, 0x50)]

/-- Power Management, PCI Express and MSI-X (Tables 5-1 and 5-2, R105, R108): a virtual function presents PCI Express
first and has no D3cold (R101). -/
def cfgCaps (fn p : Nat) (s : State) : Map Nat :=
  let h := hport p s
  let pf := fn = 0
  let width := lanesOf h.width
  [(0x10, if pf then 0xC0035001 else 0x4003B001), (0x11, 0x8),
    (0x14, if pf then 0x0002B010 else 0x00024010), (0x15, 0x10008022), (0x16, 0x2810),
    (0x17, 7 + 2 ^ 4 * 16 + 2 ^ 11 + 2 ^ 22), (0x18, if pf && 2 ≤ h.link then 2 ^ 16 * (h.rate + 1) + 2 ^ 20 * width else 0),
    (0x1D, 0x1F + 0x380 + 2 ^ 31 + (if pf then 2 ^ 11 else 0)), (0x1F, 2 ^ 31 + 0xFE),
    (0x20, 7 + (if pf && h.link = 2 then 2 ^ 26 else 0)),
    (0x2C, 0x11 + ((func fn s).vectors - 1) * 2 ^ 16), (0x2D, 0x00100000), (0x2E, 0x00108000)]

/-- Extended capabilities of the physical function (Table 5-2) up to the SR-IOV capability. -/
def cfgExtPf : Map Nat :=
  [(0x40, extHdr 1 2 0x148), (0x42, 0x00400000), (0x43, 0x00462030), (0x45, 0xE000), (0x52, extHdr 3 1 0x158),
    (0x53, Config.identityDigest % 2 ^ 32), (0x54, Config.identityDigest / 2 ^ 32 % 2 ^ 32), (0x56, extHdr 0xE 1 0x160),
    (0x58, extHdr 0x19 1 0x180), (0x60, extHdr 0x25 1 0x190), (0x61, 0x80000001), (0x64, extHdr 0x26 1 0x1C0),
    (0x70, extHdr 0x2A 1 0x1F0), (0x7C, extHdr 0x31 1 0x210), (0x84, extHdr (Config.phy128Id % 2 ^ 16) 1 0x280),
    (0xA0, extHdr 0x27 1 0x300)]

/-- The SR-IOV capability (R101). -/
def cfgSriov (i : Image) : Map Nat :=
  [(0xC0, extHdr 0x10 1 0x340), (0xC1, 2), (0xC3, i.numVfs + i.numVfs * 2 ^ 16), (0xC5, 0x00010001),
    (0xC6, (i.deviceId + 1) * 2 ^ 16), (0xC7, 0x211), (0xC8, 1), (0xC9, 0x4), (0xCB, 0xC), (0xCD, 0xC)]

/-- ATS and PRI (Table 5-2): Invalidate Queue Depth 0, Page Aligned Request, capacity 1,024. A virtual function's extended
capabilities begin with a link to them. -/
def cfgAtsPri (fn : Nat) : Map Nat :=
  [(0xD0, extHdr 0xF 1 0x348), (0xD1, 0x20), (0xD2, extHdr 0x13 1 (if fn = 0 then 0x358 else 0)), (0xD4, 1024)]
    ++ if fn = 0 then [] else [(0x40, extHdr 0 0 0x340)]

/-- PASID, LTR, Readiness Time Reporting, DOE and IDE of the physical function (Tables 5-1 and 5-2, R116). -/
def cfgRest (cxl : Bool) : Map Nat :=
  [(0xD6, extHdr 0x1B 1 0x360), (0xD7, 0x1400), (0xD8, extHdr 0x18 1 0x368), (0xDA, extHdr 0x22 1 0x380),
    (0xDB, rtrTime 495000000 + 2 ^ 12 * rtrTime 50000000 + 2 ^ 31), (0xDC, rtrTime 2000000),
    (0xE0, extHdr 0x2E 1 0x3A0), (0xE8, extHdr 0x30 1 (if cxl then 0x400 else 0)), (0xE9, 0x43 + 2 ^ 16 * 7)]

/-- The header of a CXL DVSEC: identifier and length. -/
def dvsec (dw id len next : Nat) : Map Nat :=
  [(dw, extHdr 0x23 1 next), (dw + 1, 0x1E98 + 2 ^ 20 * len), (dw + 2, id)]

/-- CXL Device, Flex Bus Port, Register Locator and GPF for Device (Table 5-2, R96): a Type 2 device with the protocols that
PROTO_EN enables. -/
def cfgCxl (proto : Nat) : Map Nat :=
  let caps := 2 + proto / 2 % 2 + 4 * (proto / 4 % 2)
  dvsec 0x100 0 0x3C 0x440 ++ [(0x102, 2 ^ 16 * caps)]
    ++ dvsec 0x110 7 0x20 0x460 ++ [(0x112, 7 + 2 ^ 16 * caps)]
    ++ dvsec 0x118 8 0x14 0x480 ++ [(0x11A, 8)] ++ dvsec 0x120 5 0x10 0 ++ [(0x122, 5)]

/-- Every double word of an instance's configuration space that does not read 0 at reset. -/
def cfgSpace (fn p : Nat) (s : State) : Map Nat :=
  let i := cfgIdentity s
  let cxl := protoEn p s
  cfgHeader fn i ++ cfgCaps fn p s ++ cfgAtsPri fn
    ++ if fn = 0 then cfgExtPf ++ cfgSriov i ++ cfgRest (cxl ≠ 0) ++ (if cxl ≠ 0 then cfgCxl cxl else []) else []

/-- A configuration double word at reset. -/
def cfgReset (fn p dw : Nat) (s : State) : W32 := BitVec.ofNat 32 (((cfgSpace fn p s).find? fun e => e.1 == dw).elim 0 (·.2))

/-- Configuration bits that a host writes in the instances of every function (R100, R101; log 20). -/
def cfgMaskAll : Map Nat :=
  [(1, 0x0546), (3, 0xFF), (0xF, 0xFF), (0x11, 0x103), (0x16, 0x7FFF), (0x18, 0xFFF), (0x1E, 0xFFFF), (0x20, 0xFFFF),
    (0x2C, 0xC0000000), (0xD1, 0x801F0000), (0xD3, 0x1), (0xD5, 0xFFFFFFFF)]

/-- Those of the physical function beside them: BARs, AER, SR-IOV, PASID, LTR, lane margining, IDE. -/
def cfgMaskPf : Map Nat :=
  [(4, 0xFF000000), (5, 0xFFFFFFFF), (6, 0xE0000000), (7, 0xFFFFFFFF), (9, 0xFFFFFFF0), (0x42, 0xFFFFFFFF),
    (0x43, 0xFFFFFFFF), (0x45, 0xFFFFFFFF), (0xC2, 0x19), (0xC4, 0xFFFF), (0xC8, 0x211), (0xC9, 0xFFE00000),
    (0xCA, 0xFFFFFFFF), (0xCB, 0xFC000000), (0xCC, 0xFFFFFFFF), (0xCD, 0xFFC00000), (0xCE, 0xFFFFFFFF), (0xD7, 0x00010000),
    (0xD9, 0x1FFF1FFF)]

/-- Configuration bits that a host writes; the rest of a double word reads as at reset. -/
def cfgMask (fn dw : Nat) : W32 :=
  let m := if fn = 0 then cfgMaskAll ++ cfgMaskPf else cfgMaskAll
  BitVec.ofNat 32 ((m.find? fun e => e.1 == dw).elim 0 (·.2))

end Sys2Proof.Machine
end

