-- ==== Sys2Proof/Machine/Traffic.lean ====
section
/-! DEFINITION. Function instances and host-bound traffic: usability (R98), the primary instance (R107), posted
writes with the replay buffer (R207), uncharged traffic (R195), MSI-X messages and moderation (R106, R250). -/
namespace Sys2Proof.Machine

/-- A configuration double word of the record of a function at a port. -/
def cfgDw (fn p dw : Nat) (s : State) : W32 :=
  match mget s.ep.insts (4 * fn + p) with
  | some i => ((mget i.cfg dw).getD (cfgReset fn p dw s) &&& cfgMask fn dw) ||| (cfgReset fn p dw s &&& ~~~cfgMask fn dw)
  | none => 0

/-- Bit i of a configuration double word. -/
def cfgBit (fn p dw i : Nat) (s : State) : Bool := (cfgDw fn p dw s).toNat / 2 ^ i % 2 == 1

/-- The function has a record at the port: it exists there (R98, R114). -/
def instAt (fn p : Nat) (s : State) : Bool := (mget s.ep.insts (4 * fn + p)).isSome

/-- Power state D0 (R108): PMCSR bits [1:0] are 0 and the port is not in D3cold. -/
def instD0 (fn p : Nat) (s : State) : Bool :=
  (cfgDw fn p 0x11 s).toNat % 4 == 0 && !(mgetD s.ep.insts (4 * fn + p) {}).cold

/-- Memory Space Enable: the command register of the physical function, VF MSE for a virtual function (log 20). -/
def instMse (fn p : Nat) (s : State) : Bool := if fn = 0 then cfgBit 0 p 1 1 s else cfgBit 0 p 0xC2 3 s

/-- Bus Master Enable. -/
def instBme (fn p : Nat) (s : State) : Bool := cfgBit fn p 1 2 s

/-- MSI-X Enable and Function Mask. -/
def instMsixEn (fn p : Nat) (s : State) : Bool := cfgBit fn p 0x2C 31 s
def instMsixMask (fn p : Nat) (s : State) : Bool := cfgBit fn p 0x2C 30 s

/-- ATS Enable, PRI Enable and PASID Enable. -/
def instAts (fn p : Nat) (s : State) : Bool := cfgBit fn p 0xD1 31 s
def instPri (fn p : Nat) (s : State) : Bool := cfgBit fn p 0xD3 0 s

/-- The link of a port carries traffic. -/
def linkUp (p : Nat) (s : State) : Bool := (hport p s).link == 2 && (hport p s).lstate != .l2

/-- A port's link carries configuration and memory requests: in service, or diagnostic (R95). -/
def ioLink (p : Nat) (s : State) : Bool := ((hport p s).link == 2 || (hport p s).link == 3) && (hport p s).lstate != .l2

/-- A function has its instance on a port of the host group it is bound to (R98, R102). -/
def boundAt (fn p : Nat) (s : State) : Bool :=
  fn == 0 || (match (func fn s).env with
    | some e => (match mget s.env.envs e with
      | some v => v.hostId == (hport p s).hostId
      | none => false)
    | none => false)

/-- The image's configuration of a port. -/
def portCfg (p : Nat) (s : State) : HostPortCfg := s.spl.img.ports.getD p {}

/-- A port carries CXL.cache, and CXL.mem (R96): the protocol was negotiated, and no violation has taken it out of use
(R274). -/
def cxlCacheOn (p : Nat) (s : State) : Bool := linkUp p s && (hport p s).cxl / 2 % 2 == 1 && !s.coh.cxlOff.contains p
def cxlMemOn (p : Nat) (s : State) : Bool := linkUp p s && (hport p s).cxl / 4 % 2 == 1 && !s.coh.cxlOff.contains p

/-- An IDE stream stands at a port (R116). -/
def ideUp (p : Nat) (s : State) : Bool := !(hport p s).ideRun.isEmpty

/-- Requests may pass at a port: where IDE is required, only inside a stream (R117). -/
def ideOk (p : Nat) (s : State) : Bool := !(portCfg p s).ideRequired || ideUp p s

/-- An instance is usable (R98; R118 makes the instances of an insecure port unusable, R117 those of a port without the
stream that it requires). -/
def usable (fn p : Nat) (s : State) : Bool :=
  linkUp p s && instAt fn p s && boundAt fn p s && instD0 fn p s && instBme fn p s && instMse fn p s && (hport p s).ideSecure
    && ideOk p s

/-- Ports on which a function is usable and that are UP: a SUSPECT port issues nothing (R208; log 22). -/
def usablePorts (fn : Nat) (s : State) : List Nat :=
  (List.range 4).filter fun p => usable fn p s && (hport p s).st == .up

/-- The primary instance of a function (R107). -/
def primary (fn : Nat) (s : State) : Option Nat :=
  match (usablePorts fn s).find? fun p => instMsixEn fn p s with
  | some p => some p
  | none => (usablePorts fn s).head?

/-- Ports that share a host group (R98): equal HOST_ID, each its own group in recovery posture (R99). -/
def sameGroup (p q : Nat) (s : State) : Bool :=
  p == q || (!s.spl.recovery && (hport p s).hostId == (hport q s).hostId)

/-- The manager group as it stands (R99). -/
def mgrPort (p : Nat) (s : State) : Bool := s.ep.mgr.contains p

/-- Ports of a function's host group (R98, R179). -/
def fnGroup (fn : Nat) (s : State) : List Nat :=
  if fn = 0 then s.ep.mgr
  else (List.range 4).filter fun p => boundAt fn p s && s.spl.img.hpEn / 2 ^ p % 2 == 1

/-- A context that leaves ACTIVE, or whose generation changes, disables its function's host window (R183). -/
def windowOff (fn c : Nat) (s : State) : State :=
  let f := func fn s
  if f.winActive && f.winCtx = c then modFunc fn (fun f => { f with winActive := false }) s else s

/-! ### Counters -/

/-- Key of a counter of Table 17-1. -/
def cntKey (group event inst : Nat) : Nat := (group * 64 + event) * 4096 + inst

/-- Add to a counter, modulo 2^64 (R401). -/
def count (group event inst n : Nat) (s : State) : State :=
  { s with obs := { s.obs with cnt := mupd s.obs.cnt (cntKey group event inst) 0 fun c => (c + n) % 2 ^ 64 } }

/-- Add to a function counter (Table 17-2) and to its envelope's (group 1). -/
def countFn (fn event n : Nat) (s : State) : State :=
  let s := count 0 event fn n s
  match (func fn s).env with
  | some e => count 1 event e n s
  | none => s

/-! ### Issue on a port -/

/-- Bytes held in a port's replay buffer. -/
def replayBytes (p : Nat) (s : State) : Nat := ((hport p s).replay.map (·.bytes)).foldl (· + ·) 0

/-- Credit units of 64 bytes (R195). -/
def units (bytes : Nat) : Nat := max 1 (ceilDiv bytes 64)

/-- Does a message go into the replay buffer (R207)? -/
def isPosted : HostMsg → Bool
  | .write .. => true
  | .writeEp .. => true
  | .msix .. => true
  | _ => false

/-- Leave L1 when traffic is queued (R110), and restart the idle count. -/
def exitL1 (p : Nat) (s : State) : State :=
  let s := if (hport p s).lstate == .l1
    then emit (.host p .exitL1) (modPort p (fun h => { h with lstate := .l0 }) s) else s
  modPort p (fun h => { h with idle := 0 }) s

/-- Send a completion or a message of a port itself; it ends L1 like any other traffic (R110). -/
def tell (p : Nat) (m : HostMsg) (s : State) : State := emit (.host p m) (exitL1 p s)

/-- Issue a message on a port now, in the port's transmit order; a posted message enters the replay buffer and a
context's mark for system-scope releases is set (R203, R207). -/
def issueNow (p : Nat) (e : UqEntry) (s : State) : State :=
  let s := exitL1 p s
  let n := (hport p s).seq
  let s := modPort p (fun h => { h with
    seq := n + 1
    sent := h.sent + e.units
    replay := if isPosted e.msg then h.replay ++ [⟨n, e.fn, e.ctx, e.msg, e.units * 64, e.announces⟩] else h.replay }) s
  let s := count 7 0 p (e.units * 64) s
  let dest : Option Nat := match e.msg with
    | .write _ _ a _ => some a
    | .writeEp _ _ a _ => some a
    | _ => none
  let s := match e.ctx, dest with
    | some c, some a => { s with que := { s.que with ctxs := mmod s.que.ctxs c fun x =>
        { x with wrote := mset x.wrote p (n + 1), lastAddr := mset x.lastAddr p a } } }
    | _, _ => s
  let s := match e.msg with
    | .write fn _ _ d => countFn fn 3 d.length s
    | .writeEp fn _ _ d => countFn fn 3 d.length s
    | .msix fn _ _ _ => countFn fn 13 1 s
    | _ => s
  emit (.host p e.msg) s

/-- Replayed entries wait for room on a port: what is no flush waits behind them (R208). -/
def replayWaits (p : Nat) (s : State) : Bool := s.ep.replays.any fun r => r.port == p && !r.entries.isEmpty

/-- May a message of uncharged traffic go now: the port is UP, nothing of its rank or before waits, the allowance of
160 units holds it (R195) and the replay buffer has room (R207)? A held chip issues flushes only (R397). -/
def uncharged? (p : Nat) (e : UqEntry) (s : State) : Bool :=
  let h := hport p s
  h.st == .up && ideOk p s && (e.rank == 0 || !(frozen s || replayWaits p s)) && (h.uq.filter fun x => x.rank ≤ e.rank).isEmpty
    && h.allowance + e.units ≤ 160 && (!isPosted e.msg || replayBytes p s + e.units * 64 ≤ 2 ^ 20)

/-- Key of a vector of a function. -/
def vecKey (fn vec : Nat) : Nat := fn * 2048 + vec

/-- The message of a vector waits for an unmask (R106). -/
def pendMsix (fn vec : Nat) (s : State) : State :=
  { s with ep := { s.ep with msixPending := insNat (vecKey fn vec) s.ep.msixPending } }

/-- Issue a message of uncharged traffic; a flush covers what the port has issued when it leaves. An MSI-X message takes
address and data now, and becomes pending where its vector or function is masked, or the instance is without MSI-X
Enable (R106, R107). -/
def issueU (p : Nat) (e : UqEntry) (s : State) : State :=
  let go (e : UqEntry) : State := issueNow p e (modPort p (fun h => { h with allowance := h.allowance + e.units }) s)
  match e.msg with
  | .msix fn vec _ _ =>
    let t := mgetD s.ep.msix (vecKey fn vec) {}
    if t.masked || instMsixMask fn p s || !instMsixEn fn p s then pendMsix fn vec s
    else go { e with msg := .msix fn vec t.addr t.data }
  | .flush _ tag _ =>
    let now (h : HostPort) (n : NpReq) : NpReq := if n.tag = tag then { n with purpose := .flush h.seq } else n
    issueNow p e (modPort p (fun h => { h with allowance := h.allowance + e.units, nps := h.nps.map (now h) }) s)
  | _ => go e

/-- Insert by rank, behind entries of the same rank. -/
def uqInsert (e : UqEntry) : List UqEntry → List UqEntry
  | [] => [e]
  | x :: r => if e.rank < x.rank then e :: x :: r else x :: uqInsert e r

/-- Send a message of uncharged traffic on a port, or let it wait (R195). The sequence number is that of the next
message of the port, which covers it once issued. -/
def sendU (p : Nat) (e : UqEntry) (s : State) : State :=
  if uncharged? p e s then issueU p e s
  else modPort p (fun h => { h with uq := uqInsert e h.uq }) s

/-- Send what now fits of a port's waiting uncharged traffic. -/
def drainU (p : Nat) : Nat → State → State
  | 0, s => s
  | n + 1, s =>
    match (hport p s).uq with
    | [] => s
    | e :: r =>
      let s' := modPort p (fun h => { h with uq := r }) s
      if uncharged? p e s' then
        drainU p n (issueU p e s')
      else s

/-! ### Wake events -/

/-- A wake event of a function (R109): PME from each instance in D3hot with PME_En, WAKE# where the physical function
is in D3cold with PME_En. `EPT_EVENT.PME_SENT` is set where one was raised. -/
def wake (fn : Nat) (s : State) : State :=
  let hot := (List.range 4).filter fun p =>
    instAt fn p s && (cfgDw fn p 0x11 s).toNat % 4 == 3 && cfgBit fn p 0x11 8 s
      && !(mgetD s.ep.insts (4 * fn + p) {}).cold
  let cold := (List.range 4).filter fun p =>
    (mgetD s.ep.insts p {}).cold && cfgBit 0 p 0x11 8 s
  let s := each hot (fun p s =>
    let s := { s with ep := { s.ep with
      insts := mmod s.ep.insts (4 * fn + p) fun i => { i with pmeStatus := true }
      pmeOut := insNat (4 * fn + p) s.ep.pmeOut } }
    tell p (.pme fn) s) s
  let s := each cold (fun p s => modPort p (fun h => if h.wakeLow then h else { h with wakeLow := true, wakeHold := 100 }) s) s
  if hot.isEmpty && cold.isEmpty then s else regSetBit rEPT_EVENT 17 s

/-- Host-bound traffic of a function parks because no instance is usable: a wake event, once until an instance is usable
again (R98, R109). -/
def parkWake (fn : Nat) (s : State) : State :=
  if !(usablePorts fn s).isEmpty || (func fn s).waking then s
  else wake fn (modFunc fn (fun f => { f with waking := true }) s)

/-- Send host-bound traffic of a function through its primary instance; without a usable instance it parks, which is a
wake event (R98, R109). The port and the sequence number that covers it are returned. -/
def viaPrimary (e : UqEntry) (s : State) : Option (Nat × Nat) × State :=
  match primary e.fn s with
  | some p =>
    let s := sendU p e s
    (some (p, (hport p s).seq + (hport p s).uq.length), s)
  | none => (none, parkWake e.fn { s with ep := { s.ep with parked := s.ep.parked ++ [e] } })

/-! ### Non-posted requests and flushes (R94, R202, R203, R207) -/

/-- Tags in use on a port: non-posted requests and translation requests. -/
def npTags (p : Nat) (s : State) : List Nat :=
  (hport p s).nps.map (·.tag) ++ (s.tr.ats.filter fun a => a.port == p).map (·.tag)

/-- A port takes n further non-posted requests: at most 8,192 are outstanding (Table 5-1). -/
def npRoom (p n : Nat) (s : State) : Bool := (npTags p s).length + n ≤ 8192

/-- The lowest tag that a port does not use. -/
def npTag (p : Nat) (s : State) : Nat := (freeTag 16384 (npTags p s)).getD 0

/-- Record an outstanding non-posted request and issue its message. -/
def npIssue (p : Nat) (n : NpReq) (m : HostMsg) (rank : Option Nat) (units_ : Nat) (s : State) : State :=
  let s := modPort p (fun h => { h with nps := h.nps ++ [n] }) s
  match rank with
  | some r => sendU p ⟨r, n.fn, n.ctx, m, units_, none⟩ s
  | none => issueNow p ⟨0, n.fn, n.ctx, m, units_, none⟩ s

/-- A flush on a port covering everything issued there so far, under a function's instance where it is usable, else
under the physical function's to DPA_FLUSH_ADDR; when neither is usable it waits for the next edge (R202). -/
def flushPort (p fn addr : Nat) (s : State) : State :=
  let h := hport p s
  if h.st != .up || !npRoom p 1 s then s
  else
    let (f, a) := if usable fn p s then (fn, addr) else (0, (regRaw rDPA_FLUSH_ADDR s).toNat)
    if !usable f p s then s
    else
      let t := npTag p s
      let s := count 7 2 p 1 s
      npIssue p ⟨t, f, (func f s).gen, none, 0, none, a, 0, .flush h.seq, false⟩ (.flush f t a) (some 0) 1 s

/-- A flush in flight covers a sequence number (R203). -/
def flushCovers (p seq : Nat) (s : State) : Bool :=
  (hport p s).nps.any fun n => match n.purpose with
    | .flush u => seq ≤ u
    | _ => false

/-- Address of the latest posted write of a function that a port's replay buffer holds. -/
def lastWrite (p fn : Nat) (s : State) : Option Nat :=
  ((hport p s).replay.filterMap fun e => if e.fn == fn then (match e.msg with
    | .write _ _ a _ => some a
    | .writeEp _ _ a _ => some a
    | _ => none) else none).getLast?

/-- A flush for the work of a function on a port: to the latest write it issued there, else to DPA_FLUSH_ADDR under
the physical function's instance (R202). -/
def flushWork (p fn : Nat) (s : State) : State :=
  match lastWrite p fn s with
  | some a => flushPort p fn a s
  | none => flushPort p 0 (regRaw rDPA_FLUSH_ADDR s).toNat s

/-- A flush behind a sequence number of a port, for the work of a function, unless one in flight or completed covers it. -/
def flushTo (p fn seq : Nat) (s : State) : State :=
  if seq ≤ (hport p s).covered || flushCovers p seq s then s else flushWork p fn s

/-- Every flush a publication waits for has completed. -/
def needMet (need : List (Nat × Nat)) (s : State) : Bool := need.all fun n => n.2 ≤ (hport n.1 s).covered

/-- Await flushes, then act. -/
def publish (need : List (Nat × Nat)) (a : PubAct) (s : State) : State :=
  { s with ep := { s.ep with pubs := s.ep.pubs ++ [⟨need, a⟩] } }

/-- Number that stands, where a port stands, for "covered by the flush behind the replay of a function from a lost
port". No port has it, so nothing is covered there. -/
def lostKey (p fn : Nat) : Nat := 16 + 4 * fn + p

/-! ### MSI-X (R106, R249, R250) -/

/-- What must be covered before the message of a vector leaves through a port: the records and fence values it announces that
other ports have carried, or that wait there or in a replay to another port (R204). -/
def msixNeed (fn vec p : Nat) (s : State) : List (Nat × Nat) :=
  let mine (a : Option Nat) : Bool := a == some (vecKey fn vec)
  let ports := ((List.range 4).filter (· != p)).filterMap fun q =>
    let h := hport q s
    if h.uq.any fun e => mine e.announces then some (q, h.seq + h.uq.length)
    else ((h.replay.filter fun e => mine e.announces && h.covered ≤ e.seq).getLast?).map fun e =>
      (if h.st == .up then q else lostKey q fn, e.seq + 1)
  ports ++ (s.ep.replays.filter fun r => r.fn == fn && r.port != p && r.entries.any fun e => mine e.announces).map fun r =>
    (lostKey r.lost fn, 1)

/-- The message of a vector waits for flushes behind what it announces. -/
def msixWaits (fn vec : Nat) (s : State) : Bool := s.ep.pubs.any fun u => u.act == .fire fn vec

/-- Send the message of a vector through a port, once what it announces on other ports is covered (R204). -/
def msixVia (fn vec p : Nat) (s : State) : State :=
  let s := { s with ep := { s.ep with msixPending := s.ep.msixPending.filter (· != vecKey fn vec) } }
  let need := msixNeed fn vec p s
  if msixWaits fn vec s then s
  else if need.isEmpty then sendU p ⟨2, fn, none, .msix fn vec 0 0, 1, none⟩ s
  else publish need (.fire fn vec) (each need (fun n s => if n.1 < 4 then flushTo n.1 fn n.2 s else s) s)

/-- Send the message of a vector, or set its pending bit while it, its function or every usable instance is masked
or without MSI-X Enable (R106, R107). -/
def sendMsix (fn vec : Nat) (s : State) : State :=
  match (usablePorts fn s).find? fun p => instMsixEn fn p s with
  | some p =>
    if (mgetD s.ep.msix (vecKey fn vec) {}).masked || instMsixMask fn p s then pendMsix fn vec s else msixVia fn vec p s
  | none =>
    parkWake fn (pendMsix fn vec s)

/-- What waited on a port goes another way: a message through the instance that now carries the function's messages, other
traffic through the primary instance (R98, R107). -/
def resendU (e : UqEntry) (s : State) : State :=
  match e.msg with
  | .msix fn vec _ _ => sendMsix fn vec s
  | _ => (viaPrimary e s).2

/-- Fire a vector (R249): firings accumulate and are released at COUNT, where a COUNT of 0 counts as 1 (R250). -/
def fire (fn vec : Nat) (s : State) : State :=
  if (func fn s).vectors ≤ vec then s
  else
    let m := mgetD s.ep.mods (vecKey fn vec) {}
    let lim := max 1 (regFld (fnKey fn (fSYN_MOD + 8 * vec)) 0 8 s)
    if lim ≤ m.firings + 1 then
      sendMsix fn vec { s with ep := { s.ep with mods := mdel s.ep.mods (vecKey fn vec) } }
    else
      let m' : ModAcc := { firings := m.firings + 1, ticks := if m.firings = 0 then 0 else m.ticks }
      { s with ep := { s.ep with mods := mset s.ep.mods (vecKey fn vec) m' } }

/-- Event registers whose bits fire SYN_MGR_VEC.EVENT (Table 10-7; OBS_EVENT: section of Table 17-11). -/
def firesEvent (key : Nat) : Bool :=
  [rQUE_EVENT, rEPT_EVENT, rSPL_EVENT, rTRN_EVENT, rSYN_EVENT, rOBS_EVENT].contains key

/-- Hardware sets a W1C event bit: bit, count, and the manager's vector where Table 10-7 gives one. WEIR_EVENT fires
SYN_MGR_VEC.WEIR, at most once per tick (section of Table 16-16). -/
def setEvent (key i : Nat) (s : State) : State :=
  let s := regSetBit key i s
  if firesEvent key then fire 0 (regFld rSYN_MGR_VEC 32 11 s) s
  else if key = rWEIR_EVENT then
    if s.weir.irqThisTick then s
    else fire 0 (regFld rSYN_MGR_VEC 16 11 s) { s with weir := { s.weir with irqThisTick := true } }
  else s

/-- Raise an error input, to be latched at the next edge (R378, R381); recovery posture raises none (R87). -/
def raise (src : Nat) (c : Cause) (ctx env : Option Nat) (detail : Nat) (s : State) : State :=
  if s.spl.recovery then s
  else { s with weir := { s.weir with raised := s.weir.raised ++ [⟨src, c, ctx, env, detail⟩] } }

end Sys2Proof.Machine
end

