-- ==== Sys2Proof/Machine/Audit.lean ====
section
/-! DEFINITION. The audit log (R411 to R416) and the trace (R406 to R409). -/
namespace Sys2Proof.Machine

/-! ### Audit records -/

/-- TYPE code of Table 17-7. -/
def auditCode : AuditType → Nat
  | .genesis => 0 | .envAction => 1 | .envDone => 2 | .policyRefused => 3 | .keyEvent => 4 | .reset => 5
  | .spool => 6 | .tetherStep => 7 | .sluice => 8 | .tapRefused => 9 | .templateSkipped => 10 | .peer => 11
  | .managerConfig => 12 | .fabricSessions => 13 | .identity => 14 | .writeDiscarded => 15

/-- Key numbers for `Config.sign`: the device identity key and the audit key of the start (R412). -/
def identityKey : Nat := 0
def auditKey : Nat := 1

/-- Bytes 0x00 to 0x9F of a record (Table 17-6): the payload words in the order of Table 17-7, zero-filled. -/
def auditBody (r : AuditRec) (prev : List Byte) : List Byte :=
  let flags := b2n r.classC + 2 * b2n r.refused + 4 * b2n r.coalesced + 8 * b2n r.unlocked
  toBytes 8 r.seq ++ toBytes 8 r.tether.toNat ++ toBytes 2 (auditCode r.type) ++ toBytes 2 flags
    ++ toBytes 2 r.chip ++ toBytes 2 (r.actor * 4096 + r.fn) ++ toBytes 2 r.env ++ toBytes 2 r.repeats
    ++ toBytes 4 0 ++ toBytes 48 (if r.seq = 0 then 0 else Config.sha384 prev)
    ++ ((r.payload.map fun w => toBytes 8 w.toNat).flatten ++ List.replicate 80 (0 : Byte)).take 80

/-- The whole signed record: GENESIS under the device identity key, every other under the audit key (R412). -/
def auditSigned (r : AuditRec) (prev : List Byte) : List Byte :=
  let b := auditBody r prev
  b ++ toBytes 96 (Config.sign (if r.seq = 0 then identityKey else auditKey) (Config.sha384 b))

/-- Entries of the holding buffer in use by class C and class O. -/
def heldC (s : State) : Nat := (s.obs.holding.filter (·.classC)).length
def heldO (s : State) : Nat := (s.obs.holding.filter (!·.classC)).length

/-- An entry open to class C is free (R413): class O takes the 256 reserved entries first (log 11). -/
def freeC (s : State) : Bool := heldC s + (heldO s - 256) < 3840

/-- An entry open to class O is free (R413). -/
def freeO (s : State) : Bool := s.obs.holding.length < 4096

/-- Assemble, sign and hold a record (R411). -/
def auditPut (c : Bool) (t : AuditType) (actor fn env : Nat) (refused coal : Bool) (rep : Nat) (at_ : W64)
    (payload : List W64) (s : State) : State :=
  let r : AuditRec := {
    seq := s.obs.auditSeq, tether := at_, type := t, classC := c, refused := refused,
    coalesced := coal, unlocked := s.time.st != .locked, chip := if s.spl.ended.contains 4 then s.spl.chip else 0xFFFF,
    actor := actor, fn := fn, env := env,
    repeats := rep, payload := payload, bytes := [] }
  let b := auditSigned r s.obs.auditLast
  { s with obs := { s.obs with
      auditSeq := s.obs.auditSeq + 1, auditLast := b, holding := s.obs.holding ++ [{ r with bytes := b }] } }

/-- ENV field for "none". -/
def noEnv : Nat := 0xFFFF

/-- A class O event (R416): recorded, or coalesced with the newest record held at its source, or held there. -/
def auditO (t : AuditType) (actor fn env : Nat) (refused : Bool) (payload : List W64) (s : State) : State :=
  if !s.obs.auditOn then s
  else if freeO s && s.obs.heldSrc.isEmpty then auditPut false t actor fn env refused false 1 s.time.now payload s
  else
    let same (h : HeldAudit) : Bool := h.type == t && h.actor == actor && h.fn == fn && h.env == env
    let s := setEvent rOBS_EVENT 2 { s with obs := { s.obs with coalesced := satAdd 32 s.obs.coalesced 1 } }
    if s.obs.heldSrc.any same then
      let bump (h : HeldAudit) : HeldAudit := if same h then { h with repeats := satAdd 16 h.repeats 1 } else h
      { s with obs := { s.obs with heldSrc := s.obs.heldSrc.map bump } }
    else
      { s with obs := { s.obs with heldSrc := s.obs.heldSrc ++ [⟨t, actor, fn, env, payload, s.time.now, 1⟩] } }

/-- Records held at their sources enter the buffer as entries free (R416). -/
def auditUnhold : Nat → State → State
  | 0, s => s
  | n + 1, s =>
    match s.obs.heldSrc with
    | [] => s
    | h :: r =>
      if freeO s then
        auditUnhold n (auditPut false h.type h.actor h.fn h.env (h.type == .policyRefused) true h.repeats h.tether h.payload
          { s with obs := { s.obs with heldSrc := r } })
      else s

/-- The signed record that stands before the effect of a class C operation (R414); actor 1 is the manager. -/
def signC (t : AuditType) (env : Nat) (payload : List W64) (s : State) : State :=
  if s.obs.auditOn then auditPut true t 1 0 env false false 1 s.time.now payload s else s

/-- A class C operation may be signed now. -/
def mayClassC (s : State) : Bool := !s.obs.auditOn || (freeC s && s.stalled.isEmpty)

/-- The stall rule (R414): the operation, which signs its record first, takes effect now or waits behind those that
stalled before it. -/
def classC (cmd : Instr) (go : State → State) (s : State) : State :=
  if mayClassC s then go s
  else
    let s := whenS s.stalled.isEmpty (setEvent rOBS_EVENT 1) s
    { s with stalled := s.stalled ++ [cmd] }

/-- A register write of TYPE 0x000C: at most 64 are held, chip-wide; a further one is discarded and recorded (R414,
R415). `isWrite` tells held register writes among the stalled commands. -/
def classCWrite (isWrite : Instr → Bool) (key : Nat) (v : W64) (cmd : Instr) (go : State → State) (s : State) : State :=
  if !mayClassC s && 64 ≤ (s.stalled.filter isWrite).length then
    auditO .writeDiscarded 1 0 noEnv false [BitVec.ofNat 64 key, v] s
  else classC cmd go s

/-- The record of a register write of TYPE 0x000C. -/
def signWrite (key : Nat) (v : W64) (s : State) : State :=
  signC .managerConfig noEnv [BitVec.ofNat 64 key, regRaw key s, v] s

/-- Move records into the audit ring in SEQ order, up to 32 per tick, never at or beyond HEAD + 2^K (R413). -/
def auditMove : Nat → State → State
  | 0, s => s
  | n + 1, s =>
    let k := regFld rOBS_AUDIT_CFG 0 5 s
    if regFld rOBS_AUDIT_CFG 8 1 s = 1 && k ≤ 20 && 8 ≤ k && (primary 0 s).isSome
        && s.obs.auditSent < (regRaw rOBS_AUDIT_HEAD s).toNat + 2 ^ k then
      match s.obs.holding.find? fun r => r.seq == s.obs.auditSent with
      | some r =>
        let a := (regRaw rOBS_AUDIT_RING s).toNat + 256 * (r.seq % 2 ^ k)
        let (w, s) := viaPrimary ⟨5, 0, none, .write 0 none a r.bytes, 4, none⟩ s
        let s := { s with obs := { s.obs with auditSent := s.obs.auditSent + 1, auditUsed := true } }
        let s := match w with
          | some pn => { s with ep := { s.ep with pubs := s.ep.pubs ++ [⟨[pn], .auditTail (r.seq + 1)⟩] } }
          | none => s
        auditMove n s
      | none => s
    else s

/-- TAIL passes records once a flush has covered them, and their entries free (R413). -/
def auditTailTo (n : Nat) (s : State) : State :=
  { s with obs := { s.obs with
      auditTail := max s.obs.auditTail n
      holding := s.obs.holding.filter fun r => max s.obs.auditTail n ≤ r.seq } }

/-! ### Trace -/

/-- The trace destination in force: a change of DEST takes effect at the next edge. -/
def traceFrozen (s : State) : Bool := regFld rOBS_TRACE_CTL 2 1 s == 1

/-- Encode a trace record (Table 17-3). -/
def traceBytes (r : TraceRec) : List Byte :=
  toBytes 8 r.tether.toNat ++ toBytes 4 r.layer ++ toBytes 4 r.oper
    ++ toBytes 8 (r.type + 256 * r.cls + 2 ^ 12 * r.ctx + 2 ^ 24 * r.env + 2 ^ 32 * r.unit) ++ toBytes 8 r.arg.toNat

/-- The loss record that closes a gap (Table 17-5), in the fields of a record: layer and operator hold FIRST, the
CLASS, CTX, ENV and UNIT positions hold CAUSE and LOST. -/
def lossBytes (g : TraceGap) (now : W64) : List Byte :=
  toBytes 8 now.toNat ++ toBytes 8 g.first.toNat ++ toBytes 1 0xFF ++ toBytes 1 g.cause ++ toBytes 6 g.lost
    ++ toBytes 8 g.last.toNat

/-- May a record be written now (R407): none, or the drop cause of Table 17-5. -/
def traceBlocked (s : State) : Option Nat :=
  if traceFrozen s then some 2
  else if s.obs.traceDest = 0 then none
  else if 2 ^ regFld rOBS_TRACE_CFG 0 5 s ≤ dist32 s.obs.traceTail (regFld rOBS_TRACE_HEAD 0 32 s) then some 0
  else if 2 * regFld rOBS_TRACE_CFG 8 7 s ≤ s.obs.traceUnits then some 1
  else none

/-- Write one record's bytes to the host ring. -/
def traceRing (b : List Byte) (s : State) : State :=
  let a := (regRaw rOBS_TRACE_RING s).toNat + 32 * (s.obs.traceTail % 2 ^ regFld rOBS_TRACE_CFG 0 5 s)
  let (_, s) := viaPrimary ⟨6, 0, none, .write 0 none a b, 1, none⟩ s
  { s with obs := { s.obs with
      traceTail := (s.obs.traceTail + 1) % 2 ^ 32, traceUnits := s.obs.traceUnits + 1 } }

/-- Append to the tail buffer; the newest of 262,144 records overwrites the oldest (R407). -/
def tailPush (r : TraceRec) (s : State) : State :=
  let t := s.obs.tail ++ [r]
  { s with obs := { s.obs with tail := if 262144 < t.length then t.drop 1 else t } }

/-- Write the loss record that closes the open gap (R408). -/
def closeGap (s : State) : State :=
  match s.obs.gap with
  | none => s
  | some g =>
    let s := { s with obs := { s.obs with gap := none } }
    if s.obs.traceDest = 0 then
      tailPush ⟨s.time.now, g.first.toNat % 2 ^ 32, g.first.toNat / 2 ^ 32, 0xFF, g.cause, 16 * (g.lost % 256),
        g.lost / 256 % 256, g.lost / 65536, g.last⟩ s
    else traceRing (lossBytes g s.time.now) s

/-- A record is produced (R406 to R408): counted, then written behind a gap's loss record, or dropped. -/
def traceRec (r : TraceRec) (s : State) : State :=
  let m := regRaw rOBS_TRACE_MATCH s
  let en := regFld rOBS_TRACE_CTL 0 1 s = 1 && bit (regRaw rOBS_TRACE_FILTER s) r.type
    && (bit m 12 || fld m 0 12 = r.ctx) && (bit m 21 || fld m 13 8 = r.env)
  if !en then s
  else
    let s := { s with obs := { s.obs with gen := s.obs.gen + 1 } }
    match traceBlocked s with
    | none =>
      let s := closeGap s
      match traceBlocked s with
      | none => if s.obs.traceDest = 0 then tailPush r s else traceRing (traceBytes r) s
      | some c =>
        setEvent rOBS_EVENT 0 { s with obs := { s.obs with
          lost := s.obs.lost + 1, gap := some ⟨r.tether, r.tether, c, 1⟩ } }
    | some c =>
      let s := { s with obs := { s.obs with lost := s.obs.lost + 1 } }
      match s.obs.gap with
      | some g => { s with obs := { s.obs with gap := some { g with last := r.tether, lost := g.lost + 1 } } }
      | none =>
        setEvent rOBS_EVENT 0 { s with obs := { s.obs with gap := some ⟨r.tether, r.tether, c, 1⟩ } }

/-- Context and envelope fields of a trace record (Table 17-3). -/
def traceCtx (c : Option Nat) : Nat := c.getD 0xFFF
def traceEnv (e : Option Nat) : Nat := e.getD 0xFF

/-- A record for an event of a request's identity. -/
def trace (ty : Nat) (i : Ident) (env : Option Nat) (unit : Nat) (arg : W64) (s : State) : State :=
  traceRec ⟨s.time.now, i.layer, i.oper, ty, i.cls, traceCtx i.ctx, traceEnv env, unit, arg⟩ s

end Sys2Proof.Machine
end

