-- ==== Sys2Proof/Machine/Weir.lean ====
section
/-! DEFINITION. The Weir: latching, levels, escalation, quiet recovery (R378 to R388), and the checks of who may
write a register (R99, R102, R417). -/
namespace Sys2Proof.Machine

/-! ### Who reaches a register -/

/-- A memory write reaches a function's BARs through a port: the function exists there in D0 with Memory Space
Enable, the link is up in flit mode (R95, R104), no function-level reset runs (R112), and outside an IDE stream
nothing is taken where IDE is required (R117). -/
def barOpen (p fn : Nat) (s : State) : Bool :=
  linkUp p s && instAt fn p s && instD0 fn p s && instMse fn p s && !(func fn s).flrBusy
    && ideOk p s

/-- A write through a port reaches a register of the manager windows (R99, R417): in recovery posture only the SPL_
and WEIR_ windows. -/
def mgrOpen (p key : Nat) (s : State) : Bool :=
  barOpen p 0 s && mgrPort p s
    && (!s.spl.recovery || (0x14000 ≤ key && key < 0x18000) || (0x44000 ≤ key && key < 0x48000))

/-- A write through a port reaches a function's page: the physical function's on the manager group (R99), a virtual
function's while it is bound (R102); in recovery posture the page holds nothing writable. -/
def fnOpen (p fn : Nat) (s : State) : Bool :=
  barOpen p fn s && !s.spl.recovery && (if fn = 0 then mgrPort p s else boundAt fn p s)

/-! ### Tables of sources and causes -/

/-- Region of a source (Table 16-1). -/
def regionOf (src : Nat) : Nat :=
  if src < 16 then 0 else if src < 40 then 1 else if src < 48 then 2 else if src < 96 then 3
  else if src < 144 then 4 else if src < 224 then 5 else if src < 304 then 6 else if src < 384 then 7
  else if src < 420 then 8 else if src < 448 then 9 else if src < 512 then 10 else 11

/-- Sources that Table 16-1 lists; no other is ever raised (R378). -/
def sourceListed (n : Nat) : Bool :=
  n ≤ 5 || (8 ≤ n && n ≤ 12) || (16 ≤ n && n ≤ 42) || (48 ≤ n && n ≤ 81) || (96 ≤ n && n ≤ 129)
    || (144 ≤ n && n ≤ 219) || (224 ≤ n && n ≤ 295) || (304 ≤ n && n ≤ 371) || (384 ≤ n && n ≤ 417)
    || (420 ≤ n && n ≤ 437) || (448 ≤ n && n ≤ 1023)

/-- CAUSE code (Table 16-2); it is also the status bit, FORCED being bit 0 of the word. -/
def causeCode : Cause → Nat
  | .corrected => 1 | .poisoned => 2 | .unitCheck => 3 | .bistFail => 4 | .partnerTimeout => 5 | .linkEvent => 6
  | .portFailing => 7 | .timeEvent => 8 | .sensorStale => 9 | .advisory => 10 | .coreError => 11 | .ideFail => 12
  | .envelope => 13 | .fatalState => 14 | .forced => 0x3F

/-- Status bit of a cause (Table 16-12). -/
def causeBit (c : Cause) : Nat := if c == .forced then 0 else causeCode c

/-- Default level (Table 16-2); a forced fault takes its level from WEIR_FORCE_CTL. -/
def causeLevel : Cause → Nat
  | .poisoned => 1 | .coreError => 2 | .ideFail => 2 | .envelope => 3 | .fatalState => 4 | _ => 0

/-- Does the cause escalate (Table 16-2, R384)? -/
def causeEscalates : Cause → Bool
  | .corrected => false | .timeEvent => false | .sensorStale => false | .advisory => false | .fatalState => false
  | _ => true

/-- The cause of a code, for a forced fault (R382). -/
def causeOfCode (n : Nat) : Cause :=
  ([.corrected, .poisoned, .unitCheck, .bistFail, .partnerTimeout, .linkEvent, .portFailing, .timeEvent,
    .sensorStale, .advisory, .coreError, .ideFail, .envelope, .fatalState] : List Cause).getD (n - 1) .forced

/-- The unit of a source, as 128 × KIND + INSTANCE (Tables 16-1 and 16-7), where it is of a kind in Table 1-6. -/
def unitOf (src : Nat) : Option Nat :=
  if 48 ≤ src && src ≤ 81 then some (src - 48)
  else if 144 ≤ src && src ≤ 219 then some (128 + (src - 144))
  else if 304 ≤ src && src ≤ 371 then some (256 + (src - 304))
  else if 96 ≤ src && src ≤ 129 then some (384 + (src - 96))
  else if 420 ≤ src && src ≤ 436 then some (512 + (src - 420))
  else if 224 ≤ src && src ≤ 295 then some (640 + (src - 224))
  else if 384 ≤ src && src ≤ 415 then some (768 + (src - 384))
  else if 16 ≤ src && src ≤ 31 then some (896 + (src - 16))
  else none

/-! ### Units and their ballast -/

/-- Units in service and spare of each kind (Tables 1-6 and 16-7). -/
def unitCounts (kind : Nat) : Nat × Nat :=
  match kind with
  | 0 => (32, 2) | 1 => (72, 4) | 2 => (64, 4) | 3 => (32, 2) | 4 => (16, 1) | 5 => (72, 0) | 6 => (32, 0) | _ => (16, 0)

/-- Key of a unit. -/
def unitKey (kind inst : Nat) : Nat := 128 * kind + inst

/-- The unit that stands at the place of active unit `i`: itself while it is in service, else its ballast. -/
def standIn (kind i : Nat) (s : State) : Option Nat :=
  if (mget s.weir.units (unitKey kind i)).isNone then some i else mget s.weir.subst (unitKey kind i)

/-- The unit that carries the work of active unit `i` (R20, R390): its stand-in, and where it has none that of the next place
in number order (DESIGN CHOICE, log 129). -/
def carrier (kind i : Nat) (s : State) : Nat :=
  let n := (unitCounts kind).1
  ((List.range n).findSome? fun k => standIn kind ((i + k) % n) s).getD i

/-- The place at which a unit stands: its own, or for a ballast unit the one it has taken. -/
def placeOf (kind inst : Nat) (s : State) : Option Nat :=
  if inst < (unitCounts kind).1 then some inst
  else (s.weir.subst.find? fun e => e.1 / 128 == kind && e.2 == inst).map (·.1 % 128)

/-- The Cistern lane that serves a Reservoir slice (R327): a ballast slice keeps the lane of the slice that it took over. -/
def laneOf (slice : Nat) (s : State) : Nat :=
  match placeOf 1 slice s with
  | some k => carrier 2 (k % 64) s
  | none => 0

/-! ### Records and actions -/

/-- Bits [63:0] of a Weir record (Table 16-4). -/
def weirWord (r : WeirRec) : W64 :=
  BitVec.ofNat 64 (r.src + 2 ^ 10 * causeCode r.cause + 2 ^ 16 * r.level + 2 ^ 19 * b2n r.forced
    + 2 ^ 20 * b2n r.escalated + 2 ^ 21 * b2n r.ctx.isSome + 2 ^ 22 * b2n r.env.isSome
    + 2 ^ 24 * r.ctx.getD 0 + 2 ^ 36 * r.env.getD 0 + 2 ^ 44 * (r.detail % 2 ^ 20))

/-- Region record of the Weir. -/
def region (n : Nat) (s : State) : WeirRegion := mgetD s.weir.regions n {}

/-- A context enters FAULTED with a record (Table 6-7, R379); only an ACTIVE context does. -/
def faultCtx (c : Nat) (w : W64) (s : State) : State :=
  match mget s.que.ctxs c with
  | some x =>
    if x.st == .active then
      setEvent rQUE_EVENT 0 <| windowOff x.fn c { s with que := { s.que with ctxs := mset s.que.ctxs c { x with st := .faulted, fault := w } } }
    else s
  | none => s

/-- Contexts of an envelope on this chip. -/
def ctxsOfEnv (e : Nat) (s : State) : List Nat := (s.que.ctxs.filter fun x => x.2.env == some e).map (·.1)

/-- The level at which a fault acts and the envelope its record then carries (R380). -/
def actLevel (lv : Nat) (ctx env : Option Nat) (s : State) : Nat × Option Nat :=
  let here := match ctx with
    | some c => mget s.que.ctxs c
    | none => none
  let envHere : Bool := match env with
    | some e => (mget s.env.envs e).isSome
    | none => false
  if lv = 2 then (if here.isSome then 2 else 1, env)
  else if lv = 3 then
    if envHere then (3, env)
    else match here with
      | some x => match x.env with
        | some e => (3, some e)
        | none => (2, none)
      | none => (1, env)
  else (lv, env)

/-- The containment of a level (Table 16-3), from level 2 up. -/
def contain (r : WeirRec) (s : State) : State :=
  let w := weirWord r
  if r.level = 4 then
    each (mkeys s.que.ctxs) (fun c s => faultCtx c w s)
      { s with weir := { s.weir with fatal := true, errFatalLow := true } }
  else if r.level = 3 then
    match r.env with
    | some e => each (ctxsOfEnv e s) (fun c s => faultCtx c w s) s
    | none => s
  else if r.level = 2 then
    match r.ctx with
    | some c => faultCtx c w s
    | none => s
  else s

/-- In-service test of a source's unit, where it is of a kind in Table 1-6 (R392). -/
def askTest (src : Nat) (s : State) : State :=
  match unitOf src with
  | some u => if s.weir.testQueue.contains u then s
              else { s with weir := { s.weir with testQueue := s.weir.testQueue ++ [u] } }
  | none => s

/-- The action of a latched fault at its level (R379): containment, the test of its unit from level 1 up, a wake
event from level 2 up (R109), and the Weir vector from WEIR_CTRL.IRQ_LEVEL up, at most once per tick. -/
def weirAct (r : WeirRec) (s : State) : State :=
  let s := contain r s
  let s := whenS (1 ≤ r.level) (askTest r.src) s
  let s := whenS (2 ≤ r.level) (wake 0) s
  if regFld rWEIR_CTRL 0 3 s ≤ r.level && !s.weir.irqThisTick then
    fire 0 (regFld rSYN_MGR_VEC 16 11 s) { s with weir := { s.weir with irqThisTick := true } }
  else s

/-- Class of a fault (R383). -/
def weirClass (e : ErrIn) : Nat × Cause × Option Nat × Option Nat := (e.src, e.cause, e.ctx, e.env)

/-- The level recorded for the class's previous fault while its cause bit is 1 (R383). -/
def classLevel (e : ErrIn) (s : State) : Option Nat :=
  if bit (regRaw (rWEIR_STATUS + 8 * regionOf e.src) s) (causeBit e.cause) then
    (s.weir.classes.find? fun c => c.1 == weirClass e).map (·.2)
  else none

/-- Latch one input: its record, with escalation (R383) and the lowering of R380. -/
def weirLatch (t : Nat) (forced : Bool) (lv0 : Nat) (stands : Cause) (e : ErrIn) (s : State) : WeirRec × State :=
  let esc := match classLevel e s with
    | some l => if causeEscalates stands then some (min 3 (l + 1)) else none
    | none => none
  let lv := match esc with
    | some l => max l lv0
    | none => lv0
  let (act, env) := actLevel lv e.ctx e.env s
  let r : WeirRec := ⟨e.src, e.cause, act, forced, esc.isSome, e.ctx, env, e.detail, t⟩
  let s := { s with weir := { s.weir with
    classes := (weirClass e, act) :: s.weir.classes.filter (fun c => c.1 != weirClass e) } }
  let s := if esc.isSome then
      setEvent rWEIR_EVENT 2 { s with weir := { s.weir with escalations := satAdd 32 s.weir.escalations 1 } }
    else s
  let n := regionOf e.src
  let s := regSetBit (rWEIR_STATUS + 8 * n) (causeBit e.cause) s
  let g := region n s
  let s := { s with weir := { s.weir with
    regions := mset s.weir.regions n { g with maxLevel := max g.maxLevel act, quiet := 0 } } }
  let s := traceRec ⟨s.time.now, 0, 0, 0x0D, 0, traceCtx e.ctx, traceEnv env, e.src, weirWord r⟩ s
  (r, s)

/-- Corrected words are counted per source; more than CE_LIMIT in 1,000,000 ticks raise UNIT_CHECK, and the source's unit is
tested (R384). -/
def ceCount (t : Nat) (e : ErrIn) (s : State) : State :=
  if e.cause != .corrected || (224 ≤ e.src && e.src ≤ 295) then s
  else
    let l := ((mgetD s.weir.corrected e.src []) ++ [t]).filter fun x => t < x + 1000000
    let lim := max 1 (regFld rWEIR_CTRL 16 16 s)
    if lim < l.length then
      askTest e.src (raise e.src .unitCheck none none 0
        { s with weir := { s.weir with corrected := mset s.weir.corrected e.src [] } })
    else { s with weir := { s.weir with corrected := mset s.weir.corrected e.src l } }

/-- Inputs that force bits raise at every edge (R382). -/
def forcedInputs (s : State) : List ErrIn :=
  let c := regRaw rWEIR_FORCE_CTL s
  let ctx := if bit c 9 then some (fld c 11 12) else none
  let env := if bit c 10 then some (fld c 23 8) else none
  ((List.range 16).map fun m =>
    (bitsOf 64 (regRaw (rWEIR_FORCE + 8 * m) s).toNat).map fun i => 64 * m + i).flatten.filter sourceListed |>.map
      fun n => ⟨n, .forced, ctx, env, fld c 0 6⟩

/-- The better first record among faults latched at one edge: highest level, then lowest source (R381). -/
def firstOf (a b : WeirRec) : WeirRec :=
  if a.level < b.level then b else if a.level = b.level && b.src < a.src then b else a

/-- First records and OVERFLOW of a region after an edge (R381): `was` is the status word before it. -/
def weirFirst (n : Nat) (was : W64) (rs : List WeirRec) (s : State) : State :=
  match rs.filter fun r => regionOf r.src == n with
  | [] => s
  | r :: l =>
    let s := if was.toNat % 2 ^ 17 = 0 then
        { s with weir := { s.weir with
          firstSeq := s.weir.firstSeq + 1
          regions := mset s.weir.regions n
            { region n s with first := some (l.foldl firstOf r), firstSeq := s.weir.firstSeq } } }
      else s
    whenS (was.toNat % 2 ^ 17 ≠ 0 || !l.isEmpty) (regSetBit (rWEIR_STATUS + 8 * n) 16) s

/-- A level-2 or level-3 fault is latched and not acknowledged. -/
def nonfatalDue (s : State) : Bool := s.weir.classes.any fun c =>
  (c.2 == 2 || c.2 == 3) && bit (regRaw (rWEIR_STATUS + 8 * regionOf c.1.1) s) (causeBit c.1.2.1)

/-- The error outputs follow the Weir (R71): err_nonfatal_n is low while a level-2 or level-3 fault is latched and not
acknowledged, and to the end of the tick in which it went low; err_fatal_n while a level-4 fault stands. -/
def errOutputs (s : State) : State :=
  { s with weir := { s.weir with
    errNonfatalLow := nonfatalDue s || s.weir.errHold
    errHold := s.weir.errHold || (nonfatalDue s && !s.weir.errNonfatalLow)
    errFatalLow := s.weir.fatal } }

/-- The outcome of a command: a next state, whose error outputs have followed. -/
def answer (s : State) : Res := .next (errOutputs s)

/-- The Weir latch of an edge (R381): every input raised in tick `t` and every forced input, in order; each acts at
once, or while the chip is held only at level 4, the others being kept for the resume edge (R395). -/
def weirEdge (t : Nat) (s : State) : State :=
  let ins := s.weir.raised
  let fs := if s.spl.recovery then [] else forcedInputs s
  let before := (List.range 12).map fun n => regRaw (rWEIR_STATUS + 8 * n) s
  let s := { s with weir := { s.weir with raised := [], irqThisTick := false, errHold := false } }
  let held := s.sluice.st == .capturing || s.sluice.st == .held || s.sluice.st == .resumePending
  let tickOn (m : Map WeirRegion) (n : Nat) : Map WeirRegion :=
    if held || (before.getD n 0).toNat % 2 ^ 17 = 0 then m else mupd m n {} fun g => { g with quiet := g.quiet + 1 }
  let s := { s with weir := { s.weir with regions := (List.range 12).foldl tickOn s.weir.regions } }
  let step (acc : List WeirRec × State) (x : Bool × Nat × Cause × ErrIn) : List WeirRec × State :=
    let (r, s) := weirLatch t x.1 x.2.1 x.2.2.1 x.2.2.2 acc.2
    (acc.1 ++ [r], ceCount t x.2.2.2 s)
  let lv := min 4 (regFld rWEIR_FORCE_CTL 6 3 s)
  let stands := causeOfCode (regFld rWEIR_FORCE_CTL 0 6 s)
  let all := (ins.map fun e => (false, causeLevel e.cause, e.cause, e)) ++ fs.map fun e => (true, lv, stands, e)
  let (rs, s) := all.foldl step ([], s)
  let s := each (List.range 12) (fun n s => weirFirst n (before.getD n 0) rs s) s
  let s := each rs (fun r s =>
    if held && r.level < 4 then { s with sluice := { s.sluice with heldFaults := s.sluice.heldFaults ++ [r] } }
    else weirAct r s) s
  errOutputs s

/-- When every FORCED, CAUSES and OVERFLOW bit of a region reads 0, its first record is released and MAXLEVEL
returns to 0; classes whose cause bit was cleared are acknowledged (R381, R383, Table 16-12). -/
def weirCleared (n : Nat) (s : State) : State :=
  let w := regRaw (rWEIR_STATUS + 8 * n) s
  let keep := s.weir.classes.filter fun c => regionOf c.1.1 != n || bit w (causeBit c.1.2.1)
  let s := { s with weir := { s.weir with classes := keep } }
  let released (g : WeirRegion) : WeirRegion := { g with first := none, maxLevel := 0 }
  let s := if w.toNat % 2 ^ 17 = 0 then
      { s with weir := { s.weir with regions := mupd s.weir.regions n {} released } }
    else s
  errOutputs s

/-- Q of a region (R385): QUIET_LEVEL of the highest level latched, or QUIET_TICKS where that entry is 0. -/
def quietTicks (n : Nat) (s : State) : Nat :=
  let q := s.spl.img.quietLevel.getD (region n s).maxLevel 0
  if q = 0 then s.spl.img.quietTicks else q

/-! ### Rows of chapter 16 that act on the Weir alone -/

/-- ERROR_INPUT (R378): a listed source raises its input; others are never raised. -/
def execErrorInput (src : Fin 1024) (c : Cause) (ctx : Option (Fin 4096)) (env : Option EnvIx) (detail : BitVec 20)
    (s : State) : Res :=
  answer (if sourceListed src.val && c != .forced then
    raise src.val c (ctx.map (·.val)) (env.map (·.val)) detail.toNat s else s)

/-- QUIET_PERIOD (R385): a region in the fault state that has latched nothing for Q ticks recovers; one that holds a
level-4 fault never does. -/
def execQuietPeriod (n : Fin 12) (s : State) : Res :=
  let w := regRaw (rWEIR_STATUS + 8 * n.val) s
  let g := region n.val s
  answer (if w.toNat % 2 ^ 17 ≠ 0 && g.maxLevel < 4 && quietTicks n.val s ≤ g.quiet then
    let s := setRaw (rWEIR_STATUS + 8 * n.val) 0 s
    let s := weirCleared n.val s
    setEvent rWEIR_EVENT 3 { s with weir := { s.weir with recoveries := satAdd 32 s.weir.recoveries 1 } }
  else s)

end Sys2Proof.Machine
end

