-- ==== Sys2Proof/Machine/Link.lean ====
section
/-! DEFINITION. The link layer of the fabric (R328 to R338): frames, replay, credits, bring-up and retraining. -/
namespace Sys2Proof.Machine

/-- Change the Spool's part of the state. -/
def modSpl (f : SpoolState → SpoolState) (s : State) : State := { s with spl := f s.spl }

/-- Change the fabric's part of the state. -/
def modFab (f : FabState → FabState) (s : State) : State := { s with fab := f s.fab }

/-- A fabric link's record. -/
def flink (l : Nat) (s : State) : FLink := mgetD s.fab.links l {}

/-- Change a fabric link. -/
def modLink (l : Nat) (f : FLink → FLink) (s : State) : State :=
  modFab (fun b => { b with links := mupd b.links l {} f }) s

/-- A link is up. -/
def flUp (l : Nat) (s : State) : Bool := (flink l s).st == .up

/-- Fabric links that are up, in ascending order. -/
def linksUp (s : State) : List Nat := (List.range 32).filter fun l => flUp l s

/-- Fabric links in service (FL_EN). -/
def flEnabled (s : State) : List Nat := bitsOf 32 s.spl.img.flEn

/-- FACK of the frames that a link sends: the highest FSEQ accepted. -/
def fackOf (k : FLink) : Nat := (k.rxSeq + 2 ^ 32 - 1) % 2 ^ 32

/-- The first queued message whose channel holds its credits; a channel keeps its order (R336). -/
def flReady (k : FLink) : List Nat → List (Nat × Nat × FlMsg) → Option (Nat × Nat × FlMsg)
  | _, [] => none
  | busy, e :: r =>
    if busy.contains e.1 || mgetD k.cred e.1 0 < e.2.1 then flReady k (e.1 :: busy) r else some e

/-- The next message to leave (R339): VC0, VC1 and resends go ahead of class traffic within 125 units of a tick, and beyond
them where no class traffic can go. -/
def flNext (k : FLink) : Option (Bool × Nat × Nat × FlMsg) :=
  let rest := (flReady k [] k.queue).map fun e => (false, e)
  match flReady k [] k.first with
  | none => rest
  | some e => if k.ahead + e.2.1 ≤ 125 then some (true, e) else rest.or (some (true, e))

/-- Send what credits and the replay buffer of 64 frames allow (R332, R338). Each message goes in a frame of its own
(log 30). -/
def flPump (l : Nat) : Nat → State → State
  | 0, s => s
  | n + 1, s =>
    let k := flink l s
    if k.st != .up || 64 ≤ k.replay.length then s
    else match flNext k with
    | none => s
    | some (ahead, e) =>
      let s := modLink l (fun k => { k with
        queue := if ahead then k.queue else k.queue.erase e
        first := if ahead then k.first.erase e else k.first
        ahead := if ahead then k.ahead + e.2.1 else k.ahead
        cred := mset k.cred e.1 (mgetD k.cred e.1 0 - e.2.1)
        txSeq := (k.txSeq + 1) % 2 ^ 32
        replay := k.replay ++ [(k.txSeq, e.2.2)] }) s
      flPump l n (emit (.fabric l k.txSeq e.2.2) (count 6 0 l (e.2.1 - 1) s))

/-- No fabric packet other than VC0 is sent: a level-4 fault stands (Table 16-3), or ZEROISE_ALL has been accepted (R370). -/
def fabQuiet (s : State) : Bool := s.weir.fatal || s.env.zeroising

/-- Hand a link a message that goes ahead of class traffic (R339): channel and data slots; a descriptor costs one unit, each
slot one more (R338). -/
def flFirst (l vc slots : Nat) (m : FlMsg) (s : State) : State :=
  flPump l 1 (modLink l (fun k => { k with first := k.first ++ [(vc, 1 + slots, m)] }) s)

/-- Hand a message to a link: class traffic of VC2 and VC3 in its queue, VC0 and VC1 ahead of it (R339). -/
def flSend (l vc slots : Nat) (m : FlMsg) (s : State) : State :=
  if vc ≤ 1 then flFirst l vc slots m s
  else flPump l 1 (modLink l (fun k => { k with queue := k.queue ++ [(vc, 1 + slots, m)] }) s)

/-- Units of a received packet return to the switch in the next frame's header (R338). -/
def flReturn (l vc slots : Nat) (s : State) : State :=
  emit (.fabricIdle l (fackOf (flink l s)) false vc (1 + slots)) (count 6 1 l slots s)

/-- A link enters training: lanes enabled, train request raised (Table 14-3, steps 1 and 2). -/
def flTrain (l : Nat) (st : FlSt) (s : State) : State :=
  let s := modLink l (fun k => { k with
    st := st, locked := false, ticks := 0, txSeq := 0, rxSeq := 0, rxAny := false, replay := [], nakFor := (0, 0), cred := [], queue := []
    first := [] }) s
  emit (.fabricTrain l (flink l s).mask) s

/-- Bring-up of a link from step 1 with the lanes of its LANE_MASK (R331). -/
def flBringUp (l : Nat) (s : State) : State :=
  flTrain l .training (modLink l (fun k => { k with mask := s.spl.img.laneMasks.getD l 0xFF }) s)

/-- A link goes out of service (R331, R334): event bit and a level-0 Weir event. -/
def flOut (l : Nat) (s : State) : State :=
  let s := modLink l (fun k => { k with st := .out, replay := [], queue := [], first := [], cred := [] }) s
  setEvent rFLK_EVENT 1 (raise (384 + l) .linkEvent none none 0 s)

end Sys2Proof.Machine
end

