-- ==== Sys2Proof/Machine/Time.lean ====
section
/-! DEFINITION. Chapter 2: the tether, elections, sync, holdover and steps. -/
namespace Sys2Proof.Machine

/-- TTH_STATUS.STATE code. -/
def tthCode : TthState → Nat
  | .acquire => 0 | .locked => 1 | .holdover => 2 | .freeRun => 3 | .stepPending => 4

/-- ERR_BOUND as TTH_STATUS, sluice records and reduction command records show it (R39). -/
def errBound (s : State) : Nat := min 0xFFFF (s.time.errBound20 / 20)

/-- TTH_STATUS (Table 2-5). -/
def tthStatus (s : State) : Nat :=
  regWord [(tthCode s.time.st, 0, 4), (b2n s.time.isRoot, 4, 1), (s.time.refQuality, 5, 2), (s.time.hops, 7, 3),
    (errBound s, 16, 16)]

/-- Change the tether's part of the state. -/
def modTime (f : TimeState → TimeState) (s : State) : State := { s with time := f s.time }

/-- The chip is root-capable (TETHER_ROLE 1). -/
def rootCapable (s : State) : Bool := s.spl.img.tetherRole == 1

/-- The stamp of an event that falls `ofs` units of 3.906 25 ps after the tether value TTH_NOW (R25). -/
def stampAt (ofs : Nat) (s : State) : Stamp := BitVec.ofNat 68 (s.time.now.toNat * 16 + ofs)

/-- The tether value of the next tick edge: the next multiple of 16,000, or 0 where the tether wraps before it (R8, R24). -/
def nextEdge (s : State) : W64 :=
  if (tick s + 1) * 16000 < 2 ^ 64 then BitVec.ofNat 64 ((tick s + 1) * 16000) else 0

/-- Bound of a locked follower at h hops, in units of 0.05 ps (Table 2-1): 135 + 85 h ps. -/
def lockedBound (s : State) : Nat :=
  20 * (if s.time.isRoot then Config.rootErrBound else 135 + 85 * s.time.hops)

/-- Entry to HOLDOVER or FREE_RUN: event bit, level-0 event, manager's TTH vector (R39). -/
def tthEntry (st : TthState) (bitNo : Nat) (s : State) : State :=
  let s := modTime (fun t => { t with st := st, holdTicks := 0, syncRun := 0, slewTicks := none }) s
  let s := setEvent rTTH_EVENT bitNo s
  let s := raise 0 .timeEvent none none 0 s
  fire 0 (regFld rSYN_MGR_VEC 0 11 s) s

/-- REF_QUALITY that the reference marks give a root-capable chip (R28, R48). -/
def qualityOf (s : State) : Nat :=
  if !rootCapable s then 2 else if s.port.ref10m then (if s.port.refPps then 0 else 1) else 2

/-- Is a claim lower than another, field by field (R28)? -/
def claimLt (a b : RootClaim) : Bool :=
  a.quality < b.quality || (a.quality == b.quality && (a.priority < b.priority
    || (a.priority == b.priority && a.chip < b.chip)))

/-- This chip's claim. -/
def ownClaim (s : State) : RootClaim := ⟨s.time.refQuality, s.spl.img.rootPriority, s.spl.chip⟩

/-- The lowest claim of the domain: this chip's, where it is root-capable, and those heard (R28). -/
def winner (s : State) : Option RootClaim :=
  let l := if rootCapable s then ownClaim s :: s.time.claims else s.time.claims
  match l with
  | [] => none
  | c :: r => some (r.foldl (fun a b => if claimLt b a then b else a) c)

/-- Start an election (R28). -/
def startElection (s : State) : State := modTime (fun t => { t with election := some 0 }) s

/-- Phase 4 runs: phase 3 has ended and phase 4 has not (Table 4-6). -/
def inPhase4 (s : State) : Bool := s.spl.ended.contains 3 && !s.spl.ended.contains 4 && !s.spl.recovery

/-- Take the election's result: the root is recorded; a chip that becomes root at start-up loads TTH_ROOT_SET, one that
becomes root by re-election keeps its tether (R29); ROOT_CHANGED where the root is new (R41). -/
def finishElection (s : State) : State :=
  match winner s with
  | none => modTime (fun t => { t with election := none }) s
  | some c =>
    let mine := rootCapable s && c.chip == s.spl.chip
    let new := c.chip != s.time.rootChip || mine != s.time.isRoot
    let first := mine && !s.time.isRoot && inPhase4 s && s.spl.resetCause != 1
    let start := regRaw rTTH_ROOT_SET s
    let s := modTime (fun t => { t with
      election := none, rootChip := c.chip, rootPriority := c.priority, isRoot := mine
      hops := if mine then 0 else t.hops
      now := if first then start else t.now
      awaitPps := if first then c.quality == 0 else t.awaitPps
      st := if mine then .locked else t.st }) s
    whenS new (setEvent rTTH_EVENT 2) s

/-- Offset of a sync message at a link, in units of 3.906 25 ps: arrival less departure, correction and the link's own
delay, as a signed difference of stamps (R31). -/
def syncOffset (l : Nat) (m : SyncMsg) (s : State) : Int :=
  (m.arrive - (m.depart + BitVec.ofInt 68 m.correction.toInt + BitVec.ofNat 68 (mgetD s.time.linkDelay l 0))).toInt

/-- Sync of a tick that may serve as a source: heard on a link in service that is not excluded (R32). -/
def syncHeard (s : State) : Map (Int × SyncMsg) :=
  s.time.heard.filter fun e => !s.time.excluded.contains e.1 && (linksUp s).contains e.1

/-- The link a follower takes sync from: the lowest-numbered link with the fewest hops (R32). -/
def syncSource (s : State) : Option (Nat × Int × SyncMsg) :=
  match syncHeard s with
  | [] => none
  | e :: r => some (r.foldl (fun (a : Nat × Int × SyncMsg) b => if b.2.2.hops < a.2.2.hops then b else a) e)

/-- More than 400 ps between two offsets (R32): 400 ps are 102.4 units. -/
def disagree (a b : Int) : Bool := 102 < (a - b).natAbs

/-- SYNC (R32): a message of the domain on a link in service is kept, and the offset and hops are those of the chosen link
among the links heard in the tick so far. The sync of an excluded link is ignored altogether (DESIGN CHOICE, log 116). -/
def execSync (l : FL) (m : SyncMsg) (s : State) : Res :=
  answer (if s.time.isRoot || !(linksUp s).contains l.val || m.domain ≠ s.spl.img.domainId || s.time.excluded.contains l.val
  then s
  else
    let s := modTime (fun t => { t with heard := mset t.heard l.val (syncOffset l.val m s, m), syncThisTick := true }) s
    match syncSource s with
    | none => s
    | some c => modTime (fun t => { t with offset := c.2.1, hops := min 7 c.2.2.hops }) s)

/-- The sync of a tick is compared once all of it has arrived, at the edge that ends the tick: up to three other links
with the chosen one; those that differ by more than 400 ps are excluded, with LINK_DISAGREE (R32), until a reset
(DESIGN CHOICE, log 116). The chosen message is kept for the relay (R30). -/
def syncJudge (s : State) : State :=
  match syncSource s with
  | none => modTime (fun t => { t with relay := none }) s
  | some c =>
    let bad := ((((syncHeard s).filter fun e => e.1 != c.1).take 3).filter fun e => disagree e.2.1 c.2.1).map (·.1)
    let s := modTime (fun t => { t with
      excluded := bad.foldl (fun x b => insNat b x) t.excluded
      relay := some (c.1, c.2.2, mkeys t.heard) }) s
    whenS (!bad.isEmpty) (setEvent rTTH_EVENT 4) s

/-- LINK_DELAY_EXCHANGE (R31): at cycle 850 each link in service sends a delay request stamped t1. -/
def execLinkDelayExchange (ofs : BitVec 18) (s : State) : Res :=
  let t1 := stampAt ofs.toNat s
  answer (each (linksUp s) (fun l s =>
    flSend l 0 1 (.delayReq t1) (modTime (fun t => { t with exchange := mset t.exchange l t1 }) s)) s)

/-- The delay that four stamps give: ((t4 − t1) − (t3 − t2)) / 2, as a 24-bit field (R31, Table 2-8). -/
def linkDelayOf (t1 t2 t3 t4 : Stamp) : Nat := (BitVec.ofInt 24 (((t4 - t1) - (t3 - t2)).toInt / 2)).toNat

/-- DELAY (R31): the returned stamps give the link delay. -/
def execDelay (l : FL) (t2 t3 t4 : Stamp) (s : State) : Res :=
  answer (match mget s.time.exchange l.val with
  | none => s
  | some t1 => modTime (fun t => { t with
      exchange := mdel t.exchange l.val, linkDelay := mset t.linkDelay l.val (linkDelayOf t1 t2 t3 t4) }) s)

/-- At the edge: exchanges that have not returned count as missed (R31). -/
def delayMissed (s : State) : State :=
  let s := each (mkeys s.time.exchange) (fun l s =>
    setEvent rTTH_EVENT 5 (modTime (fun t => { t with linkMissed := mupd t.linkMissed l 0 fun c => satAdd 8 c 1 }) s)) s
  modTime (fun t => { t with exchange := [] }) s

/-- The edge's work of the tether (R24, R32, R36, R38, R40, R48): the tick's sync is compared; the tether stands at the
next edge, or has made its step; counts of ticks with and without sync; the growth of ERR_BOUND. After an applied step the
chip is LOCKED, and TTH_OFFSET and TTH_STEP_OFFSET are 0: the spec names no state (DESIGN CHOICE, log 115). -/
def tetherEdge (cycles : Nat) (ref10m : Bool) (s : State) : State :=
  let s := delayMissed (syncJudge s)
  let t := s.time
  let next := nextEdge s
  let step := t.stepGo && t.st == .stepPending
  let s := { s with port := { s.port with ref10m := s.port.ref10m || ref10m } }
  let s := modTime (fun t => { t with
    now := if step then next - BitVec.ofInt 64 t.stepOffset else next
    frac := 0
    cycPerTick := cycles
    stepGo := false
    refQuality := qualityOf s
    noSync := if t.syncThisTick then 0 else t.noSync + 1
    syncRun := if t.syncThisTick then t.syncRun + 1 else 0
    syncThisTick := false
    heard := []
    holdTicks := if t.st == .holdover then t.holdTicks + 1 else t.holdTicks
    election := t.election.map (· + 1)
    slewTicks := t.slewTicks.map (· - 1)
    errBound20 := match t.st with
      | .holdover => t.errBound20 + 1
      | .freeRun => t.errBound20 + 40
      | .stepPending => t.errBound20 + 40
      | _ => t.errBound20 }) s
  let s := if step then
      setEvent rTTH_EVENT 3 (modTime (fun t => { t with
        st := .locked, stepCount := satAdd 16 t.stepCount 1, offset := 0, stepOffset := 0 }) s)
    else s
  let s := if s.time.slewTicks == some 0 then
      modTime (fun t => { t with slewTicks := none, st := .locked, offset := 0 }) s
    else s
  if s.time.st == .locked then modTime (fun t => { t with errBound20 := lockedBound s }) s else s

/-- The correction field of a relayed message: raised by the residence time, from its arrival to this edge, and by the
delay of the link on which it arrived (R30). -/
def relayCorrection (l : Nat) (m : SyncMsg) (s : State) : BitVec 48 :=
  m.correction + BitVec.ofInt 48 (stampAt s.time.frac s - m.arrive).toInt + BitVec.ofNat 48 (mgetD s.time.linkDelay l 0)

/-- The sync messages of an edge (R30): the root's, with a correction field of 0, on every link in service; a follower
relays the tick's chosen message on the links in service that have heard none, with its HOPS raised by one (which links a
chip relays on is the model's choice, log 117). -/
def syncSend (s : State) : State :=
  let tickno := BitVec.ofNat 64 (tick s)
  if s.time.isRoot then
    each (linksUp s) (fun l s => flSend l 0 1
      (.sync (stampAt s.time.frac s) 0 s.spl.chip s.spl.img.domainId 0 tickno) s) s
  else match s.time.relay with
    | none => s
    | some (l, m, got) => each ((linksUp s).filter fun k => !got.contains k) (fun k s => flSend k 0 1
        (.sync m.depart (relayCorrection l m s) m.root m.domain (min 7 (m.hops + 1)) tickno) s) s

/-- ELECT (R28): a write of 1 to TTH_CTRL.ELECT, an audited operation of class C. -/
def electEffect (s : State) : State := modTime (fun t => { t with st := .acquire }) (startElection s)

/-- ELECTION_COMPLETE (R28): a running election, or that of phase 4, ends with the lowest claim. -/
def execElectionComplete (s : State) : Res :=
  answer (if s.time.election.isSome || inPhase4 s then finishElection s else s)

/-- PPS_EDGE (R29, R48): the 1 PPS input is present; a new root with REF_QUALITY 0 advances its tether to the next
multiple of 16,000,000,000. -/
def execPpsEdge (s : State) : Res :=
  let s := { s with port := { s.port with refPps := true } }
  answer (if s.time.isRoot && s.time.awaitPps then
    modTime (fun t => { t with
      now := BitVec.ofNat 64 (ceilDiv t.now.toNat 16000000000 * 16000000000), awaitPps := false }) s
  else s)

/-- REFERENCE_ABSENT (R48): the 10 MHz or the 1 PPS input is marked absent; at the time root a new election runs; a
follower ignores both inputs. -/
def execReferenceAbsent (pps : Bool) (s : State) : Res :=
  let was := if pps then s.port.refPps else s.port.ref10m
  let s := { s with port := { s.port with
    refPps := s.port.refPps && !pps, ref10m := s.port.ref10m && pps } }
  answer (if was && s.time.isRoot then raise 0 .timeEvent none none 0 (startElection s) else s)

/-- HOLDOVER_ENTRY (R38): a locked follower without valid sync for 4 consecutive ticks; an election follows the loss of
the root, in which the lost root takes part only once it is heard again (R41). -/
def execHoldoverEntry (s : State) : Res :=
  answer (if s.time.st == .locked && !s.time.isRoot && 4 ≤ s.time.noSync then
    modTime (fun t => { t with claims := t.claims.filter fun c => c.chip != t.rootChip }) (startElection (tthEntry .holdover 0 s))
  else s)

/-- FREE_RUN_ENTRY (R38): HOLDOVER has lasted HOLDOVER_TICKS, or ERR_BOUND exceeds 1,000 ps. -/
def execFreeRunEntry (s : State) : Res :=
  answer (if s.time.st == .holdover
      && (s.spl.img.holdoverTicks ≤ s.time.holdTicks || 20000 < s.time.errBound20) then
    tthEntry .freeRun 1 s else s)

/-- SYNC_REGAINED (R40): after 16 consecutive ticks of valid sync, an offset of 100 ns or less is slewed away at 50 ppm
(50 ps per tick, so 5/64 tick per unit of 3.906 25 ps), a larger one makes a step pending. In ACQUIRE it does so after
TTH_CTRL.ELECT or a warm reset; the first acquisition of phase 4 is TETHER_ACQUIRE's. -/
def execSyncRegained (s : State) : Res :=
  answer (if (s.time.st == .holdover || s.time.st == .freeRun
      || (s.time.st == .acquire && (!inPhase4 s || s.spl.resetCause == 1)))
      && 16 ≤ s.time.syncRun && s.time.slewTicks.isNone && !s.time.isRoot then
    if s.time.offset.natAbs ≤ 25600 then
      let n := ceilDiv (s.time.offset.natAbs * 5) 64
      if n = 0 then
        let s := modTime (fun t => { t with st := .locked }) s
        modTime (fun t => { t with errBound20 := lockedBound s }) s
      else modTime (fun t => { t with slewTicks := some n }) s
    else
      let s := modTime (fun t => { t with st := .stepPending, stepOffset := t.offset / 16 }) s
      fire 0 (regFld rSYN_MGR_VEC 0 11 s) s
  else s)

/-- STEP_GO's effect (R40): the step is requested for the next edge; ignored outside STEP_PENDING (Table 2-6). -/
def stepGoEffect (s : State) : State :=
  if s.time.st == .stepPending then modTime (fun t => { t with stepGo := true }) s else s

/-- The tether before and after a step made at the next edge, for its audit record. -/
def stepPayload (s : State) : List W64 :=
  let next := nextEdge s
  [next, next - BitVec.ofInt 64 s.time.stepOffset]

end Sys2Proof.Machine
end

