-- ==== Sys2Proof/Machine/Registers.lean ====
section
/-! DEFINITION. Rows that write or read registers without a unit's action of their own: REGISTER_WRITE, COUNT_READ,
FAULT_RECORD_READ, CTX_FAULT_READ, and the rows of chapter 17. -/
namespace Sys2Proof.Machine

/-- Writes that are a row of their own in the table of operations: they are that row's command, not REGISTER_WRITE's
(log 13). `v` is the value the write would take effect with, and `action` says that a half starting the action is
written. -/
def hasOwnRow (key : Nat) (v : W64) (action : Bool) : Bool :=
  let off := key % 2 ^ 20
  [rTTH_CTRL, rSPL_CTRL, rEPT_VEC_ALLOC, rFLK_RESTORE, rENV_DIRTY_HEAD, rKEY_CTRL, rWEIR_SLUICE_CTL].contains off
  || (action && ([fDPA_WIN_CTL, fSYN_HANDLE, fCOH_BIAS_CTL, rCOH_AGENT_CTL, rENV_ACTION, rOBS_TRACE_MARK,
      rOBS_AUDIT_HEAD].contains off
    || (rDPA_CLASS ≤ off && off < rDPA_CLASS + 128) || (rEPT_HDM_MAP ≤ off && off < rEPT_HDM_MAP + 128)
    || (rCOH_RANGE ≤ off && off < rCOH_RANGE + 512)))
  || (off = rMPT_CTRL && bit v 0) || (off = rMPT_NR_CTL && bit v 1) || (off = rWEIR_UNIT_CTL && bit v 12)
  || (off = rOBS_TRACE_CTL && bit v 3) || (off = fQUE_ADMIN_CTRL && bit v 0)

/-- Registers whose written value takes effect at the next tick edge (R250, R405). -/
def atEdge (key : Nat) : Bool :=
  let off := key % 2 ^ 20
  (off < 0x10000 && fSYN_MOD ≤ off) || (rOBS_TAG ≤ off && off < rOBS_TAG_CTL + 128)

/-- Registers whose writes are audit events of class C without a row of their own (Table 17-7, TYPE 0x000C). -/
def auditedWrite (key : Nat) : Bool :=
  key = rMPT_CTRL || key = rWEIR_UNIT_CTL || key = rWEIR_FORCE_CTL || (rWEIR_FORCE ≤ key && key < rWEIR_FORCE + 128) || key = rSYN_CHECK
    || (rOBS_TAG_CTL ≤ key && key < rOBS_TAG_CTL + 128)

/-- Writes that a register's own state turns away: the admin rings while ENABLE is 1 (R125), the audit ring while its
ENABLE is 1 and ENABLE itself once the ring has been used (Table 17-11), TTH_ROOT_SET from a host (Table 2-8). -/
def writeIgnored (key : Nat) (_v : W64) (s : State) : Bool :=
  let off := key % 2 ^ 20
  ([fQUE_ADMIN_RING, fQUE_ADMIN_CPL, fQUE_ADMIN_CFG].contains off && bit (regRaw (key / 2 ^ 20 * 2 ^ 20 + fQUE_ADMIN_CTRL) s) 0)
  || (key = rOBS_AUDIT_RING && regFld rOBS_AUDIT_CFG 8 1 s = 1)
  || (key = rOBS_AUDIT_CFG && s.obs.auditUsed && regFld rOBS_AUDIT_CFG 8 1 s = 1)
  || key = rTTH_ROOT_SET

/-- The effect of a register write that has no row of its own (R9), with what hangs on the register. -/
def regEffect (p key : Nat) (v : W64) (s : State) : State :=
  match regDesc key with
  | none => s
  | some d =>
    let v := if key = rOBS_AUDIT_CFG && regFld rOBS_AUDIT_CFG 8 1 s = 1 then
        (regRaw rOBS_AUDIT_CFG s &&& ~~~0x100) ||| (v &&& 0x100) else v
    if writeIgnored key v s then s
    else
    let s := regTook key v s
    if atEdge key then { s with reg := { s.reg with next := s.reg.next ++ [(key, v)] } }
    else
      let s := if key = rOBS_TRACE_CTL && !bit v 0 && (traceBlocked s).isNone then closeGap s else s
      let hold := regFld rOBS_SNAP 0 1 s
      let s := regStore p key d v s
      let s := if key = rOBS_SNAP && hold = 0 then { s with obs := { s.obs with holdTicks := 0 } } else s
      if rWEIR_STATUS ≤ key && key < rWEIR_STATUS + 96 then weirCleared ((key - rWEIR_STATUS) / 8) s else s

/-- A register's audited write takes effect: its record, then the register. -/
def auditedEffect (p key : Nat) (v : W64) (s : State) : State := regEffect p key v (signWrite key v s)

/-- REGISTER_WRITE's effect (R9 to R11, R417 to R419): a 32-bit or 64-bit write at a BAR0 offset; `none` is a write of
another size or alignment, which is discarded (R10). A write that is another row's command does nothing here (log 13). -/
def registerWrite (isWrite : Instr → Bool) (held : Nat → W64 → Instr) (p fn off : Nat) (w : Option RegW) (s : State) :
    State :=
  let key := fnKey fn off
  let ok := if off < 0x10000 then fnOpen p fn s else fn = 0 && mgrOpen p off s
  match w, regDesc key with
  | some w, some d =>
    if !ok then s
    else
      match regTake p key d w s with
      | (none, s') => s'
      | (some v, s') =>
        if hasOwnRow key v true then s
        else if auditedWrite key then classCWrite isWrite key v (held key v) (auditedEffect p key v) s'
        else regEffect p key v s'
  | _, _ => s

/-- The value that a write of a register of the manager windows through a port offers, if it completes one, and the
state with the half it keeps (R10, R11, R99). -/
def mgrOffer (p key : Nat) (w : RegW) (s : State) : Option W64 × State :=
  match regDesc key with
  | some d => if mgrOpen p key s then regTake p key d w s else (none, s)
  | none => (none, s)

/-- The same for a register of a function's page. -/
def fnOffer (p fn off : Nat) (w : RegW) (s : State) : Option W64 × State :=
  match regDesc (fnKey fn off) with
  | some d => if fnOpen p fn s then regTake p (fnKey fn off) d w s else (none, s)
  | none => (none, s)

/-- An offered value takes effect (R11). -/
def takeOffer (key : Nat) : Option W64 × State → Option W64 × State
  | (some v, s) => (some v, regTook key v s)
  | (none, s) => (none, s)

/-- The value with which a write of a register of the manager windows takes effect, if it does. -/
def mgrTake (p key : Nat) (w : RegW) (s : State) : Option W64 × State := takeOffer key (mgrOffer p key w s)

/-- The same for a register of a function's page. -/
def fnTake (p fn off : Nat) (w : RegW) (s : State) : Option W64 × State := takeOffer (fnKey fn off) (fnOffer p fn off w s)

/-! ### Reads that clear -/

/-- Count blocks (R420, Table 18-5): offset of the block and key of its register. -/
def countBlocks : List (Nat × Nat) :=
  [(0x13000, rTTH_EVENT), (0x17000, rSPL_EVENT), (0x1B000, rEPT_EVENT), (0x1F000, rQUE_EVENT), (0x23000, rTRN_EVENT),
    (0x27000, rDPA_EVENT), (0x2B000, rSYN_EVENT), (0x2F000, rCOH_EVENT), (0x37000, rMPT_EVENT), (0x3B000, rCIS_EVENT),
    (0x3F000, rFLK_EVENT), (0x43000, rENV_EVENT), (0x47000, rWEIR_EVENT), (0x4B000, rOBS_EVENT)]
  ++ (List.range 12).map fun n => (0x47080 + 0x80 * n, rWEIR_STATUS + 8 * n)

/-- The register whose count block covers an offset, and the offset within the block. -/
def countBlock (fn off : Nat) : Option (Nat × Nat) :=
  if 0x3000 ≤ off && off < 0x3040 then some (fnKey fn fENV_EVENT, off - 0x3000)
  else if fn = 0 then
    (countBlocks.find? fun b => b.1 ≤ off && off < b.1 + 128).map fun b => (b.2, off - b.1)
  else none

/-- Counts at block bytes `o` upwards: `n` of them, the first in the low bits. -/
def countWord (key o n : Nat) (s : State) : Nat :=
  (List.range n).foldr (fun i a => mgetD s.reg.cnt (64 * key + (o / 2 + i)) 0 + 65536 * a) 0

/-- A memory read reaches the port: the instance answers it in some way (R104); a diagnostic link presents the physical
function only (R95). -/
def readArrives (p fn : Nat) (s : State) : Bool :=
  ioLink p s && instAt fn p s && ((hport p s).link == 2 || fn == 0)

/-- Complete a memory read at a port, with the attributes of its request (R119): data, or Unsupported Request where the
port does not present the memory space (R104) or awaits an IDE stream (R117). -/
def cplRead (p fn tag : Nat) (attr : BitVec 3) (data : List Byte) (s : State) : State :=
  if !readArrives p fn s then s
  else if !instMse fn p s || !instD0 fn p s || !ideOk p s then tell p (.unsupported fn tag attr) s
  else tell p (.cpl fn tag data false attr) s

/-- A request or message comes outside every stream on a port that requires one (R117). -/
def outsideIde (t : Tlp) (p : Nat) (s : State) : Bool := t.outside && (portCfg p s).ideRequired

/-- One more request or message is discarded outside the stream that stands. -/
def countOutside (p : Nat) (s : State) : State :=
  if ideUp p s then modPort p (fun h => { h with outside := h.outside + 1 }) s else s

/-- A posted request or a message takes effect, or is discarded outside the stream (R117). -/
def posted (t : Tlp) (p : Nat) (eff : State → State) (s : State) : State :=
  if outsideIde t p s then countOutside p s else eff s

/-- A non-posted request takes effect, or completes with Unsupported Request outside the stream (R117). -/
def nonPosted (t : Tlp) (p fn tag : Nat) (eff : State → State) (s : State) : State :=
  if !outsideIde t p s then eff s
  else if readArrives p fn s then tell p (.unsupported fn tag t.attr) (countOutside p s) else s

/-- COUNT_READ's effect (R248, R420): a 64-bit read returns and clears four counts, a 32-bit read two. -/
def countRead (p fn off : Nat) (wide : Bool) (tag : Nat) (attr : BitVec 3) (s : State) : State :=
  let n := if wide then 4 else 2
  let ok := if off < 0x10000 then fnOpen p fn s else mgrOpen p off s
  match countBlock fn off with
  | some (key, o) =>
    if ok && o % (2 * n) = 0 then
      let v := countWord key o n s
      let cnt := (List.range n).foldl (fun c i => mdel c (64 * key + (o / 2 + i))) s.reg.cnt
      cplRead p fn tag attr (toBytes (2 * n) v) { s with reg := { s.reg with cnt := cnt } }
    else cplRead p fn tag attr (toBytes (2 * n) 0) s
  | none => cplRead p fn tag attr (toBytes (2 * n) 0) s

/-- COUNT_READ. -/
def execCountRead (p : Arrival) (fn : Fn) (off : BitVec 24) (wide : Bool) (tag : BitVec 14) (s : State) : Res :=
  answer (nonPosted p.tlp p.port.val fn.val tag.toNat (countRead p.port.val fn.val off.toNat wide tag.toNat p.tlp.attr) s)

/-- The words of a translation fault record (Table 7-9). -/
def faultWords (f : FaultRec) : W64 × W64 :=
  match f.first with
  | none => (0, 0)
  | some x =>
    (BitVec.ofNat 64 (x.va % 2 ^ 57 + 2 ^ 57 * x.access + 2 ^ 60 * x.cause),
     BitVec.ofNat 64 (x.ctx + 2 ^ 12 * b2n f.overflow + 2 ^ 13 * f.count + 2 ^ 32 * (x.tick % 2 ^ 32)))

/-- The clear after a read of bits [127:96] through a port (R178): what came since that port's latching read stays. For
a port that latched earlier, what came before this clear's latching read has gone. -/
def faultClear (p : Nat) (f : FaultRec) : FaultRec :=
  let kept := (mget f.since p).getD none
  let count (o : Option (XFault × Nat)) : Nat := match o with
    | none => 0
    | some (_, n) => n + 1
  let since := mmap (fun _ o => if count kept < count o then kept else o) f.since
  match kept with
  | some (x, n) => { first := some x, overflow := true, count := satAdd 15 n 0, since := since }
  | none => { since := since }

/-- The latching read of a port (R178). -/
def faultLatch (p fn : Nat) (cur : W64 × W64) (s : State) : State :=
  modFunc fn (fun f => { f with fault := { f.fault with since := mset f.fault.since p none } })
    { s with reg := { s.reg with latch := mset s.reg.latch (4 * fn + p) cur } }

/-- FAULT_RECORD_READ's effect (R178): words 0 to 3 of the record, one or two of them. -/
def faultRead (p fn word : Nat) (wide : Bool) (tag : Nat) (attr : BitVec 3) (s : State) : State :=
  let n := if wide then 8 else 4
  if !fnOpen p fn s || (wide && word % 2 = 1) then cplRead p fn tag attr (toBytes n 0) s
  else
    let cur := faultWords (func fn s).fault
    let vals := if word = 0 then cur else mgetD s.reg.latch (4 * fn + p) cur
    let all := vals.1.toNat + 2 ^ 64 * vals.2.toNat
    let v := all / 2 ^ (32 * word) % 2 ^ (8 * n)
    let s := if word = 0 then faultLatch p fn cur s else s
    let s := if word = 3 || (wide && word = 2) then modFunc fn (fun f => { f with fault := faultClear p f.fault }) s else s
    cplRead p fn tag attr (toBytes n v) s

/-- FAULT_RECORD_READ. -/
def execFaultRecordRead (p : Arrival) (fn : Fn) (word : Fin 4) (wide : Bool) (tag : BitVec 14) (s : State) : Res :=
  answer (nonPosted p.tlp p.port.val fn.val tag.toNat (faultRead p.port.val fn.val word.val wide tag.toNat p.tlp.attr) s)

/-- CTX_FAULT_READ's effect (R9, R10, Table 6-16): the selected context's fault record; the bits returned clear. -/
def ctxFaultRead (p : Nat) (hi wide : Bool) (tag : Nat) (attr : BitVec 3) (s : State) : State :=
  let c := (selGet p rQUE_CTX_SEL s).toNat % 4096
  let n := if wide then 8 else 4
  if !mgrOpen p rQUE_CTX_SEL s || (wide && hi) then cplRead p 0 tag attr (toBytes n 0) s
  else
    match mget s.que.ctxs c with
    | none => cplRead p 0 tag attr (toBytes n 0) s
    | some x =>
      let v := if wide then x.fault.toNat else if hi then x.fault.toNat / 2 ^ 32 else x.fault.toNat % 2 ^ 32
      let left : W64 := if wide then 0 else BitVec.ofNat 64 (x.fault.toNat - v * 2 ^ (if hi then 32 else 0))
      cplRead p 0 tag attr (toBytes n v) { s with que := { s.que with ctxs := mset s.que.ctxs c { x with fault := left } } }

/-- CTX_FAULT_READ. -/
def execCtxFaultRead (p : Arrival) (hi wide : Bool) (tag : BitVec 14) (s : State) : Res :=
  answer (nonPosted p.tlp p.port.val 0 tag.toNat (ctxFaultRead p.port.val hi wide tag.toNat p.tlp.attr) s)

/-! ### Counters, trace and audit -/

/-- The snapshot of an edge (R401 to R403): the readable copy, or the shadow while HOLD is set; the coarse copy when
the number of the tick that begins is a multiple of 64. `t` is the tick that ends. -/
def snapEdge (t : Nat) (s : State) : State :=
  let hold := regFld rOBS_SNAP 0 1 s = 1
  let o := s.obs
  let o := if hold then { o with shadow := o.cnt, shadowTick := t, holdTicks := o.holdTicks + 1 }
    else { o with snap := o.cnt, snapTick := t }
  let fnCnt := o.cnt.filter fun e => e.1 < 64 * 4096
  let o := if (t + 1) % 64 = 0 then
      { o with coarse := mmap (fun _ c => c / 1024 * 1024) fnCnt, coarseTick := t }
    else o
  { s with obs := o }

/-- HOLD_EXPIRY (R402): HOLD clears itself 1,000 ticks after it was set. -/
def execHoldExpiry (s : State) : Res :=
  answer (if regFld rOBS_SNAP 0 1 s = 1 && 1000 ≤ s.obs.holdTicks then setRaw rOBS_SNAP 0 s else s)

/-- Values written for the next edge take effect; the counters of a written tag are set to 0 (R250, R405). -/
def regEdge (s : State) : State :=
  let l := s.reg.next
  let s := { s with reg := { s.reg with next := [] } }
  each l (fun e s =>
    match regDesc e.1 with
    | none => s
    | some d =>
      let s := regStore 0 e.1 d e.2 s
      if rOBS_TAG ≤ e.1 && e.1 < rOBS_TAG_CTL + 128 then
        let n := e.1 % 256 / 8
        { s with obs := { s.obs with
          cnt := (List.range 4).foldl (fun c ev => mdel c (cntKey 10 ev n)) s.obs.cnt } }
      else s) s

/-- TRACE_MARK (R406): a manager marker record of the value with which the write takes effect. -/
def execTraceMark (p : HP) (w : RegW) (s : State) : Res :=
  answer (match mgrTake p.val rOBS_TRACE_MARK w s with
  | (some v, s) => traceRec ⟨s.time.now, 0, 0, 0x10, 0, 0xFFF, 0xFF, 0, v⟩ s
  | (none, s) => s)

/-- TRACE_DUMP (R9, R409): a write of OBS_TRACE_CTL sets EN, DEST and FREEZE; where it writes 1 to DUMP, FREEZE is 1 and the
ring is configured, the frozen tail buffer is copied into the host ring, oldest record first, under the budget of R407. -/
def execTraceDump (w : RegAt) (s : State) : Res :=
  answer (match mgrTake w.port.val rOBS_TRACE_CTL w.w s with
  | (some v, s) =>
    let s := regEffect w.port.val rOBS_TRACE_CTL v s
    if bit v 3 && traceFrozen s && regRaw rOBS_TRACE_RING s != 0 && s.obs.dump.isEmpty then
      { s with obs := { s.obs with dump := s.obs.tail } }
    else s
  | (none, s) => s)

/-- Records of a running dump that the tick's budget and the ring's room allow (R409). -/
def dumpSome : Nat → State → State
  | 0, s => s
  | n + 1, s =>
    match s.obs.dump with
    | [] => s
    | r :: l =>
      if dist32 s.obs.traceTail (regFld rOBS_TRACE_HEAD 0 32 s) < 2 ^ regFld rOBS_TRACE_CFG 0 5 s
          && s.obs.traceUnits < 2 * regFld rOBS_TRACE_CFG 8 7 s then
        dumpSome n (traceRing (traceBytes r) { s with obs := { s.obs with dump := l } })
      else s

/-- The trace's work of an edge: a new budget, the destination in force, a gap closed where a record can be written
(R408), and the dump. -/
def traceEdge (s : State) : State :=
  let s := { s with obs := { s.obs with traceUnits := 0, traceDest := regFld rOBS_TRACE_CTL 1 1 s } }
  let s := if s.obs.gap.isSome && (traceBlocked s).isNone then closeGap s else s
  dumpSome 128 s

/-- AUDIT_HEAD_WRITE (R415): OBS_AUDIT_HEAD advances, giving the ring room. -/
def execAuditHeadWrite (p : HP) (w : RegW) (s : State) : Res :=
  answer (match mgrTake p.val rOBS_AUDIT_HEAD w s with
  | (some v, s) => setRaw rOBS_AUDIT_HEAD v s
  | (none, s) => s)

end Sys2Proof.Machine
end

