-- ==== Sys2Proof/Machine/Memory.lean ====
section
/-! DEFINITION. Memory ports' request queues (R54 to R56), homes of device memory (R279 to R292) and atomic
operations (R283, R325, R326). -/
namespace Sys2Proof.Machine

/-! ### Request queues of a memory port -/

/-- A memory port's record. -/
def mport (n : Nat) (s : State) : MpPort := mgetD s.port.mp n {}

/-- Change a memory port. -/
def modMp (n : Nat) (f : MpPort → MpPort) (s : State) : State :=
  { s with port := { s.port with mp := mupd s.port.mp n {} f } }

/-- Change the Reservoir's part. -/
def modRsvr (f : RsvrState → RsvrState) (s : State) : State := { s with rsvr := f s.rsvr }

/-- The port takes wide requests: in service, or failing while its buckets move (R295), and not between QUIESCE and RESUME
(R59). -/
def mpOpenFor (m : MpPort) : Bool := (m.st == .inService || m.st == .failing) && !m.quiet

/-- The first waiting request that may issue: it holds its credits (R54), and no earlier request for its granule is
open or waits ahead (R55); a narrow access holds its granule busy too (R292). -/
def mpReady (m : MpPort) : List Nat → List MpReq → Option MpReq
  | _, [] => none
  | busy, r :: l =>
    if m.reqCred = 0 || busy.contains r.gran || (r.write && m.wdCred = 0) then mpReady m (r.gran :: busy) l else some r

/-- Issue what the port's credits allow. -/
def mpIssue (n : Nat) : Nat → State → State
  | 0, s => s
  | fuel + 1, s =>
    let m := mport n s
    if !mpOpenFor m then s
    else match mpReady m (m.opened.map (·.req.gran) ++ m.narrow.map (·.word / 32)) m.waiting, freeTag 512 (m.opened.map (·.tag)) with
    | some r, some t =>
      let s := modMp n (fun m => { m with
        reqCred := m.reqCred - 1
        wdCred := if r.write then m.wdCred - 1 else m.wdCred
        waiting := m.waiting.erase r
        opened := m.opened ++ [⟨t, r, bitsOf 4 r.smask⟩] }) s
      let s := count 5 (if r.write then 1 else 0) n 1 (count 5 2 n (bitsOf 4 r.smask).length s)
      mpIssue n fuel (emit (.mpReq n t r (dataChk r.data r.bad)) s)
    | _, _ => s

/-- A narrow request may go: 16 are open at most, never two to one word (R58), and no request of the wide path for its
granule is open; the manager's goes behind those that wait for it (R292). -/
def nrReady (m : MpPort) (r : NrReq) : Bool :=
  !(m.narrow.any fun o => o.word == r.word) && !(m.opened.any fun o => o.req.gran == r.word / 32)
    && !(r.who && mpOpenFor m && m.waiting.any fun q => q.gran == r.word / 32)

/-- Issue waiting narrow requests (R58). -/
def nrIssue (n : Nat) : Nat → State → State
  | 0, s => s
  | f + 1, s =>
    let m := mport n s
    match m.narrowWait.find? (nrReady m), freeTag 16 (m.narrow.map (·.tag)) with
    | some r, some t =>
      let r' := { r with tag := t }
      nrIssue n f (emit (.mpNarrow n r' (chkOf r'.data r'.bad)) (modMp n (fun m => { m with
        narrow := m.narrow ++ [r'], narrowWait := m.narrowWait.erase r }) s))
    | _, _ => s

/-- The words of a granule request, one narrow request each (R292). -/
def nrWords (r : MpReq) : List NrReq :=
  (bitsOf 4 r.smask).flatMap fun i => (List.range 8).map fun j =>
    { tag := 0, write := r.write, word := 32 * r.gran + 8 * i + j, kslot := r.kslot
      data := if r.write then BitVec.ofNat 64 (ofBytes ((r.data.drop (64 * i + 8 * j)).take 8)) else 0
      who := false, fill := !r.write, bad := r.bad.contains (8 * i + j) }

/-- Hand a granule request to a port. While the wide path is quiesced, one of memory outside every envelope goes over the
narrow path (R292). -/
def mpSend (n : Nat) (r : MpReq) (s : State) : State :=
  if (mport n s).quiet && r.kslot == 0 then
    nrIssue n 16 (modMp n (fun m => { m with narrowWait := m.narrowWait ++ nrWords r }) s)
  else mpIssue n 1 (modMp n (fun m => { m with waiting := m.waiting ++ [r] }) s)

/-! ### Placement -/

/-- GiB in bytes. -/
def gib : Nat := 2 ^ 30

/-- The bucket of a local address (R285). -/
def bucketOf (l : Nat) (s : State) : Nat := xorFold 8 8 ((s.spl.chip % 16 * 2 ^ 44 + l) % 2 ^ 48 / 256)

/-- The placement of a bucket. -/
def bucket (b : Nat) (s : State) : Bucket := mgetD s.rsvr.buckets b {}

/-- The envelope of whose mirrored pair a local address is part, in either range (R365). -/
def pairOf (l : Nat) (s : State) : Option Env :=
  (s.env.envs.find? fun e => e.2.move != .idle
    && ((e.2.lbase * gib ≤ l && l < (e.2.lbase + e.2.llen) * gib)
      || (e.2.newBase * gib ≤ l && l < (e.2.newBase + e.2.llen) * gib))).map (·.2)

/-- The address at which an access is ordered and served: that of the primary of a mirrored pair (R365). LBASE is always the
primary's. -/
def homeAddr (l : Nat) (s : State) : Nat :=
  match pairOf l s with
  | some v => if v.lbase * gib ≤ l && l < (v.lbase + v.llen) * gib then l else l - v.newBase * gib + v.lbase * gib
  | none => l

/-- Keys of the movers' own work: the scrub of an envelope's range, the copy of a mirrored pair, the bucket that moves. -/
def scrubJob (e : Nat) : Nat := e
def moveJob (e : Nat) : Nat := 64 + e
def bucketJob : Nat := 128

/-- Bytes of a mirrored pair that its copy has reached: all of them once it has ended (R365). -/
def pairReached (v : Env) (s : State) : Nat :=
  if v.move != .copying then v.llen * gib
  else match s.env.envs.find? fun e => e.2.vf == v.vf with
    | some e => mgetD s.que.jobs (moveJob e.1) 0
    | none => 0

/-- The matching address of the secondary, where the bytes of a write go as well that the copy has reached, and how many
of them (R365). What goes to a piece that a mover has still in hand is overwritten when it is copied. -/
def pairAddr (l len : Nat) (s : State) : Option (Nat × Nat) :=
  match pairOf l s with
  | some v =>
    let o := homeAddr l s - v.lbase * gib
    if o < pairReached v s then some (o + v.newBase * gib, min len (pairReached v s - o)) else none
  | none => none

/-- A local address is device memory (R287, R297). -/
def inExtent (l : Nat) (s : State) : Bool := l < s.rsvr.extent * gib

/-- The envelope that owns a local address (R354): one whose local memory range, or mirrored range, holds it. -/
def ownerEnv (l : Nat) (s : State) : Option Nat :=
  (s.env.envs.find? fun e => (e.2.lbase * gib ≤ l && l < (e.2.lbase + e.2.llen) * gib)
    || (e.2.move != .idle && e.2.newBase * gib ≤ l && l < (e.2.newBase + e.2.llen) * gib)).map (·.1)

/-- Key slot of a local address (R290, R353): envelope index + 1, or 0 outside every envelope. -/
def kslotOf (l : Nat) (s : State) : Nat :=
  match ownerEnv l s with
  | some e => e + 1
  | none => 0

/-- Granule number of a local address on the port of a placement (R287). -/
def granOf (base l : Nat) : Nat := base + l / 65536

/-- Where the bucket that moves goes (R296). -/
def movingTo (b : Nat) (s : State) : Option (Nat × Nat) :=
  ((s.rsvr.moves.take 1).find? fun m => m.bucket == b).map fun m => (m.port, m.base)

/-- Places a write goes to: the bucket's place, and both during its move (R296). -/
def writePlaces (b : Nat) (s : State) : List (Nat × Nat) :=
  let k := bucket b s
  (k.port, k.base) :: (movingTo b s).toList ++ (s.rsvr.dual.filter fun d => d.1 == b).map fun d => (d.2.1, d.2.2.1)

/-- The movers have still in hand the block of a local address, which its bucket's move has reached. -/
def inHand (l : Nat) (s : State) : Bool :=
  s.que.reqs.any fun e => match e.2.op with
    | .shift gs => gs.contains (l / 256 * 256)
    | _ => false

/-- The place a read goes to: the new port for blocks that the bucket's move has copied, the old one otherwise (R296). -/
def readPlace (l : Nat) (s : State) : Nat × Nat :=
  let k := bucket (bucketOf l s) s
  match movingTo (bucketOf l s) s with
  | some p => if l / 65536 < mgetD s.que.jobs bucketJob 0 && !inHand l s then p else (k.port, k.base)
  | none => (k.port, k.base)

/-! ### Lines of the Reservoir -/

/-- Set of a line in its home slice (R279): slice × 1,536 + set. -/
def lineSet (ln : Nat) (s : State) : Nat :=
  (bucket (bucketOf (ln * 64) s) s).slice * 1536 + (ln / 1024 * 4 + ln % 4) % 1536

/-- KEEP_WAYS (R281). -/
def keepWays (s : State) : Nat := min 8 (regFld rRSVR_CTRL 0 4 s)

/-- Lines of a set. -/
def setLines (set : Nat) (s : State) : Map RLine := s.rsvr.lines.filter fun e => lineSet e.1 s == set

/-- The least recently used of some lines. -/
def lruOf : Map RLine → Option Nat
  | [] => none
  | e :: r => some (r.foldl (fun (a : Nat × RLine) b => if b.2.stamp < a.2.stamp then b else a) e).1

/-- First line of the granule of a line. -/
def granLine (ln : Nat) : Nat := ln / 4 * 4

/-- Bytes of a granule. -/
def granData (ln : Nat) (s : State) : List Byte := cellsGet s.rsvr.mem (granLine ln * 64) 256

/-- Words of some bytes of device memory that are poison, by their index from the first (R387). -/
def badWords (a len : Nat) (s : State) : List Nat :=
  (List.range ((len + 7) / 8)).filter fun i => s.rsvr.poison.contains (a / 8 + i) || s.coh.poisoned.contains ((a / 8 + i) / 8)

/-- Some line of a granule is dirty. -/
def granDirty (ln : Nat) (s : State) : Bool :=
  (List.range 4).any fun i => (mget s.rsvr.lines (granLine ln + i)).any (·.dirty)

/-- Write the dirty lines of a granule back in one request (R290). -/
def writeBack (ln : Nat) (s : State) : State :=
  let g := granLine ln
  let dirty := (List.range 4).filter fun i => match mget s.rsvr.lines (g + i) with
    | some l => l.dirty
    | none => false
  let a := g * 64
  let r : MpReq := ⟨true, 0, ofBits dirty, kslotOf a s, granData g s, badWords a 256 s⟩
  let s := each (writePlaces (bucketOf a s) s) (fun p s => mpSend p.1 { r with gran := granOf p.2 a } s) s
  let s := count 4 2 (bucket (bucketOf a s) s).slice 1 s
  each dirty (fun i s => modRsvr (fun q => { q with lines := mmod q.lines (g + i) fun l => { l with dirty := false } }) s) s

/-- Chunks of a reduction, and the elements of one (R317). -/
def chunkCount (r : Reduction) : Nat := ceilDiv r.count 1024
def chunkElems (r : Reduction) (k : Nat) : Nat := min 1024 (r.count - 1024 * k)

/-- The element format, whether its accumulator is of the 2,176-bit class, and whether accumulators serve it. -/
def redFmt (r : Reduction) : Fmt := (fmtOf r.fmt).getD .fp32
def redWide (r : Reduction) : Bool := redFmt r == .fp64
def redExact (r : Reduction) : Bool := r.op == 0 && !r.ordered

/-- Bytes of a chunk's locked state (R318). -/
def chunkState (r : Reduction) (k : Nat) : Nat :=
  if redExact r then (if redWide r then 272 * 1024 else 40 * 1024) else ceilDiv (chunkElems r k * fmtWidth (redFmt r)) 8

/-- Locked bytes in use (R318). -/
def lockUsed (s : State) : Nat :=
  (s.cis.reds.map fun e => ((e.2.chunks.filter fun c => c.2.started && !c.2.released).map fun c => chunkState e.2 c.1).foldl
    (· + ·) 0).foldl (· + ·) 0

/-- Ways of each set that hold locked state of reductions, which lies evenly over the sets of the 72 slices, at most 6
(R281, log 144). -/
def lockWays (s : State) : Nat := min 6 (ceilDiv (lockUsed s) (72 * 1536 * 64))

/-- A line leaves its set: the least recently used one that is not keep-marked, or the least recently used where all
are; a dirty one is written back. -/
def evictOne (ln : Nat) (s : State) : State :=
  let l := setLines (lineSet ln s) s
  let cand := l.filter fun e => !e.2.keep
  match lruOf (if cand.isEmpty then l else cand) with
  | none => s
  | some v =>
    let s := match mget s.rsvr.lines v with
      | some x => if x.dirty then writeBack v s else s
      | none => s
    modRsvr (fun q => { q with lines := mdel q.lines v }) s

/-- Make room in the set of a line, of whose 16 ways some may be locked (R281). -/
def makeRoom (ln : Nat) (s : State) : State :=
  each (List.range ((setLines (lineSet ln s) s).length + 1 - (16 - lockWays s))) (fun _ => evictOne ln) s

/-- Place a line by its hint (R282). -/
def placeLine (ln hint : Nat) (write : Bool) (s : State) : State :=
  let n := s.rsvr.stamp + 1
  let old := mgetD s.rsvr.lines ln {}
  let keep := if hint = 2 then true else if hint = 3 then false else old.keep
  let s := if hint = 2 && !old.keep then
      let ks := (setLines (lineSet ln s) s).filter fun e => e.2.keep
      if keepWays s ≤ ks.length then
        match lruOf ks with
        | some v => modRsvr (fun q => { q with lines := mmod q.lines v fun l => { l with keep := false } }) s
        | none => s
      else s
    else s
  modRsvr (fun q => { q with
    stamp := n
    lines := mset q.lines ln { dirty := old.dirty || write, keep := keep && 0 < keepWays s
                               stamp := if hint = 1 || hint = 3 then -(n : Int) else n } }) s

/-- Fill the granule of a line that missed: every sector the slice does not hold, allocated (R290). -/
def fillGranule (ln hint : Nat) (s : State) : State :=
  let g := granLine ln
  let miss := (List.range 4).filter fun i => (mget s.rsvr.lines (g + i)).isNone
  let a := g * 64
  let b := readPlace a s
  let s := mpSend b.1 ⟨false, granOf b.2 a, ofBits miss, kslotOf a s, [], []⟩ s
  each miss (fun i s => placeLine (g + i) hint false (makeRoom (g + i) s)) s

/-- One access to a line: hit or miss, and its place afterwards. -/
def touchLine (ln hint : Nat) (write whole : Bool) (s : State) : State :=
  let slice := (bucket (bucketOf (ln * 64) s) s).slice
  match mget s.rsvr.lines ln with
  | some _ => placeLine ln hint write (count 4 0 slice 1 s)
  | none =>
    let s := count 4 1 slice 1 s
    if write && whole then placeLine ln hint true (makeRoom ln s)
    else placeLine ln hint write (fillGranule ln hint s)

/-- A use of a line that has been asked for: its recency, and its being dirty after a write. A line that has left the
slice since is taken back only for a write. -/
def useLine (ln hint : Nat) (write : Bool) (s : State) : State :=
  if (mget s.rsvr.lines ln).isSome then placeLine ln hint write s
  else if write then placeLine ln hint true (makeRoom ln s) else s

/-- A fill of a line that its port has still to answer (R55, R290), on either path (R292). -/
def fillOpen (ln : Nat) (s : State) : Bool :=
  let a := granLine ln * 64
  (writePlaces (bucketOf a s) s).any fun b =>
    let m := mport b.1 s
    let mine (r : MpReq) : Bool := !r.write && r.gran == granOf b.2 a && r.smask / 2 ^ (ln % 4) % 2 == 1
    let word (r : NrReq) : Bool := !r.who && !r.write && r.word / 8 == 4 * granOf b.2 a + ln % 4
    m.waiting.any mine || (m.opened.any fun o => mine o.req && o.left.contains (ln % 4)) || (m.narrow ++ m.narrowWait).any word

/-- Lines that a range touches. -/
def linesOf (a len : Nat) : List Nat := (List.range ((a + len - 1) / 64 + 1 - a / 64)).map fun i => a / 64 + i

/-- 8-byte words that a range touches. -/
def wordsOf (a len : Nat) : List Nat := (List.range ((a + len - 1) / 8 + 1 - a / 8)).map fun i => a / 8 + i

/-- Words wholly inside a range. -/
def wholeWords (a len : Nat) : List Nat :=
  (wordsOf a len).filter fun w => a ≤ w * 8 && w * 8 + 8 ≤ a + len

/-- Poison at a range: words held as poison (R291), and lines poisoned by reclaim (R276). -/
def poisonAt (a len : Nat) (s : State) : Bool :=
  (wordsOf a len).any (fun w => s.rsvr.poison.contains w) || (linesOf a len).any (fun l => s.coh.poisoned.contains l)

/-- Poisoned spans of a range, as offsets in it and lengths: poison keeps its grain of 8 bytes (R387); beyond the extent
all is poison (R297). -/
def badSpans (l len : Nat) (s : State) : List (Nat × Nat) :=
  if len = 0 then []
  else if !inExtent (l + len - 1) s then [(0, len)]
  else
    let a := homeAddr l s
    ((wordsOf a len).filter fun w => poisonAt (w * 8) 8 s).map fun w => (w * 8 - a, min (a + len) (w * 8 + 8) - max a (w * 8))

/-- Hold words as poison, with D = 0 (R387), in both places of a mirrored pair (R365). -/
def addPoison (ws : List Nat) (s : State) : State :=
  let all := ws.map (fun w => homeAddr (w * 8) s / 8) ++ ws.filterMap (fun w => (pairAddr (w * 8) 8 s).map (·.1 / 8))
  modRsvr (fun q => { q with
    poison := all.foldl (fun p w => insNat w p) q.poison
    mem := all.foldl (fun m w => cellsClear m (w * 8) 8) q.mem }) s

/-- Set bytes of device memory at one place; a write of a whole word clears its poison (R291), a write of a whole line
clears the poison of a reclaim (R276). -/
def rawPut (a : Nat) (d : List Byte) (s : State) : State :=
  let ws := wholeWords a d.length
  let ls := (linesOf a d.length).filter fun l => a ≤ l * 64 && l * 64 + 64 ≤ a + d.length
  let s := modRsvr (fun q => { q with
    mem := cellsSet q.mem a d, poison := q.poison.filter fun w => !ws.contains w }) s
  { s with coh := { s.coh with poisoned := s.coh.poisoned.filter fun l => !ls.contains l } }

/-- Set bytes of device memory: at the home, and at the matching address of a mirrored pair (R365). -/
def memPut (a : Nat) (d : List Byte) (s : State) : State :=
  let s' := rawPut (homeAddr a s) d s
  match pairAddr a d.length s with
  | some (b, n) => rawPut b (d.take n) s'
  | none => s'

/-- Zero a range at one place, poison and all. -/
def rawClear (a len : Nat) (s : State) : State :=
  modRsvr (fun q => { q with
    mem := cellsClear q.mem a len, poison := q.poison.filter fun w => w * 8 < a || a + len ≤ w * 8 }) s

/-- Zero a range at its home and in a mirrored pair. -/
def memClear (a len : Nat) (s : State) : State :=
  let s' := rawClear (homeAddr a s) len s
  match pairAddr a len s with
  | some (b, n) => rawClear b n s'
  | none => s'

/-! ### Dirty-page logging (R374 to R376) -/

/-- Change the dirty log of an envelope. -/
def modDirty (e : Nat) (f : Dirty → Dirty) (s : State) : State :=
  { s with env := { s.env with envs := mmod s.env.envs e fun v => { v with dirty := v.dirty.map f } } }

/-- The dirty log of an envelope, while logging is enabled. -/
def dirtyOf (e : Nat) (s : State) : Option Dirty := (mget s.env.envs e).bind (·.dirty)

/-- The ring holds no further record. -/
def dirtyFull (d : Dirty) : Bool := 2 ^ d.k ≤ dist32 d.tail d.head

/-- Write a record into a ring that has room (R375): PHASE, KIND and the page, untranslated through the physical function. -/
def dirtyWrite (e : Nat) (host : Bool) (page : Nat) (s : State) : State :=
  match dirtyOf e s with
  | none => s
  | some d =>
    let a := if host then page * 4096 else s.spl.chip % 2 ^ 13 * 2 ^ 43 + page * 4096
    let w := d.tail / 2 ^ d.k % 2 + 2 * b2n host + a % 2 ^ 57
    let s := (viaPrimary ⟨4, 0, none, .write 0 none (d.ring + 8 * (d.tail % 2 ^ d.k)) (toBytes 8 w), 1, none⟩ s).2
    modDirty e (fun d => { d with
      tail := (d.tail + 1) % 2 ^ 32, recs := d.recs ++ [(host, page)]
      logged := if host then d.logged else insNat page d.logged }) s

/-- A page of an envelope's local range has been written: logged once, or pending while the ring is full (R376). -/
def dirtyPage (e page : Nat) (s : State) : State :=
  match dirtyOf e s with
  | none => s
  | some d =>
    if !d.device || d.logged.contains page || d.pend.contains page then s
    else if dirtyFull d then setEvent rENV_EVENT 5 (modDirty e (fun d => { d with pend := insNat page d.pend }) s)
    else dirtyWrite e false page s

/-- A write accepted at a home in an envelope's range (R374). -/
def dirtyDevice (a len : Nat) (s : State) : State :=
  match s.env.envs.find? fun e => e.2.lbase * gib ≤ a && a < (e.2.lbase + e.2.llen) * gib with
  | some (e, v) =>
    if v.dirty.isNone || len = 0 then s
    else
      let o := a - v.lbase * gib
      each ((List.range ((o + len - 1) / 4096 + 1 - o / 4096)).map fun i => o / 4096 + i) (dirtyPage e) s
  | none => s

/-- HOST logging of an envelope can take no record now: its host writes wait (R376). -/
def dirtyBlocks (e : Option Nat) (s : State) : Bool :=
  match e.bind fun i => dirtyOf i s with
  | some d => d.host && dirtyFull d
  | none => false

/-- Pages leave the filter of recent host pages. -/
def dropPages (f : Nat × Nat → Bool) (s : State) : State :=
  { s with env := { s.env with hostPages := s.env.hostPages.filter fun x => !f x } }

/-- A page enters the filter of recent host pages: 4,096 entries that every logging envelope shares (R376). -/
def keepPage (e page : Nat) (s : State) : State :=
  let l := s.env.hostPages ++ [(e, page)]
  { s with env := { s.env with hostPages := l.drop (l.length - 4096) } }

/-- A host page written by an envelope's context (R374). A page that the filter of recent host pages holds for the envelope
is not recorded again (R376; log 32). -/
def dirtyHost (e : Option Nat) (addr : Nat) (s : State) : State :=
  match e with
  | none => s
  | some i => match dirtyOf i s with
    | none => s
    | some d =>
      if !d.host || s.env.hostPages.contains (i, addr / 4096) then s
      else keepPage i (addr / 4096) (dirtyWrite i true (addr / 4096) s)

/-- A read of a poisoned line of a reclaim raises a level-1 event, once per line (R276). -/
def firstPoisonRead (a len : Nat) (s : State) : State :=
  each ((linesOf a len).filter fun l => s.coh.poisoned.contains l && !s.coh.poisonSeen.contains l) (fun l s =>
    raise (144 + (bucket (bucketOf (l * 64) s) s).slice) .poisoned none (ownerEnv (l * 64) s) l
      { s with coh := { s.coh with poisonSeen := insNat l s.coh.poisonSeen } }) s

/-- Read at the home, once the lines are there: bytes, and whether any of them is poison. Reads at or above the extent
return poison and are counted (R297). -/
def homeRead (a len hint : Nat) (s : State) : List Byte × Bool × State :=
  if len = 0 then ([], false, s)
  else if !inExtent (a + len - 1) s then
    (List.replicate len 0, true, modRsvr (fun q => { q with outside := satAdd 32 q.outside 1 }) s)
  else
    let a := homeAddr a s
    let s := each (linesOf a len) (fun l s => useLine l hint false s) s
    (cellsGet s.rsvr.mem a len, poisonAt a len s, firstPoisonRead a len s)

/-- Is a write a stream write (R282, R290): a whole aligned granule under hint 1? -/
def streamGran (a len hint : Nat) : Bool := hint = 1 && a % 256 = 0 && len = 256

/-- Write at the home, some of its words as poison (R387). Writes at or above the extent are discarded and counted (R297). -/
def homeStore (a : Nat) (d : List Byte) (hint : Nat) (bad : List Nat) (s : State) : State :=
  if d.isEmpty then s
  else if !inExtent (a + d.length - 1) s then modRsvr (fun q => { q with outside := satAdd 32 q.outside 1 }) s
  else
    let b := a
    let a := homeAddr b s
    let s := dirtyDevice a d.length (addPoison bad (memPut b d s))
    if streamGran a d.length hint then
      let s := modRsvr (fun q => { q with lines := (List.range 4).foldl (fun m i => mdel m (a / 64 + i)) q.lines }) s
      each (writePlaces (bucketOf a s) s)
        (fun p s => mpSend p.1 ⟨true, granOf p.2 a, 0xF, kslotOf a s, d, badWords a 256 s⟩ s) s
    else each (linesOf a d.length) (fun l s =>
      if a ≤ l * 64 && l * 64 + 64 ≤ a + d.length then touchLine l hint true true s else useLine l hint true s) s

/-- Write good data at the home. -/
def homeWrite (a : Nat) (d : List Byte) (hint : Nat) (s : State) : State := homeStore a d hint [] s

/-! ### Atomics -/

/-- Format of an atomic's floating-point operand, where FMT and width agree (R325). -/
def atomFmt (fmt width : Nat) : Option Fmt :=
  match fmtOf fmt with
  | some .fp64 => if width = 8 then some .fp64 else none
  | some .fp32 => if width = 4 then some .fp32 else none
  | some .bf16 => if width = 2 then some .bf16 else none
  | some .fp16 => if width = 2 then some .fp16 else none
  | _ => none

/-- XADD's operand formats (R326). -/
def xaddFmt (fmt width : Nat) : Option Fmt :=
  match fmtOf fmt with
  | some .fp32 => if width = 4 then some .fp32 else none
  | some .bf16 => if width = 2 then some .bf16 else none
  | some .fp16 => if width = 2 then some .fp16 else none
  | some .e4m3 => if width = 1 then some .e4m3 else none
  | some .e5m2 => if width = 1 then some .e5m2 else none
  | _ => none

/-- Is the operation legal at an address (R283, Table 12-2, R325, R326)? -/
def atomOk (o : AtomOp) (va : Nat) : Bool :=
  if o.aop ≤ 1 then (o.width = 4 || o.width = 8 || o.width = 16) && va % o.width = 0
  else if o.aop ≤ 9 then (o.width = 4 || o.width = 8) && va % o.width = 0
  else if o.aop ≤ 12 then (atomFmt o.fmt o.width).isSome && va % o.width = 0
  else o.aop = 13 && (xaddFmt o.fmt o.width).isSome && va % 64 = 0

/-- Bytes of memory the operation works on: the operand's width, or the 40 bytes of an XADD slot (R284, R326). -/
def atomSpan (o : AtomOp) : Nat := if o.aop = 13 then 40 else o.width

/-- The result left in memory (Table 12-2), from the old value. -/
def atomResult (o : AtomOp) (old : Nat) : Nat :=
  let n := 8 * o.width
  let x := o.operand.toNat % 2 ^ n
  match o.aop with
  | 0 => x
  | 1 => if old = o.compare.toNat % 2 ^ n then x else old
  | 2 => (old + x) % 2 ^ n
  | 3 => Nat.land old x
  | 4 => Nat.lor old x
  | 5 => Nat.xor old x
  | 6 => if signed n old < signed n x then x else old
  | 7 => if signed n x < signed n old then x else old
  | 8 => max old x
  | 9 => min old x
  | 13 => match xaddFmt o.fmt o.width with
    | some f => accBits false (accAdd false (decodeVal f x) (accOf false old))
    | none => old
  | k => match atomFmt o.fmt o.width with
    | some f => if k = 10 then addElem f 0 false old x else maxMin f (k == 11) old x
    | none => old

/-- Perform an atomic at the home, in the lane that serves its slice (R17): the old value (0 for XADD), or poison that
leaves everything unchanged (R284). An XADD that sets OVF is recorded in CIS_EVENT (R310). -/
def homeAtomic (a : Nat) (o : AtomOp) (hint : Nat) (s : State) : Nat × Bool × State :=
  let n := atomSpan o
  let (bs, bad, s) := homeRead a n hint s
  let slice := (bucket (bucketOf (homeAddr a s) s) s).slice
  let s := count 4 3 slice 1 s
  if bad then (0, true, s)
  else
    let old := ofBytes bs
    let new := atomResult o old
    let s := count 8 0 (laneOf slice s) o.width (whenS (o.aop == 10) (count 8 1 (laneOf slice s) 1) s)
    let s := homeWrite a (toBytes n new) hint s
    let s := whenS (o.aop == 13 && (accOf false new).ovf && !(accOf false old).ovf) (setEvent rCIS_EVENT 5) s
    (if o.aop = 13 then 0 else old, false, s)

end Sys2Proof.Machine
end

