-- ==== Sys2Proof/Machine/Cf.lean ====
section
/-! DEFINITION. Core fabric ports: credits and downstream flits (R64, R65). -/
namespace Sys2Proof.Machine

/-- A core fabric port's record. -/
def cfport (n : Nat) (s : State) : CfPort := mgetD s.port.cf n {}

/-- Change a core fabric port. -/
def modCf (n : Nat) (f : CfPort → CfPort) (s : State) : State :=
  { s with port := { s.port with cf := mupd s.port.cf n {} f } }

/-- Send a downstream flit on a channel while a credit is held; otherwise it waits in order (R64). -/
def cfSend (n vc : Nat) (m : CfMsg) (s : State) : State :=
  let c := cfport n s
  let have_ := mgetD c.dn vc 0
  if have_ = 0 || c.waiting.any (fun w => w.1 == vc) then modCf n (fun c => { c with waiting := c.waiting ++ [(vc, m)] }) s
  else emit (.cf n vc m) (modCf n (fun c => { c with dn := mset c.dn vc (have_ - 1) }) s)

/-- Send waiting flits of a channel. -/
def cfDrain (n vc : Nat) : Nat → State → State
  | 0, s => s
  | k + 1, s =>
    let c := cfport n s
    match c.waiting.find? fun w => w.1 == vc with
    | some w =>
      if mgetD c.dn vc 0 = 0 then s
      else cfDrain n vc k (emit (.cf n vc w.2) (modCf n (fun c => { c with
        dn := mset c.dn vc (mgetD c.dn vc 0 - 1), waiting := c.waiting.erase w }) s))
    | none => s

/-- Grant an upstream credit back (R64). -/
def cfGrant (n vc k : Nat) (s : State) : State := emit (.cfCredit n vc k) s

/-- CF_CREDIT_RETURN (R64): one credit per set bit, at most 255 held per channel; waiting flits go. -/
def execCfCreditReturn (p : CF) (mask : BitVec 8) (s : State) : Res :=
  answer (each (bitsOf 8 mask.toNat) (fun vc s =>
    cfDrain p.val vc 1 (modCf p.val (fun c => { c with dn := mset c.dn vc (min 255 (mgetD c.dn vc 0 + 1)) }) s)) s)

/-- Cut bytes into flits of 64. -/
def flits : Nat → Nat → List Byte → List (Nat × List Byte)
  | 0, i, d => [(i, d.take 64)]
  | n + 1, i, d => if d.length ≤ 64 then [(i, d)] else (i, d.take 64) :: flits n (i + 1) (d.drop 64)

/-- Send a core's response with its data flits; a refused request has none. -/
def cfRespond (cf core engine tag : Nat) (st : Status) (data : List Byte) (s : State) : State :=
  let fs := if st == .ok then flits 4096 0 data else [(0, [])]
  each fs (fun f s => cfSend cf 1 (.rsp core engine tag (rspCode st) f.1 f.2 false) s) s

end Sys2Proof.Machine
end

