-- ==== Sys2Proof/Machine/Coherence.lean ====
section
/-! DEFINITION. Chapter 11: homes, their directory and transactions, the host proxy, dead agents and page bias. -/
namespace Sys2Proof.Machine

/-! ### Keys, agents and messages -/

/-- Key of a host line. -/
def hostKey (addr : Nat) : Nat := 2 ^ 50 + addr / 64

/-- A key names a host line. -/
def isHostKey (k : Nat) : Bool := 2 ^ 50 ≤ k

/-- Address of a line key. -/
def keyAddr (k : Nat) : Nat := if isHostKey k then (k - 2 ^ 50) * 64 else k * 64

def modCoh (f : CohState → CohState) (s : State) : State := { s with coh := f s.coh }

/-- Directory entry of a line. -/
def dirEnt (k : Nat) (s : State) : DirEnt := mgetD s.coh.dir k { host := isHostKey k }

/-- An entry that names no holder, no transaction and no proxy state is freed. -/
def setDir (k : Nat) (e : DirEnt) (s : State) : State :=
  if e.owner.isNone && e.sharers.isEmpty && e.groups.isEmpty && e.txn.isNone && e.waiting.isEmpty && e.hstate = 0 then
    modCoh (fun c => { c with dir := mdel c.dir k }) s
  else modCoh (fun c => { c with dir := mset c.dir k e }) s

/-- Agents of Table 11-1: licensee, mooring core, host. -/
def isCoreAgent (a : Nat) : Bool := a < 512
def isMoorAgent (a : Nat) : Bool := 512 ≤ a && a ≤ 528
def isHostAgent (a : Nat) : Bool := 544 ≤ a && a ≤ 547

/-- An agent's record. Mooring cores are enabled from the start. -/
def agentRec (a : Nat) (s : State) : Agent :=
  match mget s.coh.agents a with
  | some x => x
  | none => if isMoorAgent a then { st := .active, en := true } else {}

/-- State of an agent. -/
def agentSt (a : Nat) (s : State) : AgentSt := (agentRec a s).st

/-- The host port through which the proxy speaks CXL.cache to the host. -/
def cachePort (s : State) : Nat :=
  ((List.range 4).find? fun p => cxlCacheOn p s).getD 0

/-- Send a coherence message to an agent on the channel of its class (R259); a dead agent gets none (R275). -/
def cohSend (a vc msg txn addr arg : Nat) (d : List Byte) (bad : Bool) (s : State) : State :=
  if agentSt a s == .dead then s
  else if isCoreAgent a then cfSend (a / 8) vc (.coh a msg txn addr arg d bad) s
  else if isMoorAgent a then emit (.moor (.coh a msg txn addr arg d bad)) s
  else if msg = 0x10 || msg = 0x11 then tell (a - 544) (.biSnp addr (msg == 0x11)) s
  else tell (a - 544) (.cxlRsp txn msg d) s

/-- Unit source of an agent for errors: its core fabric port, mooring core or host port. -/
def agentSrc (a : Nat) : Nat :=
  if isCoreAgent a then 512 + a else if isMoorAgent a then 420 + (a - 512) else 36 + (a - 544)

/-- Envelope of an agent: that of its core. -/
def agentEnv (a : Nat) (s : State) : Option Nat :=
  if isCoreAgent a then (s.env.envs.find? fun e => e.2.cores.contains a).map (·.1) else none

/-- Data of a line, and whether it is poison. -/
def lineData (k : Nat) (s : State) : List Byte × Bool :=
  if isHostKey k then (mgetD s.coh.hostData k (List.replicate 64 0), s.coh.poisoned.contains k)
  else (cellsGet s.rsvr.mem (homeAddr (k * 64) s) 64, poisonAt (homeAddr (k * 64) s) 64 s)

/-- The proxy holds a host line as poison, or as good data (R273, R276). -/
def markHost (k : Nat) (bad : Bool) (s : State) : State :=
  modCoh (fun c => { c with
    poisoned := if bad then insNat k c.poisoned else c.poisoned.filter (· != k)
    poisonSeen := if bad then c.poisonSeen else c.poisonSeen.filter (· != k) }) s

/-- A grant of a poisoned line is a read of it, which raises the line's event the first time (R276). -/
def readPoison (k : Nat) (bad : Bool) (s : State) : State :=
  if !bad then s
  else if !isHostKey k then firstPoisonRead (homeAddr (k * 64) s) 64 s
  else if s.coh.poisonSeen.contains k then s
  else raise (36 + cachePort s) .poisoned none none 0 (modCoh (fun c => { c with poisonSeen := insNat k c.poisonSeen }) s)

/-- Merge a dirty line into the Reservoir, or into the proxy's copy (R266, R268). -/
def mergeData (k : Nat) (d : List Byte) (bad : Bool) (s : State) : State :=
  if isHostKey k then
    let s := markHost k bad (modCoh (fun c => { c with hostData := mset c.hostData k d }) s)
    let e := dirEnt k s
    setDir k { e with hstate := 3 } s
  else if ((ownerEnv (k * 64) s).bind fun e => mget s.env.envs e).any (fun v => v.st == .removing) then s
  else
    let s := dirtyDevice (homeAddr (k * 64) s) 64 (memPut (k * 64) d s)
    let s := if bad then addPoison (wordsOf (k * 64) 64) s else s
    touchLine k 0 true true s

/-! ### Holders -/

/-- Every holder a snoop of all must reach: pointers, or the enabled agents of the marked groups (R252). -/
def holders (e : DirEnt) (s : State) : List Nat :=
  match e.owner with
  | some o => [o]
  | none =>
    if e.coarse then (e.groups.map fun g => (List.range 16).map fun i => 16 * g + i).flatten.filter fun a =>
      agentSt a s == .active || agentSt a s == .flushing
    else e.sharers

/-- Add a sharer; a fifth makes the entry coarse (R252). -/
def addSharer (a : Nat) (e : DirEnt) : DirEnt :=
  if e.coarse then { e with groups := insNat (a / 16) e.groups }
  else if e.sharers.contains a then e
  else if e.sharers.length < 4 then { e with sharers := e.sharers ++ [a] }
  else { e with sharers := [], coarse := true, groups := (e.sharers ++ [a]).foldl (fun g x => insNat (x / 16) g) [] }

/-- Remove a sharer. A coarse vector keeps its group. -/
def dropSharer (a : Nat) (e : DirEnt) : DirEnt := { e with sharers := e.sharers.filter (· != a) }

/-- No holder is left. -/
def clearHolders (e : DirEnt) : DirEnt := { e with owner := none, sharers := [], coarse := false, groups := [] }

/-- An agent may be a sharer of the entry. -/
def isSharer (a : Nat) (e : DirEnt) : Bool := if e.coarse then e.groups.contains (a / 16) else e.sharers.contains a

/-- The sharers of an entry: the line is in S. -/
def inS (e : DirEnt) : Bool := e.owner.isNone && (!e.sharers.isEmpty || e.coarse)

/-! ### Transactions -/

/-- Grant a line to the requester and enter G_A; a host agent's grant is complete once its S2M message has left the
port (R271). `msg` is DataS, DataE or GrantE. The open request of a dead agent is discarded (R275). -/
def grantTo (k msg : Nat) (r : CohReq) (e : DirEnt) (s : State) : State :=
  if agentSt r.agent s == .dead then setDir k { e with txn := none } s
  else
  let (d, bad) := lineData k s
  let s := cohSend r.agent (if msg = 0x20 then 5 else 6) msg r.txn (keyAddr k) 0 (if msg = 0x20 then [] else d) bad
    (readPoison k (bad && msg ≠ 0x20) s)
  let ex := msg != 0x28
  if isHostAgent r.agent then
    setDir k (if ex then { clearHolders e with owner := some r.agent, txn := none }
      else { addSharer r.agent e with txn := none }) s
  else setDir k { e with txn := some { st := .gA, r := r, exclusive := ex } } s

/-- Send a snoop to each of some agents. -/
def snoopAll (k msg : Nat) (as : List Nat) (s : State) : State :=
  each as (fun a s => cohSend a 4 msg 0 (keyAddr k) 0 [] false s) s

/-- Open a snooping transaction: the entry is BUSY until its responses have come. Dead agents are taken as having
answered RspI (R275). -/
def openSnoop (k : Nat) (st : CohWait) (msg : Nat) (as : List Nat) (r : CohReq) (e : DirEnt) (s : State) : State :=
  snoopAll k msg as (setDir k { e with txn := some { st := st, r := r, snooped := as } } s)

/-- Mark a request of the block as ready to go on. -/
def cohReady (r : CohReq) (s : State) : State :=
  match r.req with
  | some i => modCoh (fun c => { c with ready := c.ready ++ [i] }) s
  | none => s

/-- What a host's D2H request must obtain before a request on a host line runs (Table 11-12): none when HSTATE
suffices. The codes are those of Table 11-12: 0 RdShared, 1 RdOwn, 2 RdCurr, 3 ItoMWr. -/
def d2hNeed (e : DirEnt) : CohKind → Option Nat
  | .rdShared => if e.hstate = 0 then some 0 else none
  | .rdOwn => if e.hstate < 2 then some 1 else none
  | .upgrade => if e.hstate < 2 then some 1 else none
  | .atomic => if e.hstate < 2 then some 1 else none
  | .ncRead => if e.hstate = 0 then some 2 else none
  | .ncWrite => if e.hstate < 2 then some 3 else none
  | _ => none

/-- Answer a host's H2D snoop: the resulting state, with data when the line was modified (R273). -/
def h2dAnswer (p k kind : Nat) (e : DirEnt) (s : State) : State :=
  let st := if kind = 1 then 0 else if kind = 0 then min 1 e.hstate else e.hstate
  let d := if e.hstate = 3 then mgetD s.coh.hostData k [] else []
  let s := setDir k { e with txn := none, hstate := if kind = 2 then e.hstate else st } s
  let bad := e.hstate = 3 && s.coh.poisoned.contains k
  tell p (.h2dRsp (keyAddr k) st d bad) (whenS (kind = 1) (markHost k false) s)

/-- A recall has reached every holder of an entry, which is freed; a host line goes back to the host, with DirtyEvict
from M and with CleanEvict from E or S (R253, R273). -/
def evictEntry (k : Nat) (e : DirEnt) (s : State) : State :=
  let e' := { clearHolders e with txn := none, hstate := 0 }
  if !e.host || e.hstate = 0 then setDir k e' s
  else
    let d := if e.hstate = 3 then mgetD s.coh.hostData k (List.replicate 64 0) else []
    tell (cachePort s) (.d2h (keyAddr k) (if e.hstate = 3 then 4 else 5) d (e.hstate = 3 && s.coh.poisoned.contains k))
      (markHost k false (modCoh (fun c => { c with hostData := mdel c.hostData k }) (setDir k e' s)))

/-- The home completes the transaction that opened a snooping state (Tables 11-8 and 11-9): `e` holds what the
responses left. -/
def finishTxn (k : Nat) (r : CohReq) (e : DirEnt) (s : State) : State :=
  let e := { e with txn := none }
  match r.kind with
  | .rdShared => grantTo k (if inS e then 0x28 else 0x29) r e s
  | .rdOwn => grantTo k 0x29 r (clearHolders e) s
  | .upgrade => grantTo k (if isSharer r.agent e then 0x20 else 0x29) r (clearHolders e) s
  | .ncRead => cohReady r (setDir k e s)
  | .ncWrite => cohReady r (setDir k (clearHolders e) s)
  | .atomic => cohReady r (setDir k (clearHolders e) s)
  | .inval => cohReady r (evictEntry k e s)
  | .h2d kind => h2dAnswer (r.agent - 544) k kind (if kind = 1 then clearHolders e else e) s
  | .wrBack => setDir k e s
  | .evictClean => setDir k e s

/-- An agent's violation (R274): discarded, VIOLATION set, a level-3 fault contained to the agent's envelope, or a
level-2 fault for a host agent whose port's CXL stays out of use. The agent is declared dead by the caller. -/
def violationEvent (a : Nat) (s : State) : State :=
  let s := setEvent rCOH_EVENT 1 s
  if isHostAgent a then
    raise (36 + (a - 544)) .coreError none none a (modCoh (fun c => { c with cxlOff := insNat (a - 544) c.cxlOff }) s)
  else raise (agentSrc a) .envelope none (agentEnv a s) a s

/-- Declare an agent dead (R274, R275): from here no message is accepted from it, and what it owes is taken as
answered by the sweep that follows. -/
def killAgent (a cause : Nat) (s : State) : State :=
  if agentSt a s == .dead then s
  else modCoh (fun c => { c with agents := mset c.agents a { agentRec a s with st := .dead, cause := cause, swept := false } }) s

/-- A violation by an agent. -/
def violation (a : Nat) (s : State) : State := killAgent a 5 (violationEvent a s)

/-- The home takes a request for a line that has no open transaction (Table 11-8). -/
def takeReq (k : Nat) (r : CohReq) (s : State) : State :=
  let n := s.coh.stamp + 1
  let e0 := dirEnt k s
  let e := { e0 with stamp := n }
  let s := modCoh (fun c => { c with stamp := n }) s
  match if e.host then d2hNeed e r.kind else none with
  | some op =>
    tell (cachePort s) (.d2h (keyAddr k) op [] false)
      (setDir k { e with txn := some { st := .go, r := r } } s)
  | none =>
    let others := (holders e s).filter (· != r.agent)
    match r.kind with
    | .rdShared =>
      match e.owner with
      | some o => if o = r.agent then violation r.agent s else openSnoop k .xSd 0x10 [o] r e s
      | none => grantTo k (if inS e then 0x28 else 0x29) r e s
    | .rdOwn =>
      match e.owner with
      | some o => if o = r.agent then violation r.agent s else openSnoop k .xSi 0x11 [o] r e s
      | none => if others.isEmpty then grantTo k 0x29 r (clearHolders e) s else openSnoop k .sSi 0x11 others r e s
    | .upgrade =>
      match e.owner with
      | some o => if o = r.agent then violation r.agent s else openSnoop k .xSi 0x11 [o] r e s
      | none =>
        if others.isEmpty then grantTo k (if isSharer r.agent e then 0x20 else 0x29) r (clearHolders e) s
        else openSnoop k .sSi 0x11 others r e s
    | .wrBack =>
      if e.owner == some r.agent then
        if isHostAgent r.agent then
          mergeData k r.data r.poison (tell (r.agent - 544) (.cxlRsp r.txn 0x22 [])
            (setDir k (clearHolders e) s))
        else cohSend r.agent 5 0x21 r.txn (keyAddr k) 0 [] false (setDir k { e with txn := some { st := .wD, r := r } } s)
      else cohSend r.agent 5 0x22 r.txn (keyAddr k) 0 [] false s
    | .evictClean =>
      let s := if e.owner == some r.agent then setDir k (clearHolders e) s else setDir k (dropSharer r.agent e) s
      cohSend r.agent 5 0x23 r.txn (keyAddr k) 0 [] false s
    | .ncRead =>
      match e.owner with
      | some o => openSnoop k .xSd 0x10 [o] r e s
      | none => cohReady r (setDir k e0 s)
    | .ncWrite =>
      match e.owner with
      | some o => openSnoop k .xSi 0x11 [o] r e s
      | none => if (holders e s).isEmpty then cohReady r (setDir k (clearHolders e) s)
                else openSnoop k .sSi 0x11 (holders e s) r e s
    | .atomic =>
      match e.owner with
      | some o => openSnoop k .xSi 0x11 [o] r e s
      | none => if (holders e s).isEmpty then cohReady r (setDir k (clearHolders e) s)
                else openSnoop k .sSi 0x11 (holders e s) r e s
    | .inval =>
      match e.owner with
      | some o => openSnoop k .xSi 0x11 [o] r e s
      | none => if (holders e s).isEmpty then cohReady r (evictEntry k e s)
                else openSnoop k .sSi 0x11 (holders e s) r e s
    | .h2d kind =>
      match e.owner with
      | some o => openSnoop k (if kind = 1 then .xSi else .xSd) (if kind = 1 then 0x11 else 0x10) [o] r e s
      | none => if kind = 1 && !(holders e s).isEmpty then openSnoop k .sSi 0x11 (holders e s) r e s
                else h2dAnswer (r.agent - 544) k kind e s

/-- Slice and set of a directory entry. -/
def dirPlace (k : Nat) (s : State) : Nat :=
  (if isHostKey k then Config.hostSlice k % 72 else (bucket (bucketOf (k * 64) s) s).slice) * 8192
    + Config.dirSet k % 8192

/-- The slice of a directory entry. -/
def dirSlice (k : Nat) (s : State) : Nat := dirPlace k s / 8192

/-- A new entry would need a way of a full set. -/
def setFull (k : Nat) (s : State) : Bool :=
  (mget s.coh.dir k).isNone && 16 ≤ (s.coh.dir.filter fun e => dirPlace e.1 s == dirPlace k s).length

/-- The least recently used stable entry of a line's set. -/
def lruEntry (k : Nat) (s : State) : Option Nat :=
  match s.coh.dir.filter fun e => dirPlace e.1 s == dirPlace k s && e.2.txn.isNone with
  | [] => none
  | e :: r => some (r.foldl (fun (a : Nat × DirEnt) b => if b.2.stamp < a.2.stamp then b else a) e).1

/-- Kinds of request that leave an entry behind in state I. -/
def needsEntry : CohKind → Bool
  | .rdShared => true | .rdOwn => true | .upgrade => true | _ => false

/-- A request of the block is already at the home of a line. -/
def atHome (k : Nat) (r : CohReq) (s : State) : Bool :=
  let e := dirEnt k s
  r.req.isSome && (e.waiting.any (fun w => w.req == r.req) || e.txn.any (fun t => t.r.req == r.req)
    || s.coh.setWait.any fun w => w.1 == k && w.2.req == r.req)

/-- Recall an entry of a line's set: the least recently used stable one (R253). -/
def recallOne (v : Nat) (s : State) : State :=
  takeReq v { kind := .inval } (modCoh (fun c => { c with recalls := satAdd 32 c.recalls 1 }) (count 4 4 (dirSlice v s) 1 s))

/-- Recalls that are under way in a line's set, and requests that wait for a way of it. -/
def recalling (k : Nat) (s : State) : Nat :=
  (s.coh.dir.filter fun e => dirPlace e.1 s == dirPlace k s && e.2.txn.any fun t => t.r.kind == .inval && t.r.req.isNone).length
def setWaiters (k : Nat) (s : State) : Nat := (s.coh.setWait.filter fun w => dirPlace w.1 s == dirPlace k s).length

/-- A request reaches the home of its line (R253, R265): it waits behind an open transaction, in arrival order; where
its set is full the least recently used stable entry is recalled first. -/
def arrive (k : Nat) (r : CohReq) (s : State) : State :=
  let e := dirEnt k s
  if atHome k r s then s
  else if e.txn.isSome then setDir k { e with waiting := e.waiting ++ [r] } s
  else if needsEntry r.kind && setFull k s then
    let s := modCoh (fun c => { c with setWait := c.setWait ++ [(k, r)] }) s
    match lruEntry k s with
    | some v =>
      let s := recallOne v s
      if setFull k s then s else takeReq k r (modCoh (fun c => { c with setWait := c.setWait.erase (k, r) }) s)
    | none => s
  else takeReq k r s

/-- After a transaction has ended: the next request waiting for the line, and requests waiting for a way of its set, are
taken. While the set is still full, one entry is recalled for each request that waits (R253). -/
def nextOf (k : Nat) : Nat → State → State
  | 0, s => s
  | n + 1, s =>
    let e := dirEnt k s
    if e.txn.isSome then s
    else match e.waiting with
    | r :: l => nextOf k n (takeReq k r (setDir k { e with waiting := l } s))
    | [] =>
      match s.coh.setWait.find? fun w => dirPlace w.1 s == dirPlace k s with
      | some w =>
        let s' := modCoh (fun c => { c with setWait := c.setWait.erase w }) s
        if !setFull w.1 s' then nextOf k n (arrive w.1 w.2 s')
        else if setWaiters k s ≤ recalling k s then s
        else match lruEntry k s with
          | some v => nextOf k n (recallOne v s)
          | none => s
      | none => s

/-- A transaction's snoops are all answered: complete it and go on. -/
def complete (k : Nat) (s : State) : State :=
  let e := dirEnt k s
  match e.txn with
  | some t =>
    if t.snooped.isEmpty && t.owing.isEmpty && (t.st == .xSd || t.st == .xSi || t.st == .sSi) then
      nextOf k 64 (finishTxn k t.r e s)
    else s
  | none => s

/-! ### Responses (Table 11-9) -/

/-- A snoop response from an agent: 0x18 RspI, 0x19 RspS, 0x1A RspIDirty, 0x1B RspSDirty. -/
def snoopRsp (msg a k : Nat) (s : State) : State :=
  if agentSt a s == .dead then s
  else
    let e := dirEnt k s
    match e.txn with
    | none => violation a s
    | some t =>
      if !t.snooped.contains a then violation a s
      else
        let left := t.snooped.filter (· != a)
        let gone := { dropSharer a e with owner := if e.owner == some a then none else e.owner }
        let kept := addSharer a { e with owner := if e.owner == some a then none else e.owner }
        match t.st, msg with
        | .xSd, 0x18 => complete k (setDir k { gone with txn := some { t with snooped := left } } s)
        | .xSd, 0x19 => complete k (setDir k { kept with txn := some { t with snooped := left } } s)
        | .xSd, 0x1A => setDir k { gone with txn := some { t with snooped := left, owing := t.owing ++ [a] } } s
        | .xSd, 0x1B => setDir k { kept with txn := some { t with snooped := left, owing := t.owing ++ [a] } } s
        | .xSi, 0x18 => complete k (setDir k { gone with txn := some { t with snooped := left } } s)
        | .xSi, 0x1A => setDir k { gone with txn := some { t with snooped := left, owing := t.owing ++ [a] } } s
        | .sSi, 0x18 => complete k (setDir k { gone with txn := some { t with snooped := left } } s)
        | _, _ => violation a s

/-- DirtyData of an agent that announced it: written to the Reservoir; completes. -/
def dirtyData (a k : Nat) (d : List Byte) (bad : Bool) (s : State) : State :=
  if agentSt a s == .dead then s
  else
    let e := dirEnt k s
    match e.txn with
    | none => violation a s
    | some t =>
      if t.owing.contains a then
        let s := mergeData k d bad s
        let e := dirEnt k s
        complete k (setDir k { e with txn := some { t with owing := t.owing.filter (· != a) } } s)
      else violation a s

/-- WbData after WbPull: written; the line becomes I. -/
def wbData (a k : Nat) (d : List Byte) (bad : Bool) (s : State) : State :=
  if agentSt a s == .dead then s
  else
    let e := dirEnt k s
    match e.txn with
    | some t =>
      if t.st == .wD && t.r.agent == a then
        let s := mergeData k d bad s
        let e := dirEnt k s
        nextOf k 64 (setDir k { clearHolders e with txn := none } s)
      else violation a s
    | none => violation a s

/-- CmpAck: G_A becomes X after DataE or GrantE, S after DataS (R264). -/
def cmpAck (a k : Nat) (s : State) : State :=
  if agentSt a s == .dead then s
  else
    let e := dirEnt k s
    match e.txn with
    | some t =>
      if t.st == .gA && t.r.agent == a then
        nextOf k 64 (setDir k (if t.exclusive then { clearHolders e with owner := some a, txn := none }
          else { addSharer a e with txn := none }) s)
      else violation a s
    | none => violation a s

/-! ### Dead agents -/

/-- An agent's claims on one line are resolved as Table 13 of the chapter gives (R275). -/
def reclaimLine (a k : Nat) (s : State) : State :=
  let e := dirEnt k s
  let e := { e with waiting := e.waiting.filter fun r => r.agent != a || r.req.isSome }
  let owned := e.owner == some a
  let granted := match e.txn with
    | some t => t.st == .gA && t.r.agent == a && t.r.req.isNone
    | none => false
  let exGrant := match e.txn with
    | some t => granted && t.exclusive
    | none => false
  let owing := match e.txn with
    | some t => t.owing.contains a || (t.st == .wD && t.r.agent == a)
    | none => false
  let bad := (owned || exGrant || owing) && !isMoorAgent a
  let e' := { dropSharer a e with owner := if owned then none else e.owner }
  let t' := match e.txn with
    | some t => if granted || (t.st == .wD && t.r.agent == a) then none
                else some { t with snooped := t.snooped.filter (· != a), owing := t.owing.filter (· != a) }
    | none => none
  let e' := if bad && isHostKey k then { e' with hstate := 3 } else e'
  let s := setDir k { e' with txn := t' } s
  let s := if bad then
      modCoh (fun c => { c with poisoned := insNat k c.poisoned, reclaimLines := satAdd 32 c.reclaimLines 1 }) s
    else s
  nextOf k 64 (complete k s)

/-- Lines whose entry names an agent, or whose transaction waits for it. -/
def linesNaming (a : Nat) (s : State) : List Nat :=
  (s.coh.dir.filter fun e => e.2.owner == some a || e.2.sharers.contains a
    || (e.2.waiting.any fun r => r.agent == a && r.req.isNone)
    || (match e.2.txn with
      | some t => t.snooped.contains a || t.owing.contains a || (t.r.agent == a && t.r.req.isNone)
      | none => false)).map (·.1)

/-- The sweep of a dead agent resolves every line of it and sets AGENT_DEAD (R275, R276). -/
def reclaimSweep (a : Nat) (s : State) : State :=
  let before := s.coh.reclaimLines
  let s := modCoh (fun c => { c with agents := mmod c.agents a fun x => { x with swept := true } }) s
  let s := each (linesNaming a s) (reclaimLine a) s
  let s := modCoh (fun c => { c with reclaimed := satAdd 16 c.reclaimed 1 }) s
  let s := setEvent rCOH_EVENT 0 s
  whenS (before < s.coh.reclaimLines) (setEvent rCOH_EVENT 2) s

/-- A dead agent's sweep has still to end. -/
def sweepDue (a : Nat) (s : State) : Bool := agentSt a s == .dead && !(mgetD s.coh.agents a {}).swept

/-- RECLAIM_SWEEP_END (R275, R276). -/
def execReclaimSweepEnd (a : Fin 1024) (s : State) : Res :=
  answer (if sweepDue a.val s then reclaimSweep a.val s else s)

/-! ### Coherent ranges and bias -/

/-- A local address lies in a coherent range (R255). -/
def inRange (l : Nat) (s : State) : Bool :=
  (List.range 64).any fun n =>
    let v := regRaw (rCOH_RANGE + 8 * n) s
    bit v 0 && fld v 21 23 * 2 ^ 21 ≤ l && l < (fld v 21 23 + fld v 44 20) * 2 ^ 21

/-- A local address lies on a page in shared bias. -/
def sharedAt (l : Nat) (s : State) : Bool := s.coh.shared.contains (l / 4096)

/-- A coherent request reaches a line of device memory (R257): a flipping page holds it; a page in device bias flips to
shared. -/
def coherentArrive (k : Nat) (r : CohReq) (s : State) : State :=
  if isHostKey k then arrive k r s
  else
    let page := k / 64
    if s.coh.flips.any fun f => f.page == page then
      modCoh (fun c => { c with flips := c.flips.map fun f =>
        if f.page == page then { f with waiting := f.waiting ++ [(k, r)] } else f }) s
    else
      arrive k r (if s.coh.shared.contains page then s
        else modCoh (fun c => { c with shared := insNat page c.shared }) s)

/-- Lines of a page that have an entry with holders. -/
def pageLines (page : Nat) (s : State) : List Nat :=
  (s.coh.dir.filter fun e => !e.2.host && e.1 / 64 == page).map (·.1)

/-- Start the flip of a page from shared to device bias (R257): every line that has an entry is invalidated. -/
def startFlip (fn page : Nat) (s : State) : State :=
  let s := modCoh (fun c => { c with flips := c.flips ++ [{ page := page, fn := fn }] }) s
  each (pageLines page s) (fun k s => arrive k { kind := .inval } s) s

/-- BIAS_FLIP_END (R257): no line of the page has an entry left; the bias bit clears and the waiting requests are taken,
the first of which flips the page back. -/
def flipEnd (page : Nat) (s : State) : State :=
  match s.coh.flips.find? fun f => f.page == page with
  | some f =>
    if (pageLines page s).isEmpty then
      let s := modCoh (fun c => { c with
        flips := c.flips.filter (fun x => x.page != page), shared := c.shared.filter (· != page) }) s
      each f.waiting (fun w s => coherentArrive w.1 w.2 s) s
    else s
  | none => s

/-- A non-caching access to a device line (R256, R263): true when it may proceed now; otherwise a transaction of its own
stands in front, and the request is made ready when that ends. One that comes by CXL.mem waits for a flip of its page,
and moves the page to shared bias (R257). -/
def ncPrep (req : Nat) (k : CohKind) (cxl : Bool) (line : Nat) (s : State) : Bool × State :=
  let page := line / 64
  if cxl && s.coh.flips.any (fun f => f.page == page) then
    (false, if s.coh.flips.any fun f => f.waiting.any fun w => w.2.req == some req then s
      else coherentArrive line { kind := k, req := some req } s)
  else
    let s := if cxl then modCoh (fun c => { c with shared := insNat page c.shared }) s else s
    if !sharedAt (line * 64) s then (true, s)
    else
      let e := dirEnt line s
      let free := e.txn.isNone && (match k with
        | .ncRead => e.owner.isNone
        | _ => (holders e s).isEmpty)
      if free then (true, s)
      else (false, arrive line { kind := k, req := some req } s)

/-- Prepare every line of an access; all must be free for it to proceed. -/
def ncPrepAll (req : Nat) (k : CohKind) (cxl : Bool) (lines : List Nat) (s : State) : Bool × State :=
  lines.foldl (fun (a : Bool × State) l => let (ok, s) := ncPrep req k cxl l a.2; (a.1 && ok, s)) (true, s)

end Sys2Proof.Machine
end

