-- ==== Sys2Proof/Machine/Translate.lean ====
section
/-! DEFINITION. Chapter 7: lookup and fill of translations, the checks of Table 7-5, ATS and PRI, invalidation. -/
namespace Sys2Proof.Machine

/-- The outcome of looking up one page of an access. -/
inductive XRes where
  /-- physical address, its source (0 local device, 1 host, 2 remote device, 3 Rill slots, R360) and the page it lies on -/
  | ok (pa src page : Nat)
  | fail (st : Status) (cause : Nat)
  /-- a fill is outstanding -/
  | miss
  /-- a host page that only PRI can mend -/
  | pri
  deriving DecidableEq, Repr

def modTr (f : TransState → TransState) (s : State) : State := { s with tr := f s.tr }

/-- log2 of the page sizes of R147. -/
def sizeLog (n : Nat) : Nat := if n = 0 then 12 else if n = 1 then 16 else if n = 2 then 21 else 30

/-- Bit 56 of an address: the host half (R145). -/
def hostHalf (va : Nat) : Bool := va / 2 ^ 56 % 2 == 1

/-- Chip number of a device-half address or of a physical address's chip field (R145, R146). -/
def vaChip (va : Nat) : Nat := va / 2 ^ 43 % 2 ^ 13
def paChip (pa : Nat) : Nat := pa / 2 ^ 44 % 2 ^ 13
def paLocal (pa : Nat) : Nat := pa % 2 ^ 44

/-- The slice that serves a lookup (R159). -/
def tlbSlice (ctx va : Nat) (s : State) : Nat :=
  let h := xorFold 5 12 (ctx * 2 ^ 36 + va / 2 ^ 21 % 2 ^ 36)
  mgetD s.tr.sliceMap h h

/-- The set of a lookup at a page size (R159). -/
def tlbSet (ctx va sz : Nat) : Nat := xorFold 11 8 (ctx * 2 ^ (57 - sizeLog sz) + va % 2 ^ 57 / 2 ^ sizeLog sz)

/-- An entry covers an address of a context. -/
def tlbHit (ctx va : Nat) (e : TlbEnt) : Bool := e.ctx == ctx && e.va / 2 ^ sizeLog e.size == va / 2 ^ sizeLog e.size

/-- An active filter entry acts on what was asked for before it became active: a REFRESH entry leaves later fills alone
(R168, Table 7-8). -/
def filtOlder (f : FiltEnt) (born : Nat) : Bool := f.revoke || born ≤ f.act

/-- A filter match against an access and the entry it hit (R168). -/
def fmatch (m : FMatch) (ctx va : Nat) (e : Option TlbEnt) : Bool :=
  match m with
  | .va cs lo len => !hostHalf va && lo ≤ va && va < lo + len && (match cs with
    | none => true
    | some l => l.contains ctx)
  | .host p lo len => match e with
    | some e => e.src == 1 && e.pasid == p && hostHalf va && lo ≤ va % 2 ^ 56 && va % 2 ^ 56 < lo + len
    | none => false
  | .pa lo len => match e with
    | some e => e.src != 1 && lo < e.pa + 2 ^ sizeLog e.size && e.pa < lo + len
    | none => false

/-- Does an entry of the IOTLB fall under a match (for sweeps)? -/
def fcovers (m : FMatch) (e : TlbEnt) : Bool :=
  let n := 2 ^ sizeLog e.size
  match m with
  | .va cs lo len => !hostHalf e.va && lo < e.va + n && e.va < lo + len && (match cs with
    | none => true
    | some l => l.contains e.ctx)
  | .host p lo len => e.src == 1 && e.pasid == p && lo < e.va % 2 ^ 56 + n && e.va % 2 ^ 56 < lo + len
  | .pa lo len => e.src != 1 && lo < e.pa + n && e.pa < lo + len

/-- An entry of the L2 has been used: the list keeps the most recently used last (R159). -/
def tlbUsed (e : TlbEnt) (s : State) : State := modTr (fun t => { t with l2 := t.l2.filter (· != e) ++ [e] }) s

/-- Look an address up: L1 of the pipe, then the L2, with the counters of R401. -/
def tlbLookup (pipe ctx va : Nat) (s : State) : Option TlbEnt × State :=
  let l := mgetD s.tr.l1 pipe []
  match l.find? (tlbHit ctx va) with
  | some e => (some e, modTr (fun t => { t with l1 := mset t.l1 pipe (e :: l.filter (· != e)) }) s)
  | none =>
    let sl := tlbSlice ctx va s
    match s.tr.l2.find? fun e => e.slice == sl && tlbHit ctx va e with
    | some e =>
      (some e, tlbUsed e (modTr (fun t => { t with l1 := mset t.l1 pipe ((e :: l).take 256) }) (count 3 0 sl 1 s)))
    | none => (none, count 3 1 sl 1 s)

/-- Install an entry in its slice's set. The victim of a full set is a free choice among all but the most recently used,
which is last: pseudo-least-recent use says no more (R159). -/
def tlbInstall (va : Nat) (e : TlbEnt) (s : State) : State :=
  let sl := tlbSlice e.ctx va s
  let st := tlbSet e.ctx va e.size
  let rest := s.tr.l2.filter fun x => !(x.slice == sl && x.set == st && x.size == e.size && tlbHit e.ctx va x)
  let here := rest.filter fun x => x.slice == sl && x.set == st
  match (List.range 8).find? fun w => !here.any fun x => x.way == w with
  | some w => modTr (fun t => { t with l2 := rest ++ [{ e with slice := sl, set := st, way := w }] }) s
  | none =>
    let (w, s) := choose (here.dropLast.map (·.way)) s
    modTr (fun t => { t with
      l2 := rest.filter (fun x => !(x.slice == sl && x.set == st && x.way == w.getD 0))
        ++ [{ e with slice := sl, set := st, way := w.getD 0 }] }) s

/-- Remove entries from every L1 and the L2. -/
def tlbDrop (p : TlbEnt → Bool) (s : State) : State :=
  modTr (fun t => { t with
    l2 := t.l2.filter fun e => !p e
    l1 := mmap (fun _ l => l.filter fun e => !p e) t.l1 }) s

/-- Context clear (R167); what fills in progress for the context bring is not installed, and who still waits for it looks up
again. -/
def ctxClear (c : Nat) (s : State) : State :=
  let again (w : Walk) : Walk := if w.ctx = c then { w with stale := true } else w
  modTr (fun t => { t with
    walks := t.walks.map again, peers := t.peers.map again, wcache := t.wcache.filter fun w => w.ctx != c
    ats := t.ats.map fun a => if a.waiters.any (fun w => w.1 == c) || a.pre.contains c then { a with stale := true } else a })
    (tlbDrop (fun e => e.ctx == c) s)

/-- A full clear: every entry of every L1 and of the L2 goes, and fills of the device half in progress are not installed
(R171). -/
def fullClear (s : State) : State :=
  let again (w : Walk) : Walk := { w with stale := true }
  modTr (fun t => { t with walks := t.walks.map again, peers := t.peers.map again }) (tlbDrop (fun _ => true) s)

/-! ### Fault records (R178) -/

/-- A failure joins a function's record: it is the first, or counted; each port that has latched the record keeps the first
failure since then and how many came after it. -/
def faultAdd (x : XFault) (f : FaultRec) : FaultRec :=
  let later (o : Option (XFault × Nat)) : Option (XFault × Nat) := match o with
    | none => some (x, 0)
    | some (y, n) => some (y, n + 1)
  let since := mmap (fun _ o => later o) f.since
  match f.first with
  | none => { f with first := some x, since := since }
  | some _ => { f with overflow := true, count := satAdd 15 f.count 1, since := since }

/-- Record a failed check of a function. -/
def xfault (fn ctx va access cause : Nat) (s : State) : State :=
  modFunc fn (fun f => { f with fault := faultAdd ⟨va % 2 ^ 57, access, cause, ctx, tick s⟩ f.fault }) s

/-! ### Walks (R151 to R153) -/

/-- Local address range of an envelope. -/
def envRange (e : Nat) (s : State) : Nat × Nat :=
  match mget s.env.envs e with
  | some x => (x.lbase * gib, x.llen * gib)
  | none => (0, 0)

/-- Local address and size of an object. -/
def objRange (o : Obj) (s : State) : Nat × Nat := ((envRange o.env s).1 + o.off, 2 ^ o.log2)

/-- What a walk ends with. -/
inductive WalkRes where
  | leaf (pa size : Nat) (r w a : Bool)
  | fail (st : Status) (cause : Nat) (bad : Bool)
  deriving DecidableEq, Repr

/-- Index and page-size code at a level (Table 7-2): levels 3, 2, 1, 0, and 4 for level 0'. -/
def walkIndex (level va : Nat) : Nat :=
  if level = 3 then va / 2 ^ 39 % 16 else if level = 2 then va / 2 ^ 30 % 512
  else if level = 1 then va / 2 ^ 21 % 512 else if level = 0 then va / 2 ^ 12 % 512 else va / 2 ^ 16 % 32

def walkSize (level : Nat) : Nat := if level = 2 then 3 else if level = 1 then 2 else if level = 0 then 0 else 1

/-- The other range of an envelope's mirrored pair; empty where there is none (R365). -/
def oldRange (e : Nat) (s : State) : Nat × Nat :=
  match mget s.env.envs e with
  | some x => if x.move == .idle then (0, 0) else (x.newBase * gib, x.llen * gib)
  | none => (0, 0)

/-- An address of the other range of a mirrored pair stands for the matching one of the primary: a walk may use either copy
until the tables are rewritten (R365). -/
def moved (env old : Nat × Nat) (a : Nat) : Nat :=
  if old.1 ≤ paLocal a && paLocal a < old.1 + old.2 then paChip a * 2 ^ 44 + (paLocal a - old.1 + env.1) else a

/-- Walk from a table at a level: the object's range, the envelope's range and its pair's, the chip (R153). -/
def walkFrom (mem : Map Byte) (chip : Nat) (obj env old : Nat × Nat) (va : Nat) : Nat → Nat → Nat → WalkRes
  | 0, _, _ => .fail .fault 14 true
  | fuel + 1, level, table =>
    let e := ofBytes (cellsGet mem (table + 8 * walkIndex level va) 8)
    let addr := moved env old (e / 2 ^ 12 % 2 ^ 45 * 4096)
    let sub := e / 2 ^ 60
    let lowRsvd := e / 2 ^ 6 % 64
    let hiRsvd := e / 2 ^ 57 % 8
    let b64 := e / 32 % 2
    if e % 2 = 0 then (if e / 64 % 2 = 1 then .fail .revoked 8 false else .fail .fault 1 false)
    else if e / 2 % 2 = 1 then
      let tbl := paLocal addr + (if level = 1 && b64 = 1 then sub * 256 else 0)
      let len := if level = 1 && b64 = 1 then 256 else 4096
      if level = 0 || level = 4 || lowRsvd ≠ 0 || hiRsvd ≠ 0 || e / 4 % 8 ≠ 0 || (level ≠ 1 && b64 = 1)
          || (!(level = 1 && b64 = 1) && sub ≠ 0) || paChip addr ≠ chip || tbl < obj.1 || obj.1 + obj.2 < tbl + len then
        .fail .fault 14 true
      else walkFrom mem chip obj env old va fuel (if level = 1 && b64 = 1 then 4 else level - 1) tbl
    else if level = 3 then .fail .fault 14 true
    else
      let sz := walkSize level
      let n := 2 ^ sizeLog sz
      if lowRsvd ≠ 0 || hiRsvd ≠ 0 || sub ≠ 0 || b64 = 1 || addr % n ≠ 0 || paChip addr ≠ chip
          || paLocal addr < env.1 || env.1 + env.2 < paLocal addr + n then .fail .rights 7 false
      else .leaf addr sz (e / 4 % 2 == 1) (e / 8 % 2 == 1) (e / 16 % 2 == 1)

/-- The entries that a walk from a table reads: level and address of each, and whether it is a pointer to the next. -/
def walkPath (mem : Map Byte) (env old : Nat × Nat) (va : Nat) : Nat → Nat → Nat → List (Nat × Nat × Bool)
  | 0, _, _ => []
  | fuel + 1, level, table =>
    let a := table + 8 * walkIndex level va
    let e := ofBytes (cellsGet mem a 8)
    let tbl := paLocal (moved env old (e / 2 ^ 12 % 2 ^ 45 * 4096))
    let small := level = 1 && e / 32 % 2 = 1
    if e % 4 = 3 && level ≠ 0 && level ≠ 4 then
      (level, a, true) :: walkPath mem env old va fuel (if small then 4 else level - 1) (if small then tbl + e / 2 ^ 60 * 256 else tbl)
    else [(level, a, false)]

/-- The page-table object of a context with a device page table, and its envelope. -/
def ctxTable (c : Nat) (s : State) : Option (Obj × Nat) :=
  match mget s.que.ctxs c with
  | none => none
  | some x => match x.ptObj, x.env with
    | some o, some e => (mget s.que.objs o).map fun ob => (ob, e)
    | _, _ => none

/-- Walk a context's device page table (R150, R424). -/
def walkCtx (c va : Nat) (s : State) : WalkRes :=
  match ctxTable c s with
  | some (ob, e) => walkFrom s.rsvr.mem s.spl.chip (objRange ob s) (envRange e s) (oldRange e s) va 6 3 (objRange ob s).1
  | none => .fail .fault 1 false

/-- The Cistern lane that does the arithmetic on what a virtual address holds (R17, R317, R327): that of the home slice
of its line. Where no slice of this chip is its home it is a free choice (log 7). -/
def laneAt (c va n : Nat) (s : State) : Nat :=
  match (if hostHalf va then .fail .fault 1 false else walkCtx c va s) with
  | .leaf pa sz _ _ _ => laneOf (bucket (bucketOf (homeAddr (paLocal pa + va % 2 ^ sizeLog sz) s) s) s).slice s
  | .fail .. => Config.choice n % 64

/-- Count operands of so many bits on lanes, and elements rounded on lanes (Table 17-1, group 8). -/
def countOperands (l : List (Nat × Nat)) (s : State) : State :=
  each (l.map (·.1)).eraseDups (fun x s => count 8 0 x (ceilDiv (((l.filter fun e => e.1 == x).map (·.2)).foldl (· + ·) 0) 8) s) s
def countRounded (l : List Nat) (s : State) : State := each l.eraseDups (fun x s => count 8 1 x (l.count x) s) s

/-- The address bits that index a walk's entries down to a level. -/
def walkPrefix (level va : Nat) : Nat := va % 2 ^ 43 / 2 ^ (if level = 3 then 39 else if level = 2 then 30 else 21)

/-- The entries that a context's walk reads in the Reservoir: those below the deepest pointer that its slice's walk cache
holds (R154). -/
def walkReads (c va : Nat) (s : State) : List (Nat × Nat × Bool) :=
  match ctxTable c s with
  | none => []
  | some (ob, e) =>
    let sl := tlbSlice c va s
    let path := walkPath s.rsvr.mem (envRange e s) (oldRange e s) va 6 3 (objRange ob s).1
    let held (x : Nat × Nat × Bool) : Bool := x.2.2 && s.tr.wcache.contains ⟨sl, c, x.1, walkPrefix x.1 va⟩
    match (path.filter held).getLast? with
    | some d => path.filter fun x => x.1 < d.1 || x.1 == 4
    | none => path

/-- Keep the pointers of a walk in its slice's walk cache of 512 entries, the least recently used leaving it (R154). -/
def walkKeep (c va : Nat) (s : State) : State :=
  match ctxTable c s with
  | none => s
  | some (ob, e) =>
    let sl := tlbSlice c va s
    let ptrs := ((walkPath s.rsvr.mem (envRange e s) (oldRange e s) va 6 3 (objRange ob s).1).filter (·.2.2)).map fun x =>
      (⟨sl, c, x.1, walkPrefix x.1 va⟩ : WalkPtr)
    modTr (fun t =>
      let l := ptrs ++ t.wcache.filter fun w => !ptrs.contains w
      { t with wcache := (l.filter fun w => w.slice == sl).take 512 ++ l.filter fun w => w.slice != sl }) s

/-! ### Fills -/

/-- A walk of a slice runs, or waits for one of its 16 places; prefetches take what demand misses leave, at most 4 (R154,
R166). -/
def walkRuns (w : Walk) (s : State) : Bool :=
  let mine := s.tr.walks.filter fun x => tlbSlice x.ctx (x.page * 4096) s == tlbSlice w.ctx (w.page * 4096) s
  let demand := mine.filter fun x => !x.waiters.isEmpty
  if w.waiters.isEmpty then
    demand.length < 16 && ((mine.filter (·.waiters.isEmpty)).takeWhile (· != w)).length < min 4 (16 - demand.length)
  else (demand.takeWhile (· != w)).length < 16

/-- Join or start a fill in a list of walks; `req` is none for a prefetch. -/
def joinWalk (ctx page : Nat) (req : Option Nat) (born : Nat) (l : List Walk) : List Walk :=
  if l.any fun w => w.ctx == ctx && w.page == page then
    l.map fun w => if w.ctx == ctx && w.page == page then
      { w with waiters := w.waiters ++ req.toList.filter fun r => !w.waiters.contains r } else w
  else l ++ [{ ctx := ctx, page := page, waiters := req.toList, born := born }]

/-- A function's host group carries CXL.cache, on one of its ports. -/
def hasCache (fn : Nat) (s : State) : Bool :=
  (usablePorts fn s).any fun p => cxlCacheOn p s

/-- Instances of a function have ATS Enable set, on any port of its host group (R149; log 20). -/
def atsEnabled (fn : Nat) (s : State) : Bool := (List.range 4).any fun p => instAt fn p s && boundAt fn p s && instAts fn p s

/-- Identity that a trace record shows of a fill: LAYER, OPERATOR and CLASS of the request that asked for it (R15). -/
def fillIdent (req : Option Nat) (s : State) : Ident :=
  match req.bind fun i => mget s.que.reqs i with
  | some r => r.ident
  | none => {}

/-- Record an event of a fill. -/
def traceFill (ev c : Nat) (env : Option Nat) (unit data : Nat) (i : Ident) (s : State) : State :=
  traceRec ⟨s.time.now, i.layer, i.oper, ev, i.cls, c, traceEnv env, unit, BitVec.ofNat 64 data⟩ s

/-- Send or join an ATS request for a host page (R163); `req` is none for a prefetch, which yields to demand misses and takes
at most 1,024 of the 4,096 requests (R166). Without a usable instance with ATS Enable and a free tag, or at the limit, the
request waits without one and is retried. -/
def startAts (c : Nat) (x : Ctx) (page : Nat) (req : Option Nat) (s : State) : State :=
  let mine := req.toList.map fun r => (c, r)
  let pre := if req.isNone then [c] else []
  let same (a : Ats) : Bool := a.pasid == x.pasid && a.fn == x.fn && a.page == page && !a.stale
  if s.tr.ats.any same then
    let join (a : Ats) : Ats := { a with
      waiters := a.waiters ++ mine.filter (fun w => !a.waiters.contains w)
      pre := a.pre ++ pre.filter (fun c => !a.pre.contains c) }
    modTr (fun t => { t with ats := t.ats.map fun a => if same a then join a else a }) s
  else if 4096 ≤ s.tr.ats.length || (req.isNone && 1024 ≤ (s.tr.ats.filter (·.waiters.isEmpty)).length) then s
  else
    let (p, s) := choose ((usablePorts x.fn s).filter fun p => instAts x.fn p s && npRoom p 1 s) s
    match p with
    | none => if req.isNone then s else parkWake x.fn s
    | some p =>
      let used := npTags p s
      let t := ((List.range (2 ^ 14)).find? fun i => !used.contains ((s.tr.nextAts + i) % 2 ^ 14)).getD 0
      let t := (s.tr.nextAts + t) % 2 ^ 14
      let s := modTr (fun r => { r with
        nextAts := (t + 1) % 2 ^ 14
        ats := r.ats ++ [⟨t, p, x.fn, (func x.fn s).gen, x.pasid, page, mine, false, pre, r.nextFilt, c, slotGen s.que.ctxSlots c⟩] }) s
      let s := countFn x.fn 9 1 s
      let s := traceFill 6 c x.env (16 + p) (page * 4096) (fillIdent req s) s
      sendU p ⟨1, x.fn, some c, .atsReq x.fn x.pasid t (page * 4096) true, 1, none⟩ s

/-- Start the fill of a miss: walk, peer-map read or ATS. -/
def startFill (c : Nat) (x : Ctx) (va : Nat) (req : Option Nat) (s : State) : State :=
  let s := countFn x.fn 8 1 s
  let s := traceFill 5 c x.env (48 + tlbSlice c va s) va (fillIdent req s) s
  let born := s.tr.nextFilt
  if hostHalf va then startAts c x (va % 2 ^ 56 / 4096) req s
  else if vaChip va = s.spl.chip then
    modTr (fun t => { t with walks := joinWalk c (va / 4096) req born t.walks }) (count 3 2 (tlbSlice c va s) 1 s)
  else modTr (fun t => { t with peers := joinWalk c (va / 2 ^ 30) req born t.peers }) s

/-- Look up a page that a piece scheduled for a later tick will touch, and fill a miss (R166). -/
def prefetch (c va : Nat) (s : State) : State :=
  match mget s.que.ctxs c with
  | none => s
  | some x =>
    let here := s.tr.l2.any fun e => e.slice == tlbSlice c va s && tlbHit c va e
      && !(s.tr.filter.any fun f => f.active && filtOlder f e.born && fmatch f.m c va (some e))
    if here || x.st != .active || (hostHalf va && !atsEnabled x.fn s) then s else startFill c x va none s

/-- Rights of an access (Table 7-6): 0 read, 1 write, 2 atomic. -/
def hasRight (e : TlbEnt) (right : Nat) : Bool := if right = 0 then e.r else if right = 1 then e.w else e.a

/-- One page of an access under the checks of Table 7-5 (R161); the Rill slots of R360 need no walk. -/
def xlate (pipe req c va right : Nat) (s : State) : XRes × State :=
  match mget s.que.ctxs c with
  | none => (.fail .fault 1, s)
  | some x =>
    if hostHalf va && (List.range 4).any (fun p => instAt x.fn p s) && !atsEnabled x.fn s then (.fail .fault 4, s)
    else if !hostHalf va && vaChip va = s.spl.chip && 0x7FFFFC00000 ≤ va % 2 ^ 43 then
      let slot := (va % 2 ^ 43 - 0x7FFFFC00000) / 4096
      let mine := match x.env with
        | some e => match mget s.env.envs e with
          | some v => v.rill.contains slot
          | none => false
        | none => false
      if !mine then (.fail .fault 1, s) else if right = 0 then (.ok (slot * 4096 + va % 4096) 3 (va / 4096 * 4096), s)
      else (.fail .rights 6, s)
    else
      let (e, s) := tlbLookup pipe c va s
      let hits := s.tr.filter.filter fun f => f.active && fmatch f.m c va e
      if hits.any (·.revoke) then (.fail .revoked 8, s)
      else match s.tr.bad.find? fun b => b.req == req && b.lo ≤ va && va < b.lo + b.len with
      | some b => (.fail b.st b.cause, s)
      | none =>
        let page := va % 2 ^ 56 / 4096
        let none_ := hostHalf va && s.tr.noTrans.contains (req, page)
        match e.filter fun e => !(hits.any fun f => filtOlder f e.born) with
        | some e =>
          if hasRight e right then (.ok (e.pa + va % 2 ^ sizeLog e.size) e.src (va / 2 ^ sizeLog e.size * 2 ^ sizeLog e.size), s)
          else if e.src = 1 && (right ≠ 2 || (hasCache x.fn s && !(e.r && e.w))) then (.pri, s)
          else (.fail .rights 6, s)
        | none =>
          if none_ then
            if right = 2 && !hasCache x.fn s then (.fail .rights 6, s) else (.pri, s)
          else (.miss, startFill c x va (some req) s)

/-- An access cut into pages: virtual address, length and right of each piece, in page order. -/
def pagePieces (va right : Nat) : Nat → Nat → List (Nat × Nat × Nat)
  | 0, _ => []
  | fuel + 1, len =>
    if len = 0 then []
    else
      let n := min len (4096 - va % 4096)
      (va, n, right) :: pagePieces (va + n) right fuel (len - n)

/-- Pieces of a range. -/
def pieces (va len right : Nat) : List (Nat × Nat × Nat) := pagePieces va right (len / 4096 + 2) len

/-- A translated piece: virtual and physical address, source, length. -/
structure Seg where
  va : Nat
  pa : Nat
  src : Nat
  len : Nat
  page : Nat
  deriving DecidableEq, Repr

/-- The result of translating every piece of a request (R175 for tiles; the same for every access). -/
inductive XAll where
  | ok (segs : List Seg)
  | fail (st : Status) (cause va : Nat)
  | wait
  | pri (pages : List (Nat × Bool × Bool))
  deriving DecidableEq, Repr

/-- Note that a page needs PRI, and for which access: an atomic asks for write access (R164). -/
def priNeed (pg right : Nat) (l : List (Nat × Bool × Bool)) : List (Nat × Bool × Bool) :=
  if l.any fun x => x.1 == pg then
    l.map fun x => if x.1 == pg then (pg, x.2.1 || right == 0, x.2.2 || right != 0) else x
  else l ++ [(pg, right == 0, right != 0)]

/-- Fold of the pieces: fails at the first failing page, once no page before it awaits its fill (R175), refuses more than
`lim` distinct pages (R174), waits while a fill is outstanding, else collects. -/
def xlateAll (lim pipe req c : Nat) (l : List (Nat × Nat × Nat)) (s : State) : XAll × State :=
  let step (acc : (List Seg × Option (Status × Nat × Nat) × Bool × List (Nat × Bool × Bool)) × State)
      (p : Nat × Nat × Nat) : (List Seg × Option (Status × Nat × Nat) × Bool × List (Nat × Bool × Bool)) × State :=
    let (segs, bad, miss, pri) := acc.1
    let (r, s) := xlate pipe req c p.1 p.2.2 acc.2
    match r with
    | .ok pa src pg => ((segs ++ [⟨p.1, pa, src, p.2.1, pg⟩], bad, miss, pri), s)
    | .fail st cause => ((segs, if miss then bad else bad.or (some (st, cause, p.1)), miss, pri), s)
    | .miss => ((segs, bad, true, pri), s)
    | .pri => ((segs, bad, miss, priNeed (p.1 % 2 ^ 56 / 4096) p.2.2 pri), s)
  let (r, s) := l.foldl step (([], none, false, []), s)
  match r.2.1 with
  | some (st, cause, va) => (.fail st cause va, s)
  | none =>
    if lim < (r.1.map (·.page)).eraseDups.length + r.2.2.2.length then (.fail .invalid 10 ((l.headD (0, 0, 0)).1), s)
    else if r.2.2.1 then (.wait, s) else if !r.2.2.2.isEmpty then (.pri r.2.2.2, s) else (.ok r.1, s)

/-! ### PRI (R164, R165) -/

/-- The instance whose PRI capability counts for a function: one with PRI Enable set, a usable one first (log 20). -/
def priInst (fn : Nat) (s : State) : Option Nat :=
  let on := (List.range 4).filter fun p => instAt fn p s && boundAt fn p s && instPri fn p s
  match on.find? fun p => (usablePorts fn s).contains p with
  | some p => some p
  | none => on.head?

/-- Outstanding Page Request Allocation of a function (PRI capability, log 20). -/
def priAlloc (fn : Nat) (s : State) : Nat :=
  match priInst fn s with
  | some p => (cfgDw fn p 0xD5 s).toNat
  | none => 0

/-- Page requests outstanding in the block, and of a function. -/
def priOut (s : State) : Nat := (s.tr.prgs.map (·.out)).foldl (· + ·) 0
def priOutFn (fn : Nat) (s : State) : Nat := ((s.tr.prgs.filter fun g => g.fn == fn).map (·.out)).foldl (· + ·) 0

/-- May a function take PRI at all; else its faults end with PRI_STOPPED. -/
def priUsable (fn : Nat) (s : State) : Bool :=
  !(func fn s).priStopped && priAlloc fn s ≠ 0

/-- Send the next group of a waiting access where both limits allow it. -/
def prgSendOne (i : Nat) (s : State) : State :=
  match s.tr.prgs.find? fun g => g.index == i with
  | none => s
  | some g =>
    let a := priAlloc g.fn s
    let n := min a g.pages.length
    if g.out ≠ 0 || n = 0 || 1024 < priOut s + n || a < priOutFn g.fn s + n then s
    else match (priInst g.fn s).filter fun p => (usablePorts g.fn s).contains p with
    | none => parkWake g.fn s
    | some p =>
      let s := modTr (fun t => { t with prgs := t.prgs.map fun x =>
        if x.index == i then { x with out := n, port := p, ticks := 0 } else x }) s
      let s := countFn g.fn 10 n s
      let id := fillIdent (some g.req) s
      let s := traceFill 7 (id.ctx.getD 0xFFF) (func g.fn s).env (16 + p) (i % 512 + (g.pages.headD (0, false, false)).1 * 4096) id s
      each (List.range n) (fun j s =>
        let pg := g.pages.getD j (0, false, false)
        sendU p ⟨1, g.fn, none, .prg g.fn g.pasid (i % 512) (pg.1 * 4096) pg.2.1 pg.2.2 (j + 1 == n), 1, none⟩ s) s

/-- PRI rounds allowed (R165). -/
def faultRounds (s : State) : Nat := max 1 (regFld rTRN_CTRL 8 4 s)

/-- A filter entry that becomes active (R168): fills requested before it are requested again on arrival. -/
def filtActive (f : FiltEnt) (s : State) : State :=
  let n := s.tr.nextFilt
  let s := modTr (fun t => { t with
    nextFilt := n + 1, filter := t.filter.map fun x => if x.id = f.id then { x with active := true, act := n } else x }) s
  let hit (c va : Nat) : Bool := match f.m with
    | .host p lo len => hostHalf va && (match mget s.que.ctxs c with
      | some x => x.pasid == p
      | none => false) && lo < va % 2 ^ 56 + 4096 && va % 2 ^ 56 < lo + len
    | .pa _ _ => !hostHalf va
    | m => fmatch m c va none
  modTr (fun t => { t with
    walks := t.walks.map fun w => if hit w.ctx (w.page * 4096) then { w with stale := true } else w
    peers := t.peers.map fun w => if hit w.ctx (w.page * 2 ^ 30) || (match f.m with | .pa _ _ => true | _ => false)
      then { w with stale := true } else w
    ats := t.ats.map fun a => if (a.waiters.map (·.1) ++ a.pre).any (fun c => hit c (2 ^ 56 + a.page * 4096))
      then { a with stale := true } else a }) s

/-- What stands in for an entry that the full filter cannot take (R171): a context clear of every context it would match, a
full clear for a PA range. -/
def filtClear (m : FMatch) (s : State) : State :=
  match m with
  | .pa _ _ => fullClear s
  | .va (some cs) _ _ => each cs ctxClear s
  | .va none _ _ => each (mkeys s.que.ctxs) ctxClear s
  | .host p _ _ => each ((s.que.ctxs.filter fun c => c.2.pasid == p).map (·.1)) ctxClear s

/-- Install a filter entry, or, when none of the 256 is free, clear what it would match (R171): at once, but for a PA range
only when the entry would become active, and again then. The entry's number is returned. -/
def filtAdd (revoke : Bool) (m : FMatch) (now hold : Bool) (s : State) : Option Nat × State :=
  if 256 ≤ s.tr.filter.length then
    let s := setEvent rTRN_EVENT 0 s
    let pa := match m with
      | .pa _ _ => true
      | _ => false
    let s := if now || !pa then filtClear m s else s
    (none, if now then s else modTr (fun t => { t with fullDue := t.fullDue ++ [m] }) s)
  else
    let i := s.tr.nextFilt
    let f : FiltEnt := { id := i, revoke := revoke, m := m, active := false, hold := hold }
    let s := modTr (fun t => { t with filter := t.filter ++ [f], nextFilt := i + 1 }) s
    (some i, if now then filtActive f s else s)

/-- Entries that wait for the edge become active (R172). -/
def filtEdge (s : State) : State :=
  let due := s.tr.fullDue
  let s := each (s.tr.filter.filter fun f => !f.active) filtActive s
  each due filtClear (modTr (fun t => { t with fullDue := [] }) s)

/-- Release entries that are swept and no longer held. -/
def filtRelease (s : State) : State :=
  modTr (fun t => { t with filter := t.filter.filter fun f => !(f.swept && !f.hold) }) s

/-- FILTER_SWEEP_DONE (R168): the sweep of an active entry ends, having removed every entry that matches; it is released
once its source's condition is met. -/
def execFilterSweepDone (i : Nat) (s : State) : Res :=
  answer (match s.tr.filter.find? fun f => f.id == i && f.active && !f.swept with
  | none => s
  | some f =>
    let s := tlbDrop (fun e => filtOlder f e.born && fcovers f.m e) s
    let bump (t : Nat) (s : State) : State := count 3 3 t 1 s
    let s := each (List.range 32) bump s
    filtRelease (modTr (fun t => { t with filter := t.filter.map fun x =>
      if x.id == i then { x with swept := true } else x }) s))

/-- Make waiters ready, or end them with a failing check. -/
def wakeAll (l : List Nat) (r : Option (Status × Nat)) (s : State) : State :=
  modTr (fun t => { t with ready := t.ready ++ l.map fun i => (i, r) }) s

/-- A fill fails for the requests that wait for it: each ends with that check where the page is its first failing one. -/
def fillFails (l : List Nat) (lo len : Nat) (st : Status) (cause : Nat) (s : State) : State :=
  wakeAll l none (modTr (fun t => { t with bad := t.bad ++ l.map fun r => ⟨r, lo, len, st, cause⟩ }) s)

/-- Lines of the Reservoir that a walk reads. -/
def walkLines (c page : Nat) (s : State) : List Nat :=
  ((walkReads c (page * 4096) s).map fun x => homeAddr x.2.1 s / 64).eraseDups

/-- Look up the lines of a walk with the keep hint, each once (R154). -/
def walkAsk (c page : Nat) (w : Walk) (s : State) : State :=
  let new := (walkLines c page s).filter fun l => !w.asked.contains l
  each new (fun l s => touchLine l 2 false false s) (modTr (fun t => { t with walks := t.walks.map fun x =>
    if x.ctx == c && x.page == page then { x with asked := x.asked ++ new } else x }) s)

/-- A walk ends (R153): a leaf is installed, or its waiters end with the failing check; a stale walk restarts (its
waiters look up again). It goes on only in a running place of its slice, once its lines have come (R154). -/
def walkDone (c page : Nat) (s : State) : State :=
  match s.tr.walks.find? fun w => w.ctx == c && w.page == page with
  | none => s
  | some w =>
    if !walkRuns w s then s
    else
    let s := walkAsk c page w s
    if (walkLines c page s).any fun l => fillOpen l s then s
    else
    let s := modTr (fun t => { t with walks := t.walks.filter fun x => !(x.ctx == c && x.page == page) }) s
    if w.stale then wakeAll w.waiters none s
    else
    let s := walkKeep c (page * 4096) s
    match walkCtx c (page * 4096) s with
    | .leaf pa sz r wr a =>
      let va := page * 4096
      wakeAll w.waiters none (tlbInstall va ⟨0, sz, r, wr, a, c, 0, va / 2 ^ sizeLog sz * 2 ^ sizeLog sz, pa, 0, 0, 0, w.born⟩ s)
    | .fail st cause bad =>
      let s := if bad then raise (48 + tlbSlice c (page * 4096) s) .advisory (some c) none 0 s else s
      fillFails w.waiters (page * 4096) 4096 st cause s

/-- A peer-map read ends (R155, Table 7-1): the entry gives the rights. A LOST peer's status is that of R350. -/
def peerDone (c page : Nat) (s : State) : State :=
  match s.tr.peers.find? fun w => w.ctx == c && w.page == page with
  | none => s
  | some w =>
    let s := modTr (fun t => { t with peers := t.peers.filter fun x => !(x.ctx == c && x.page == page) }) s
    if w.stale then wakeAll w.waiters none s
    else
      let va := page * 2 ^ 30
      let chip := vaChip va
      let ent := match mget s.que.ctxs c with
        | some x => match x.env with
          | some e => match mget s.env.envs e with
            | some v => mget v.peers chip
            | none => none
          | none => none
        | none => none
      match ent with
      | none => fillFails w.waiters va (2 ^ 30) .fault 1 s
      | some m =>
        if m.llen ≤ va % 2 ^ 43 / 2 ^ 30 then fillFails w.waiters va (2 ^ 30) .fault 1 s
        else match (mgetD s.spl.peers chip {}).st with
        | .active =>
          wakeAll w.waiters none (tlbInstall va ⟨2, 3, m.rights % 2 == 1, m.rights / 2 % 2 == 1, m.rights / 4 % 2 == 1, c, 0, va,
            chip * 2 ^ 44 + (m.lbase * gib + va % 2 ^ 43) % 2 ^ 44, 0, 0, 0, w.born⟩ s)
        | .lost => fillFails w.waiters va (2 ^ 30) .fault 9 s
        | _ => fillFails w.waiters va (2 ^ 30) .invalid 9 s

/-- Largest page size of R147 within 2^n bytes, n at least 12. -/
def grantSize (n : Nat) : Nat := if 30 ≤ n then 3 else if 21 ≤ n then 2 else if 16 ≤ n then 1 else 0

/-- The generations that a translation request's tag records are current (R115). -/
def atsFresh (a : Ats) (s : State) : Bool := a.fnGen == (func a.fn s).gen && slotGen s.que.ctxSlots a.ctx == a.ctxGen

/-- A translation request leaves its tag table; its waiters look up again. -/
def atsDrop (a : Ats) (s : State) : State :=
  wakeAll (a.waiters.map (·.2)) none (modTr (fun t => { t with ats := t.ats.filter fun x => !(x.tag == a.tag && x.port == a.port) }) s)

/-- An ATS completion (R163): installed for each waiting context, or a page that needs PRI, or the end of the access. -/
def atsDone (p tag : Nat) (r : AtsRes) (s : State) : State :=
  match s.tr.ats.find? fun a => a.tag == tag && a.port == p with
  | none => s
  | some a =>
    if !atsFresh a s then atsDrop a { s with ep := { s.ep with lateCpl := satAdd 32 s.ep.lateCpl 1 } }
    else if a.stale then atsDrop a s
    else
    let s := modTr (fun t => { t with ats := t.ats.filter fun x => !(x.tag == tag && x.port == p) }) s
    match r with
    | .refused =>
      if a.waiters.isEmpty then s
      else setEvent rTRN_EVENT 1 (fillFails (a.waiters.map (·.2)) (2 ^ 56 + a.page * 4096) 4096 .fault 5 s)
    | .grant addr n rd wr =>
      if !rd && !wr then
        wakeAll (a.waiters.map (·.2)) none (modTr (fun t => { t with
          noTrans := a.waiters.map (fun w => (w.2, a.page)) ++ t.noTrans }) s)
      else
        let sz := grantSize n
        let va := 2 ^ 56 + a.page * 4096
        let pg := va / 2 ^ sizeLog sz * 2 ^ sizeLog sz
        let ac := rd && wr && hasCache a.fn s
        let put (c : Nat) (s : State) : State :=
          tlbInstall va ⟨1, sz, rd, wr, ac, c, a.pasid, pg, addr / 2 ^ sizeLog sz * 2 ^ sizeLog sz, 0, 0, 0, a.born⟩ s
        wakeAll (a.waiters.map (·.2)) none (each ((a.waiters.map (·.1) ++ a.pre).eraseDups) put s)

/-- A group ends without a translation: its access ends with FAULT at the group's first page. -/
def prgFails (g : Prg) (cause : Nat) (s : State) : State :=
  fillFails [g.req] (2 ^ 56 + (g.pages.headD (0, false, false)).1 * 4096) 4096 .fault cause s

/-- A group is answered (R164): Success retries the access once every group of it is answered; the others end it. -/
def prgDone (fn idx : Nat) (r : PrgRes) (s : State) : State :=
  match s.tr.prgs.find? fun g => g.fn == fn && g.index % 512 == idx && g.out ≠ 0 with
  | none => modTr (fun t => { t with priLate := satAdd 32 t.priLate 1 }) s
  | some g =>
    let drop (s : State) : State := modTr (fun t => { t with prgs := t.prgs.filter fun x => x.index != g.index }) s
    match r with
    | .success =>
      let done := (g.pages.take g.out).map (·.1)
      let s := modTr (fun t => { t with noTrans := t.noTrans.filter fun n => !(n.1 == g.req && done.contains n.2) }) s
      let s := tlbDrop (fun e => e.src == 1 && e.pasid == g.pasid
        && done.any (fun pg => e.va / 2 ^ sizeLog e.size == (2 ^ 56 + pg * 4096) / 2 ^ sizeLog e.size)) s
      if g.pages.length ≤ g.out then wakeAll [g.req] none (drop s)
      else
        prgSendOne g.index (modTr (fun t => { t with prgs := t.prgs.map fun x =>
          if x.index == g.index then { x with pages := x.pages.drop x.out, out := 0 } else x }) s)
    | .invalid => prgFails g 2 (drop s)
    | .failure =>
      let s := modFunc fn (fun f => { f with priStopped := true }) (drop s)
      setEvent rTRN_EVENT 2 (prgFails g 2 s)

/-- Start PRI for a request's missing pages, or the cause with which it ends (R164, R165). -/
def startPri (req fn pasid rounds : Nat) (pages : List (Nat × Bool × Bool)) (s : State) : Option Nat × State :=
  if faultRounds s ≤ rounds then (some 11, s)
  else if !priUsable fn s then (some 3, s)
  else
    let i := s.tr.nextPrg
    let s := modTr (fun t => { t with nextPrg := i + 1, prgs := t.prgs ++ [⟨i, fn, pasid, req, pages, 0, 0, 0⟩] }) s
    let ahead := s.tr.prgs.any fun g => g.index != i && g.out = 0 && (g.fn == fn || priOut s + g.pages.length > 1024)
    (none, if ahead then s else prgSendOne i s)

/-- Send every waiting group that the limits now allow, in order of arrival: one that waits for the block-wide limit
holds back every later group, one that waits for its function's allocation only those of its function. -/
def prgSendAll (s : State) : State :=
  let step (acc : (Bool × List Nat) × State) (i : Nat) : (Bool × List Nat) × State :=
    match acc.2.tr.prgs.find? fun g => g.index == i with
    | none => acc
    | some g =>
      if acc.1.1 || acc.1.2.contains g.fn then acc
      else
        let s := prgSendOne i acc.2
        let sent := s.tr.prgs.any fun x => x.index == i && x.out ≠ 0
        if sent then (acc.1, s)
        else
          let n := min (priAlloc g.fn s) g.pages.length
          if 1024 < priOut s + n then ((true, acc.1.2), s) else ((false, g.fn :: acc.1.2), s)
  ((s.tr.prgs.filter fun g => g.out = 0).map (·.index)).foldl step ((false, []), s) |>.2

/-- The remote check of an arriving fabric request (R156): kind 0 read, 1 write, 2 atomic. -/
def remoteCheck (env : Option Nat) (l len kind : Nat) (s : State) : Bool :=
  match env with
  | none => false
  | some e => match mget s.env.envs e with
    | none => false
    | some v => v.st != .creating && v.st != .removing && v.remoteRights / 2 ^ kind % 2 == 1
      && ((v.lbase * gib ≤ l && l + len ≤ (v.lbase + v.llen) * gib)
        || (v.move != .idle && v.newBase * gib ≤ l && l + len ≤ (v.newBase + v.llen) * gib))

/-- Advance the count of ticks of unanswered groups (R165). -/
def prgTick (s : State) : State :=
  modTr (fun t => { t with prgs := t.prgs.map fun g => if g.out ≠ 0 then { g with ticks := g.ticks + 1 } else g }) s

end Sys2Proof.Machine
end

