-- ==== Sys2Proof/Machine/Requests.lean ====
section
/-! DEFINITION. The request engine: routes (R180), class credit (R194 to R198), flushes and releases (R202, R203), the
order of a token's requests (R215 to R225), and the life of a request from translation to its end. -/
namespace Sys2Proof.Machine

def modQue (f : QueState → QueState) (s : State) : State := { s with que := f s.que }

/-- Fields of a handle (R122). -/
def handleOf (h : W64) : Handle := ⟨fld h 0 4, fld h 4 4, fld h 8 24, fld h 32 32⟩

/-- Change a request. -/
def modReq (id : Nat) (f : Req → Req) (s : State) : State :=
  modQue (fun q => { q with reqs := mmod q.reqs id f }) s

/-! ### Routes (R180) -/

/-- The route bucket of a context-generated host request. -/
def routeBucket (pasid addr : Nat) : Nat := xorFold 6 12 (pasid * 2 ^ 44 + addr / 4096 % 2 ^ 44)

/-- Buckets that a port holds for a function. -/
def heldBuckets (fn p : Nat) (s : State) : List Nat := ((func fn s).route.filter fun e => e.2 == p).map (·.1)

/-- Deal a list of buckets round robin over ports (R180). -/
def dealBuckets : List Nat → List Nat → Nat → Map Nat → Map Nat
  | [], _, _, m => m
  | b :: r, ps, i, m => dealBuckets r ps (i + 1) (mset m b (ps.getD (i % ps.length) 0))

/-- The port among some, other than `p`, that holds the most buckets, with its count. -/
def fullest (p : Nat) (ps : List Nat) (m : Map Nat) : Nat × Nat :=
  (ps.filter (· != p)).foldl (fun (a : Nat × Nat) q =>
    let n := (m.filter fun e => e.2 == q).length
    if a.2 < n then (q, n) else a) (p, 0)

/-- Buckets move one at a time to a port that joins, until counts differ by at most one. -/
def joinBuckets (p : Nat) (ps : List Nat) : Nat → Map Nat → List (Nat × Nat × Nat) → List (Nat × Nat × Nat)
  | 0, _, acc => acc
  | n + 1, m, acc =>
    let (q, c) := fullest p ps m
    let mine := (m.filter fun e => e.2 == p).length
    if c ≤ mine + 1 then acc
    else match m.find? fun e => e.2 == q with
    | some e => joinBuckets p ps n (mset m e.1 p) (acc ++ [(e.1, q, p)])
    | none => acc

/-- The port a context's host request uses now; none while its bucket moves or its port is not UP. -/
def routePort (fn pasid addr : Nat) (s : State) : Option Nat :=
  let b := routeBucket pasid addr
  match mget (func fn s).route b with
  | some p =>
    if (hport p s).st == .up && usable fn p s && !(s.ep.moves.any fun m => m.fn == fn && m.bucket == b)
        && !replayWaits p s then some p else none
  | none => none

/-! ### Class credit (R194 to R198) -/

/-- Credit of a class on a resource (Table 8-11): HOST [11:0], FABRIC [23:12], MEMORY [34:24]. -/
def classCredit (res cls : Nat) (s : State) : Nat :=
  let v := regRaw (rDPA_CLASS + 8 * cls) s
  if res < 4 then fld v 0 12 else if res < 36 then fld v 12 12 else fld v 24 11

/-- PRIORITY [37:35]; G bits [40:38]; BORROW [41] of Table 8-11. -/
def classPrio (cls : Nat) (s : State) : Nat := fld (regRaw (rDPA_CLASS + 8 * cls) s) 35 3
def classBorrow (cls : Nat) (s : State) : Bool := bit (regRaw (rDPA_CLASS + 8 * cls) s) 41
def classGuard (res cls : Nat) (s : State) : Bool :=
  bit (regRaw (rDPA_CLASS + 8 * cls) s) (if res < 4 then 38 else if res < 36 then 39 else 40)

def resKey (res cls : Nat) : Nat := res * 16 + cls

/-- Units a class has left on a resource in the tick. -/
def creditLeft (res cls : Nat) (s : State) : Nat :=
  classCredit res cls s - mgetD s.ep.spent (resKey res cls) 0 - mgetD s.ep.lent (resKey res cls) 0

/-- A request's class is eligible for a cost (R196). -/
def eligible (res cls cost : Nat) (s : State) : Bool :=
  cost ≤ creditLeft res cls s
    || (classCredit res cls s < cost && classCredit res cls s ≠ 0 && mgetD s.ep.spent (resKey res cls) 0 = 0)

/-- Requests waiting for credit at a resource in a class. -/
def creditWaiters (res cls : Nat) (s : State) : List (Nat × Req) :=
  s.que.reqs.filter fun e => e.2.st == .credit && e.2.res == res && e.2.ident.cls == cls

/-- Spend credit; what the class's own credit does not cover has been borrowed (R196). -/
def spend (res cls cost : Nat) (s : State) : State :=
  let s := count 2 0 (16 * res + cls) cost s
  { s with ep := { s.ep with spent := mupd s.ep.spent (resKey res cls) 0 (· + cost) } }

/-- Admission of a request at a resource: at once when nothing of its class waits there and the class is eligible. -/
def mayAdmit (res cls cost : Nat) (s : State) : Bool := (creditWaiters res cls s).isEmpty && eligible res cls cost s

/-! ### Routes that move, releases (R201, R203) -/

/-- A bucket starts to move from a port that is up (R201): it waits for a flush that covers its requests there. -/
def moveBucket (fn b src dst : Nat) (s : State) : State :=
  if s.ep.moves.any fun x => x.fn == fn && x.bucket == b then s
  else
    let n := (hport src s).seq
    let s := flushTo src fn n s
    { s with ep := { s.ep with moves := s.ep.moves ++ [⟨fn, b, src, dst, n⟩] } }

/-- The set of ports usable for a function has changed (R180): buckets of ports that have left are dealt out, and
buckets move to ports that joined, which hold none; each move from a port still up follows R201. The buckets of a port whose
replay runs follow that replay (R208). -/
def reroute (fn : Nat) (s : State) : State :=
  let ps := usablePorts fn s
  if ps.isEmpty then s
  else
    let f := func fn s
    let s := { s with ep := { s.ep with moves := s.ep.moves.filter fun m => m.fn != fn || ps.contains m.dst } }
    let base : Map Nat := if f.route.isEmpty then dealBuckets (List.range 64) ps 0 [] else f.route
    let left (up : Bool) : List Nat := (base.filter fun e => !ps.contains e.2 && ((hport e.2 s).st == .up) == up
      && !(s.ep.replays.any fun r => r.fn == fn && r.lost == e.2)).map (·.1)
    let now := dealBuckets (left false) ps 0 base
    let s := modFunc fn (fun f => { f with route := now }) s
    let after := dealBuckets (left true) ps 0 now
    let s := each (left true) (fun b s => moveBucket fn b (mgetD now b 0) (mgetD after b 0) s) s
    let soon := (s.ep.moves.filter fun m => m.fn == fn).foldl (fun (x : Map Nat) m => mset x m.bucket m.dst) after
    let joins := (ps.filter fun p => !soon.any fun e => e.2 == p).foldl (fun (acc : List (Nat × Nat × Nat)) p =>
      let cur := acc.foldl (fun (x : Map Nat) y => mset x y.1 y.2.2) soon
      acc ++ joinBuckets p ps 64 cur []) []
    each joins (fun v s => moveBucket fn v.1 v.2.1 v.2.2 s) s

/-- Step 2 of a system-scope release (R203): flushes on every port that carried writes of the context which no completed
flush covers yet, and what they must cover. A mark stands until its flush completes (step 4): further releases wait for
the same one. -/
def releaseFlush (c : Nat) (s : State) : List (Nat × Nat) × State :=
  match mget s.que.ctxs c with
  | none => ([], s)
  | some x =>
    let need := x.wrote.filter fun e => (hport e.1 s).covered < e.2
    let s := each need (fun e s =>
      if flushCovers e.1 e.2 s then s else flushPort e.1 x.fn (mgetD x.lastAddr e.1 0) s) s
    (need, modQue (fun q => { q with ctxs := mmod q.ctxs c fun y => { y with wrote := need } }) s)

/-! ### What a request reads and writes -/

/-- Row spans of a tile, row order. -/
def tileSpans (t : Tile) : List (Nat × Nat) :=
  (List.range t.rows.toNat).map fun i => (t.base.toNat + i * t.pitch.toNat, t.rowBytes.toNat)

/-- Virtual spans that a request reads. -/
def readSpans : ReqOp → List (Nat × Nat)
  | .load va n => [(va, n)]
  | .tileRead t => tileSpans t
  | .copy src _ n => [(src, n)]
  | .contribute _ va n => [(va, n)]
  | .ptFetch _ _ va n => [(va, n)]
  | .paRead pa n => [(pa, n)]
  | _ => []

/-- Virtual spans that a request writes, with the offset of each span's bytes in its data. -/
def writeSpans : ReqOp → List (Nat × Nat)
  | .store va d => [(va, d.length)]
  | .tileWrite t => tileSpans t
  | .copy _ dst n => [(dst, n)]
  | .fill dst n _ _ => [(dst, n)]
  | .place va d _ => [(va, d.length)]
  | .storeBits va d _ => [(va, d.length)]
  | .result _ va d _ => [(va, d.length)]
  | .mirror _ va _ => [(va, 8)]
  | .record _ va d => [(va, d.length)]
  | .paWrite pa d => [(pa, d.length)]
  | _ => []

/-- Spans of an atomic. -/
def atomSpans : ReqOp → List (Nat × Nat)
  | .atomic va o => [(va, atomSpan o)]
  | .paAtomic pa o => [(pa, atomSpan o)]
  | _ => []

/-- A request that brings a physical address is at this chip's home, without translation (R156); so is the movers' own
work. -/
def paSegs : ReqOp → Option (List Seg)
  | .paRead pa n => some [⟨pa, pa, 0, n, 0⟩]
  | .paWrite pa d => some [⟨pa, pa, 0, d.length, 0⟩]
  | .paAtomic pa o => some [⟨pa, pa, 0, atomSpan o, 0⟩]
  | .zero _ pa n _ => some [⟨pa, pa, 0, n, 0⟩]
  | .scrub _ pa n => some [⟨pa, pa, 0, n, 0⟩]
  | .carry _ src _ n => some [⟨src, src, 0, n, 0⟩]
  | .shift gs => some (gs.map fun a => ⟨a, a, 0, 256, 0⟩)
  | _ => none

/-- The bytes that a write puts, from its operands or from what it has read. -/
def writeData (r : Req) : List Byte :=
  match r.op with
  | .store _ d => d
  | .fill _ n pat ph => (List.range n).map fun i => BitVec.ofNat 8 (pat.toNat / 2 ^ (8 * ((ph + i) % 8)))
  | .place _ d _ => d
  | .storeBits _ d _ => d
  | .result _ _ d _ => d
  | .mirror _ _ v => toBytes 8 v.toNat
  | .record _ _ d => d
  | .paWrite _ d => d
  | .zero _ _ n _ => List.replicate n 0
  | .scrub _ _ n => List.replicate n 0
  | op => cellsGet r.data 0 ((writeSpans op).map (·.2) |>.foldl (· + ·) 0)

/-- A request writes in its phase. -/
def writesNow (r : Req) : Bool :=
  match r.op with
  | .load .. => false | .tileRead _ => false | .contribute .. => false | .ptFetch .. => false | .atomic .. => false
  | .paRead .. => false | .paAtomic .. => false | .coh .. => false | .bias .. => false | .carry .. => false | .shift _ => false
  | .copy .. => r.phase == 1
  | _ => true

/-- Spans and right of a request's phase: 0 R, 1 W, 2 A (Table 7-6). -/
def phaseSpans (r : Req) : List (Nat × Nat) × Nat :=
  match r.op with
  | .coh _ _ _ va _ _ => ([(va / 64 * 64, 64)], 0)
  | .bias va _ _ => ([(va, 4096)], 1)
  | .atomic .. => (atomSpans r.op, 2)
  | .paAtomic .. => (atomSpans r.op, 2)
  | _ => if writesNow r then (writeSpans r.op, 1) else (readSpans r.op, 0)

/-- ACCESS code of a fault record (Table 7-9). -/
def accessCode (r : Req) : Nat :=
  match r.op with
  | .atomic .. => 2 | .tileRead _ => 3 | .tileWrite _ => 4 | .ptFetch .. => 5 | .record .. => 5
  | .coh k _ _ _ _ _ => if k = 0 then 0 else 1
  | .bias .. => 1
  | _ => if writesNow r then 1 else 0

/-- A mover carries out the piece (Table 8-2): COPY, FILL, the zeros of an ALLOC, scrubs, copies between memory ranges
and ports, and the reads of a window warm. -/
def moverWork (r : Req) : Bool :=
  match r.who, r.op with
  | .cmd _, .copy .. => true
  | .cmd _, .fill .. => true
  | .block, .load .. => true
  | _, .zero .. => true
  | _, .scrub .. => true
  | _, .carry .. => true
  | _, .shift _ => true
  | _, _ => false

/-- Movers in service, or with ballast at their place, that no other piece holds, lowest first (R192). -/
def freeMovers (s : State) : List Nat :=
  (List.range 32).filter fun m => (standIn 3 m s).isSome && !s.que.reqs.any fun e => e.2.mover == some m

/-- A piece that parks, or loses its mover, leaves it, unless its transactions are on their way. -/
def leaveMover (r : Req) : Req := if r.st == .reading || r.st == .accepting then r else { r with mover := none }

/-- The mover work of the block's own that a piece belongs to (Table 8-2). -/
def jobOf : ReqOp → Option Nat
  | .scrub e _ _ => some (scrubJob e)
  | .carry e _ _ _ => some (moveJob e)
  | .shift _ => some bucketJob
  | _ => none

/-- The block starts mover work. -/
def startJob (k : Nat) (s : State) : State := modQue (fun q => { q with jobs := mset q.jobs k 0 }) s

/-- Mover work is over, or given up: its pieces leave the movers. -/
def dropJob (k : Nat) (s : State) : State :=
  modQue (fun q => { q with jobs := mdel q.jobs k, reqs := q.reqs.filter fun e => jobOf e.2.op != some k }) s

/-- Bytes of a piece that a mover has worked on. -/
def moverBytes : ReqOp → Nat
  | .copy _ _ n => n
  | .fill _ n _ _ => n
  | .load _ n => n
  | .zero _ _ n _ => n
  | .scrub _ _ n => n
  | .carry _ _ _ n => n
  | .shift gs => 256 * gs.length
  | _ => 0

/-- The pipe of the mover of a piece; the queue scheduler's where none works on it. -/
def moverPipe (r : Req) : Nat := match r.mover with
  | some m => 68 + m
  | none => 102

/-- Ingress pipe of a request (R158): core fabric ports 0 to 63, host ports 64 to 67, movers from 68, the queue
scheduler 102, the mooring cores 103. -/
def pipeOf (r : Req) : Nat :=
  match r.who with
  | .core cf _ _ _ _ => cf
  | .window p _ _ _ => 64 + p
  | .cmd _ => moverPipe r
  | .remote .. => 103
  | .cxl p _ => 64 + p
  | .inbound p => 64 + p
  | .block => match r.op with
    | .load .. => moverPipe r
    | .coh _ a _ _ _ _ => if a < 512 then a / 8 else 104
    | .bias .. => 64
    | _ => 102

/-! ### Order within a token (R215 to R217, R224, R225) -/

/-- A barrier of its token. -/
def isBarrier : ReqOp → Bool
  | .release _ => true | .acquire _ => true | .fenceSignal _ _ => true | .fenceWait _ _ => true | _ => false

/-- An allocator call or a contribution of a core, a doorbell or a Rill write: it takes its turn and moves no data of a
span. -/
def isCall : ReqOp → Bool
  | .alloc .. => true | .free _ => true | .reduce .. => true | .ring .. => true | .rill .. => true | _ => false

/-- The one span of a tile, from its base to the last byte of its last row (R217). -/
def tileHull (t : Tile) : Nat × Nat := (t.base.toNat, (t.rows.toNat - 1) * t.pitch.toNat + t.rowBytes.toNat)

/-- 64-byte widened spans of a request (R217). -/
def trackSpans (r : Req) : List (Nat × Nat) :=
  let l := match r.op with
    | .tileRead t => [tileHull t]
    | .tileWrite t => [tileHull t]
    | _ => readSpans r.op ++ writeSpans r.op ++ atomSpans r.op
  l.map fun x => (x.1 / 64 * 64, (x.1 + x.2 + 63) / 64 * 64)

/-- Two requests overlap. -/
def overlaps (a b : Req) : Bool := (trackSpans a).any fun x => (trackSpans b).any fun y => x.1 < y.2 && y.1 < x.2

/-- Earlier requests of the same token that have not ended. -/
def earlier (id : Nat) (r : Req) (s : State) : List Req :=
  match r.who with
  | .core _ _ _ _ tok => (s.que.reqs.filter fun e => e.1 != id && e.2.seq < r.seq && (match e.2.who with
    | .core _ _ _ _ t => t == tok
    | _ => false)).map (·.2)
  | _ => []

/-- Host port of an inbound request. -/
def inboundPort (r : Req) : Option Nat :=
  match r.who with
  | .window p _ _ _ => some p
  | .inbound p => some p
  | _ => none

/-- Inbound requests of a port that one in arrival order waits for (R120, R191): every earlier one, but for reads that
have been issued. -/
def inboundAhead (p seq : Nat) (s : State) : Bool :=
  s.que.reqs.any fun e => inboundPort e.2 == some p && e.2.seq < seq && e.2.st != .reading

/-- Engine of a core's request. -/
def engineOf (r : Req) : Nat :=
  match r.who with
  | .core _ _ e _ _ => e
  | _ => 0

/-- The covered set of a barrier (R224). -/
def covered (id : Nat) (r : Req) (s : State) : List Req :=
  (earlier id r s).filter fun x => !r.relaxed || engineOf x == engineOf r

/-- T_k (R317). -/
def slotTick (r : Reduction) (k : Nat) : Nat := r.plan.firstSlot + k / r.plan.perSlot * r.plan.stride

/-- Scope of a fence operation: the wider of its own and, for a local fence, the declared one (R229). -/
def fenceScope (d : FenceData) (sc : Nat) (s : State) : Nat :=
  let h := handleOf d.handle
  if d.chip.val = s.spl.chip && slotGen s.que.fenSlots h.index = h.gen then
    match mget s.que.fences h.index with
    | some f => max sc f.scope
    | none => sc
  else sc

/-- KIND of the records that a reduction sends upward (Table 13-6). -/
def redKind (r : Reduction) : Nat := if r.op ≠ 0 then 2 else if r.ordered then 1 else 0

/-- Most locked bytes that may be in use (R318). -/
def lockLimit (s : State) : Nat := 1024 * min 40960 (regFld rCIS_CTRL 0 16 s)

/-- A chunk of a reduction. -/
def chunkOf (r : Reduction) (k : Nat) : Chunk := mgetD r.chunks k {}

/-- The reduction in flight that a record names: its command and state. -/
def redNamed (env : Option Nat) (rid : Nat) (s : State) : Option (Nat × Reduction) :=
  s.cis.reds.find? fun e => !e.2.isOver && e.2.plan.id == rid && some e.2.env == env

/-- A core's contribution waits for its chunk's locked state, in chunk order (R318, R322). -/
def lockWaits (env : Option Nat) (rid k first n fmt : Nat) (s : State) : Bool :=
  match redNamed env rid s with
  | none => false
  | some (_, r) =>
    fmt == r.fmt && r.plan.loc ≠ 0 && k < chunkCount r && first + n ≤ chunkElems r k && !(chunkOf r k).started
      && !(chunkOf r k).failed && (lockLimit s < lockUsed s + chunkState r k
        || (List.range k).any fun j => (chunkOf r j).waited && !(chunkOf r j).started && !(chunkOf r j).failed)

/-- A request may go on under the order of its token (R215, R216, Table 9-2, R225), once it has left its core's wait list. -/
def mayStart (id : Nat) (r : Req) (s : State) : Bool :=
  let behind := (covered id r s).any fun x => isBarrier x.op
  let released (sc : Nat) : Bool := if sc < 2 then !behind else (covered id r s).isEmpty
  let acquired := !((covered id r s).any fun x => !writesNow x || isBarrier x.op)
  !r.listed && (inboundPort r).all (fun p => !inboundAhead p r.seq s) && (match r.op with
  | .release sc => released sc
  | .fenceSignal d sc => released (fenceScope d sc s)
  | .acquire _ => acquired
  | .fenceWait _ _ => acquired
  | .reduce rid k first n fmt _ => !behind && !lockWaits r.env rid k first n fmt s
  | _ => !behind && !((earlier id r s).any fun x => overlaps x r && (!r.relaxed || engineOf x == engineOf r || x.wide)))

/-! ### Range entries and the wait list of a core (R217) -/

/-- Physical core of a request. -/
def coreNo (r : Req) : Option Nat :=
  match r.who with
  | .core cf core _ _ _ => some (8 * cf + core)
  | _ => none

/-- Range entries in use for a core. -/
def entriesUsed (core : Nat) (s : State) : Nat := (s.que.reqs.filter fun e => e.2.entry && coreNo e.2 == some core).length

/-- The wait list of a core, oldest first. -/
def waitList (core : Nat) (s : State) : List Nat := (s.que.reqs.filter fun e => e.2.listed && coreNo e.2 == some core).map (·.1)

/-- The wait list has no room: the credit of a further flit is withheld until the flit enters the list. -/
def listFull (core : Nat) (s : State) : Bool := 32 ≤ (waitList core s).length

/-- A request takes its range entry, or waits in the list of its core behind what waits there. -/
def takeEntry (r : Req) (s : State) : Req :=
  let core := (coreNo r).getD 0
  let need := !(trackSpans r).isEmpty
  let wait := !(waitList core s).isEmpty || (need && 256 ≤ entriesUsed core s)
  { r with entry := need && !wait, listed := wait, owed := listFull core s }

/-- The oldest of a core's wait list leave it while entries are free; what then enters the list gets its credit back. -/
def leaveList (core : Nat) : Nat → State → State
  | 0, s => s
  | n + 1, s =>
    match waitList core s with
    | [] => s
    | id :: _ =>
      match mget s.que.reqs id with
      | none => s
      | some r =>
        let need := !(trackSpans r).isEmpty
        if need && 256 ≤ entriesUsed core s then s
        else leaveList core n (modReq id (fun r => { r with listed := false, entry := need }) s)

/-- Return the credits of the flits that have entered the list of a core, or left it. -/
def payOwed (core : Nat) (s : State) : State :=
  let out := (waitList core s).drop 32
  let due := (s.que.reqs.filter fun e => e.2.owed && coreNo e.2 == some core && !out.contains e.1).map (·.1)
  each due (fun id s => emit (.cfCredit (core / 8) 0 1) (modReq id (fun r => { r with owed := false }) s)) s

/-- Every core's wait list moves on. -/
def listRound (s : State) : State :=
  let cores := (s.que.reqs.filterMap fun e => if e.2.listed || e.2.owed then coreNo e.2 else none).eraseDups
  each cores (fun c s => payOwed c (leaveList c 4096 s)) s

/-! ### Ending a request -/

/-- A request ends: it leaves the table and is reported by its maker's part (`finished`). -/
def endReq (id : Nat) (st : Status) (s : State) : State :=
  match mget s.que.reqs id with
  | some r => modTr (fun t => { t with bad := t.bad.filter fun b => b.req != id })
    (modQue (fun q => { q with reqs := mdel q.reqs id, finished := q.finished ++ [(id, r, st)] }) s)
  | none => s

/-- A request fails a check of Table 7-5: the record of its function holds it (R178). -/
def failReq (id : Nat) (st : Status) (cause va : Nat) (s : State) : State :=
  match mget s.que.reqs id with
  | some r => endReq id st (xfault r.fn (r.ident.ctx.getD 0) va (accessCode r) cause s)
  | none => s

/-! ### Performing -/

/-- Cut a host segment into bus transactions of at most n bytes, aligned to n (R177). -/
def busCut (n : Nat) : Nat → Nat → Nat → List (Nat × Nat)
  | 0, _, _ => []
  | fuel + 1, a, len =>
    if len = 0 then []
    else
      let k := min len (n - a % n)
      (a, k) :: busCut n fuel (a + k) (len - k)

/-- A remote transaction is cut at every 4 KiB boundary of its PA (R177, R335). -/
def remoteCuts (a len fuel : Nat) : List (Nat × Nat) := busCut 4096 fuel a len

/-- Max Payload Size and Max Read Request Size of an instance (log 20), at most 512 and 4,096 bytes (Table 5-1). -/
def mps (fn p : Nat) (s : State) : Nat := min 512 (128 * 2 ^ ((cfgDw fn p 0x16 s).toNat / 32 % 8))
def mrrs (fn p : Nat) (s : State) : Nat := min 4096 (128 * 2 ^ ((cfgDw fn p 0x16 s).toNat / 4096 % 8))

/-- Fabric identity of an envelope: tag and key generation. -/
def envTag (e : Option Nat) (s : State) : Nat × Nat :=
  match e with
  | some i => match mget s.env.envs i with
    | some v => (v.tag, v.kgen)
    | none => (0xFFF, 0)
  | none => (0xFFF, 0)

/-- Put a packet on its way to a chip; a request's carries its identity (R15). -/
def fabPut (chip cls : Nat) (env : Option Nat) (p : Pkt) (s : State) (i : Ident := {}) : State :=
  let (tag, kg) := envTag env s
  { s with fab := { s.fab with outbox := s.fab.outbox ++ [(chip, ⟨cls, tag, kg, p, i⟩)] } }

/-- The link of the path to a peer; link 0 stands where it has none. -/
def peerPath (chip : Nat) (s : State) : Nat := ((mgetD s.fab.peers chip {}).path).getD 0

/-- A completion record: uncharged traffic of the primary instance (R181, R195). -/
def isRecord : ReqOp → Bool
  | .record .. => true
  | _ => false

/-- The port of a host segment: that of its route bucket, or the primary instance's for completion records and fence values
(R180, R181). -/
def segPort (r : Req) (g : Seg) (s : State) : Option Nat :=
  match mget s.que.ctxs (r.ident.ctx.getD 4096) with
  | none => none
  | some x => match r.op with
    | .mirror .. => primary r.fn s
    | .record .. => primary r.fn s
    | _ => routePort r.fn x.pasid g.pa s

/-- The vector whose message announces a completion record or a fence value (R204): that of the record's queue where the
command interrupts, that of the fence's arm. -/
def announcedBy (op : ReqOp) (s : State) : Option Nat :=
  match op with
  | .record c _ _ => (mget s.que.cmds c).bind fun k =>
    if k.hdr.irq then (mget s.que.queues k.queue).map fun q => vecKey q.fn q.vector else none
  | .mirror n _ _ => (mget s.que.fences n).bind fun f =>
    if f.armed || f.armDue || f.armNext then (mget s.que.ctxs f.ctx).map fun x => vecKey x.fn f.armVector else none
  | _ => none

/-- Enabled tags that a request counts against (R405). -/
def tagsOf (i : Ident) (env : Option Nat) (s : State) : List Nat :=
  (List.range 16).filter fun n =>
    let t := regRaw (rOBS_TAG + 8 * n) s
    let m := regRaw (rOBS_TAG_MASK + 8 * n) s
    let c := regRaw (rOBS_TAG_CTL + 8 * n) s
    bit c 0 && Nat.land (Nat.xor (i.layer + 2 ^ 32 * i.oper) t.toNat) m.toNat == 0
      && (bit c 1 || env == some (fld c 2 8))

/-- Count bytes that a request moves against its tags (R405): event 1 host, 2 device memory, 3 fabric. -/
def countTags (r : Req) (ev n : Nat) (s : State) : State :=
  each (tagsOf r.ident r.env s) (fun t s => count 10 ev t n s) s

/-- A copy carries the poison it reads to its destination (R387). -/
def carries (r : Req) : Bool :=
  match r.op with
  | .copy .. => true
  | _ => false

/-- The poisoned spans of what a request reads are kept: a copy's (R387), and those of a ring entry (R130). -/
def keepsBad (r : Req) : Bool :=
  carries r || (match r.op with
    | .ptFetch .. => true
    | _ => false)

/-- Poisoned spans, by absolute offset in a request's data, of a part of what it writes. -/
def badIn (r : Req) (o n : Nat) : List (Nat × Nat) :=
  if carries r then
    r.bad.filterMap fun b =>
      let lo := max o b.1
      let hi := min (o + n) (b.1 + b.2)
      if lo < hi then some (lo, hi - lo) else none
  else if r.poisoned then [(o, n)] else []

/-- Read one segment of a request into its data at an offset; host and remote data comes later. -/
def readSeg (id : Nat) (r : Req) (off : Nat) (g : Seg) (s : State) : State :=
  if g.src = 0 then
    let spans := (badSpans (paLocal g.pa) g.len s).map fun b => (off + b.1, b.2)
    let (d, bad, s) := homeRead (paLocal g.pa) g.len r.hint s
    let s := countTags r 2 g.len (countFn r.fn 4 g.len s)
    modReq id (fun r => { r with
      data := cellsSet r.data off d, poisoned := r.poisoned || bad, bad := if keepsBad r then r.bad ++ spans else [] }) s
  else if g.src = 3 then
    let m := (mgetD s.que.rills (g.pa / 4096) {}).mem
    modReq id (fun r => { r with data := cellsSet r.data off (cellsGet m (g.pa % 4096) g.len) }) s
  else if g.src = 1 then
    match mget s.que.ctxs (r.ident.ctx.getD 4096) with
    | none => s
    | some x => match segPort r g s with
      | none => s
      | some p =>
        let s := countTags r 1 g.len s
        let cuts := busCut (mrrs r.fn p s) 64 g.pa g.len
        (cuts.foldl (fun (a : Nat × State) c =>
          let t := npTag p a.2
          let s := modReq id (fun r => { r with expect := r.expect + c.2 }) a.2
          (a.1 + c.2, npIssue p ⟨t, r.fn, (func r.fn s).gen, r.ident.ctx, r.ident.gen, some x.pasid, c.1, c.2,
            .access id a.1, false⟩ (.read r.fn (some x.pasid) t c.1 c.2) none (units c.2) s)) (off, s)).2
  else
    let s := countTags r 3 g.len s
    remoteCuts g.pa g.len 64 |>.foldl (fun (a : Nat × State) c =>
      (a.1 + c.2, fabPut (paChip g.pa) r.ident.cls r.env (.read id a.1 c.1 c.2)
        (modReq id (fun r => { r with expect := r.expect + c.2 }) a.2) r.ident)) (off, s) |>.2

/-- Write one segment of a request, `off` bytes into its data. A local write outside poison is accepted at once; host
writes when issued; remote writes when acknowledged. -/
def writeSeg (id : Nat) (r : Req) (off : Nat) (d : List Byte) (g : Seg) (s : State) : State :=
  if g.src = 0 then
    let b := match r.op with
      | .storeBits va w b => if g.va + d.length = va + w.length then b else 0
      | .result _ va w b => if g.va + d.length = va + w.length then b else 0
      | _ => 0
    let d := if b = 0 then d
      else
        let old := (cellGet s.rsvr.mem (homeAddr (paLocal g.pa + d.length - 1) s)).toNat
        d.dropLast ++ [BitVec.ofNat 8 ((d.getLastD 0).toNat % 2 ^ b + old / 2 ^ b * 2 ^ b)]
    let l := paLocal g.pa
    let s := homeStore l d r.hint ((badIn r off d.length).map fun b => wordsOf (l + (b.1 - off)) b.2).flatten s
    if (jobOf r.op).isSome then s else countTags r 2 g.len (countFn r.fn 5 g.len s)
  else if g.src = 1 then
    match mget s.que.ctxs (r.ident.ctx.getD 4096) with
    | none => s
    | some x => match segPort r g s with
      | none => s
      | some p =>
        let ann := announcedBy r.op s
        if isRecord r.op then
          sendU p ⟨2, r.fn, r.ident.ctx, .write r.fn (some x.pasid) g.pa d, units d.length, ann⟩ (countTags r 1 g.len s)
        else (busCut (mps r.fn p s) 64 g.pa g.len).foldl (fun (a : Nat × State) c =>
          let b := (d.drop a.1).take c.2
          let m : HostMsg := if !(badIn r (off + a.1) c.2).isEmpty then .writeEp r.fn (some x.pasid) c.1 b else .write r.fn (some x.pasid) c.1 b
          (a.1 + c.2, dirtyHost r.env c.1 (issueNow p ⟨0, r.fn, r.ident.ctx, m, units c.2, ann⟩ a.2))) (0, countTags r 1 g.len s) |>.2
  else
    let cuts := if (badIn r off g.len).isEmpty then remoteCuts g.pa g.len 64 else busCut 64 1100 g.pa g.len
    cuts.foldl (fun (a : Nat × State) c =>
      let p : Pkt := if (badIn r (off + a.1) c.2).isEmpty then .write id c.1 ((d.drop a.1).take c.2) else .write id (c.1 / 64 * 64) []
      (a.1 + c.2, fabPut (paChip g.pa) r.ident.cls r.env p
        (modReq id (fun r => { r with acks := r.acks + 1 }) a.2) r.ident)) (0, countTags r 3 g.len s) |>.2

/-- Host segments of a request. -/
def hostSegs (segs : List Seg) : List Seg := segs.filter fun g => g.src == 1

/-- Bus transactions of a request's host segments on a port. -/
def portCuts (n : Nat) (r : Req) (segs : List Seg) (p : Nat) (s : State) : List (Nat × Nat) :=
  (segs.filter fun g => segPort r g s == some p).flatMap fun g => busCut n 64 g.pa g.len

/-- A port takes what a request puts on it: the whole of its writes find room in the replay buffer (R207), its reads
find tags (R94), a completion record the allowance of the tick (R195). -/
def portTakes (r : Req) (segs : List Seg) (p : Nat) (s : State) : Bool :=
  if writesNow r then
    let cuts := portCuts (mps r.fn p s) r segs p s
    let need := ((cuts.map fun c => units c.2).foldl (· + ·) 0)
    cuts.isEmpty || (if isRecord r.op then uncharged? p ⟨2, r.fn, r.ident.ctx, .write r.fn none 0 [], need, none⟩ s
      else replayBytes p s + 64 * need ≤ 2 ^ 20)
  else npRoom p (portCuts (mrrs r.fn p s) r segs p s).length s

/-- Ports of a request's host segments are all usable now, and take what it puts on them. -/
def hostReady (r : Req) (segs : List Seg) (s : State) : Bool :=
  let hs := hostSegs segs
  hs.isEmpty || (hs.all (fun g => (segPort r g s).isSome) && (!writesNow r || isRecord r.op || !dirtyBlocks r.env s)
    && (List.range 4).all fun p => portTakes r hs p s)

/-- Lines of a local segment that a request's phase needs from memory (R282, R290): all those it reads, and those it writes
in part. -/
def needLines (r : Req) (g : Seg) (s : State) : List Nat :=
  let a := homeAddr (paLocal g.pa) s
  if g.src ≠ 0 || g.len = 0 || !inExtent (paLocal g.pa + g.len - 1) s then []
  else if !writesNow r then linesOf a g.len
  else if streamGran a g.len r.hint then []
  else
    let bits := match r.op with
      | .storeBits _ _ b => b ≠ 0
      | .result _ _ _ b => b ≠ 0
      | _ => false
    (linesOf a g.len).filter fun l => !(a ≤ l * 64 && l * 64 + 64 ≤ a + g.len) || (bits && l == (a + g.len - 1) / 64)

/-- Resources and costs of a segment (R195, Table 8-3); a local access costs each granule that it must ask of a port, at the
port of that granule's bucket (R285). -/
def segCosts (r : Req) (g : Seg) (s : State) : List (Nat × Nat) :=
  if isRecord r.op || g.src = 3 then []
  else if g.src = 1 then (segPort r g s).toList.map fun p => (p, units g.len)
  else if g.src = 2 then [(4 + peerPath (paChip g.pa) s, units g.len)]
  else
    let miss := ((needLines r g s).filter fun n => (mget s.rsvr.lines n).isNone).map granLine |>.eraseDups
    let put := match r.op, movingTo (bucketOf g.pa s) s with
      | .shift _, some p => [(36 + p.1, 4)]
      | _, _ => []
    put ++ miss.map fun n => (36 + (readPlace (n * 64) s).1, 4)

/-- Costs of all segments summed per resource. -/
def reqCosts (r : Req) (segs : List Seg) (s : State) : Map Nat :=
  (segs.flatMap fun g => segCosts r g s).foldl (fun m c => mupd m c.1 0 (· + c.2)) []

/-- The credit step: charge every resource not yet paid in the phase, or wait at the first whose class is not eligible.
A class with a waiting request lends nothing more in the tick where it is guaranteed (R196). -/
def payCosts (id : Nat) (r : Req) (segs : List Seg) (s : State) : Bool × State :=
  if r.asked then (true, s)
  else
    let costs := (reqCosts r segs s).filter fun e => !r.paid.contains e.1
    match costs.find? fun e => !(eligible e.1 r.ident.cls e.2 s
        && ((creditWaiters e.1 r.ident.cls s).filter fun w => w.1 != id).isEmpty) with
    | some e => (false, modReq id (fun r => { r with st := .credit, res := e.1, cost := e.2 })
        { s with ep := { s.ep with waited := insNat (resKey e.1 r.ident.cls) s.ep.waited } })
    | none => (true, modReq id (fun r => { r with paid := r.paid ++ costs.map (·.1) }) (each costs (fun e s => spend e.1 r.ident.cls e.2 s) s))

/-- Look up the lines a request needs, once in a phase: a miss asks for its granule. They are there once no fill of one
of them is outstanding. -/
def askSegs (id : Nat) (r : Req) (segs : List Seg) (s : State) : Bool × State :=
  let need := (segs.map fun g => needLines r g s).flatten
  let s := if r.asked then s
    else modReq id (fun r => { r with asked := true }) (each need (fun l s => touchLine l r.hint false false s) s)
  (need.all fun l => !fillOpen l s, s)

/-- Perform every segment of a request's phase in order. -/
def performAll (id : Nat) (r : Req) (segs : List Seg) (s : State) : State :=
  let d := if writesNow r then writeData r else []
  (segs.foldl (fun (a : Nat × State) g =>
    (a.1 + g.len, if writesNow r then writeSeg id r a.1 ((d.drop a.1).take g.len) g a.2 else readSeg id r a.1 g a.2))
    (0, s)).2

/-- Shared lines under a request's local segments must be free of other holders (R256, R268 to R270). -/
def prepSegs (id : Nat) (k : CohKind) (cxl : Bool) (segs : List Seg) (s : State) : Bool × State :=
  segs.foldl (fun (a : Bool × State) g =>
    if g.src = 0 then
      let (ok, s) := ncPrepAll id k cxl (linesOf (paLocal g.pa) g.len) a.2
      (a.1 && ok, s)
    else a) (true, s)

/-- An atomic on one translated segment: local at the home; remote over the fabric; on host memory through the host
proxy, which is reached when the context's host group carries CXL.cache (R270). -/
def atomicSeg (id : Nat) (r : Req) (o : AtomOp) (g : Seg) (s : State) : State :=
  let s := countTags r (if g.src = 0 then 2 else if g.src = 1 then 1 else 3) g.len s
  if g.src = 0 then
    let (old, bad, s) := homeAtomic (paLocal g.pa) o r.hint (countFn r.fn 5 g.len (countFn r.fn 4 g.len s))
    let s := modReq id (fun r => { r with data := cellsSet [] 0 (if o.noret then [] else toBytes 16 old) }) s
    endReq id (if bad then .poison else .ok) s
  else if g.src = 2 then
    fabPut (paChip g.pa) r.ident.cls r.env (.atomic id g.pa o) (modReq id (fun r => { r with expect := 16 }) s) r.ident
  else
    let k := hostKey g.pa
    let e := dirEnt k s
    if e.hstate = 3 && e.owner.isNone && e.sharers.isEmpty && e.txn.isNone then
      let line := mgetD s.coh.hostData k (List.replicate 64 0)
      let o64 := g.pa % 64
      let old := ofBytes ((line.drop o64).take g.len)
      let new := toBytes g.len (atomResult o old)
      let s := modCoh (fun c => { c with hostData := mset c.hostData k (line.take o64 ++ new ++ line.drop (o64 + g.len)) }) s
      let bad := s.coh.poisoned.contains k
      endReq id (if bad then .poison else .ok)
        (modReq id (fun r => { r with data := cellsSet [] 0 (if o.noret then [] else toBytes 16 old) }) (readPoison k bad s))
    else arrive k { kind := .atomic, req := some id } s

/-- A mover copies a piece of a mirrored pair from the primary to the other range, poison and all (R365). -/
def carryPiece (id src dst n : Nat) (s : State) : State :=
  let bad := (wordsOf src n).filter fun w => poisonAt (w * 8) 8 s
  let s := rawPut dst (cellsGet s.rsvr.mem src n) s
  endReq id .ok (modRsvr (fun q => { q with poison := bad.foldl (fun p w => insNat ((w * 8 - src + dst) / 8) p) q.poison }) s)

/-- A mover writes granules of the bucket that moves to its new port, their failing words as poison (R296). -/
def shiftPiece (id : Nat) (gs : List Nat) (s : State) : State :=
  endReq id .ok (each gs (fun a s => match movingTo (bucketOf a s) s with
    | some p => mpSend p.1 ⟨true, granOf p.2 a, 0xF, kslotOf a s, granData (a / 64) s, badWords a 256 s⟩ s
    | none => s) s)

/-- Where a request stands after its segments have been performed: it ends when nothing is outstanding. -/
def afterPerform (id : Nat) (s : State) : State :=
  match mget s.que.reqs id with
  | none => s
  | some r =>
    if r.expect ≠ 0 then modReq id (fun r => { r with st := .reading }) s
    else if r.acks ≠ 0 then modReq id (fun r => { r with st := .accepting }) s
    else if r.poisoned && !writesNow r && !carries r then endReq id .poison s
    else match r.op, r.phase with
    | .copy .., 0 => modTr (fun t => { t with ready := t.ready ++ [(id, none)] })
        (modReq id (fun r => { r with phase := 1, rounds := 0, paid := [], asked := false, st := .translate }) s)
    | .copy .., _ => endReq id (if r.poisoned then .poison else .ok) s
    | _, _ => endReq id .ok s

/-- Pieces to translate: an agent's request for ownership needs W beside R (R261). -/
def reqPieces (r : Req) : List (Nat × Nat × Nat) :=
  let (spans, right) := phaseSpans r
  let ps := (spans.map fun x => pieces x.1 x.2 right).flatten
  match r.op with
  | .coh k _ _ va _ _ => if k = 0 then ps else ps ++ pieces (va / 64 * 64) 64 1
  | _ => ps

/-- A request that only needed its translation keeps the address it got. -/
def onlyXlate (r : Req) (segs : List Seg) : Option ReqOp :=
  match r.op, segs with
  | .coh k a t va _ _, g :: _ => some (.coh k a t va g.pa g.src)
  | .bias va _ _, g :: _ => some (.bias va g.pa g.src)
  | _, _ => none

/-- An agent's request. -/
def isCohOp : ReqOp → Bool
  | .coh .. => true
  | _ => false

/-- Distinct pages a request may touch: 512 for a tile (R174), no limit otherwise. -/
def pageLimit (op : ReqOp) (ps : List (Nat × Nat × Nat)) : Nat :=
  match op with
  | .tileRead _ => 512
  | .tileWrite _ => 512
  | _ => ps.length

/-- Advance a request: order, translation, checks, coherence, credit, the lines it needs, then its effect (R179). -/
def kick (id : Nat) (s : State) : State :=
  match mget s.que.reqs id with
  | none => s
  | some r =>
    let cut := frozen s && (match r.who with
      | .window .. => false
      | .remote .. => false
      | .inbound _ => !isCall r.op
      | _ => true)
    if r.st == .reading || r.st == .accepting || r.st == .flushing then s
    else if cut || !mayStart id r s || (moverWork r && r.mover.isNone && (freeMovers s).isEmpty) then
      modReq id (fun r => { r with st := .held }) s
    else if isBarrier r.op || isCall r.op then endReq id .ok s
    else
      let spans := (phaseSpans r).1
      let c := r.ident.ctx.getD 4096
      let ps := reqPieces r
      let r := { r with mover := if moverWork r then r.mover.or (freeMovers s).head? else none }
      let s := modReq id (fun x => { x with st := .translate, mover := r.mover }) s
      let (x, s) := match paSegs r.op with
        | some l => (XAll.ok l, s)
        | none => xlateAll (pageLimit r.op ps) (pipeOf r) id c ps s
      match x with
      | .wait => s
      | .fail st cause va => failReq id st cause va s
      | .pri pages =>
        let pasid := (match mget s.que.ctxs c with
          | some y => y.pasid
          | none => 0)
        let (bad, s) := startPri id r.fn pasid r.rounds pages s
        match bad with
        | some cause => failReq id .fault cause ((spans.headD (0, 0)).1) s
        | none => modReq id (fun r => { r with rounds := r.rounds + 1 }) s
      | .ok segs =>
        match onlyXlate r segs with
        | some op =>
          let (there, s) := if isCohOp r.op then askSegs id r segs s else (true, s)
          if there then endReq id .ok (modReq id (fun r => { r with op := op }) s) else s
        | none =>
        let kind : CohKind := match r.op with
          | .atomic .. => .atomic
          | .paAtomic .. => .atomic
          | _ => if writesNow r then .ncWrite else .ncRead
        let cxl := match r.who with
          | .cxl .. => true
          | _ => false
        let (free, s) := prepSegs id kind cxl segs s
        if !free then s
        else if !hostReady r segs s then (if (hostSegs segs).isEmpty then s else parkWake r.fn s)
        else
          let (paid, s) := payCosts id r segs s
          if !paid then s
          else
          let (there, s) := askSegs id r segs s
          if !there then s
          else match r.op with
          | .atomic _ o => match segs with
            | g :: _ => atomicSeg id r o { g with len := atomSpan o } s
            | [] => s
          | .paAtomic _ o => match segs with
            | g :: _ => atomicSeg id r o { g with len := atomSpan o } s
            | [] => s
          | .carry _ src dst n => carryPiece id src dst n s
          | .shift gs => shiftPiece id gs s
          | _ => afterPerform id (performAll id r segs s)

/-- Enter a request into the table and start it. -/
def newReq (r : Req) (s : State) : State :=
  let id := s.que.nextReq
  let s := modQue (fun q => { q with nextReq := id + 1, reqs := mset q.reqs id { r with seq := id } }) s
  kick id s

/-- Requests that wait for nothing but their turn are tried again: held ones, those between fills, and those whose
route or credit had to wait. -/
def kickWaiting (s : State) : State :=
  each ((s.que.reqs.filter fun e => e.2.st == .held || e.2.st == .translate).map (·.1)) kick s

/-- Data arrives for a request at an offset (R115); poison ends it with POISON once everything is there, a COPY's after
it has been carried on (R387). -/
def reqData (id off : Nat) (d : List Byte) (bad : Bool) (s : State) : State :=
  match mget s.que.reqs id with
  | none => s
  | some _ =>
    afterPerform id (modReq id (fun r => { r with
      data := cellsSet r.data off d, expect := r.expect - d.length, poisoned := r.poisoned || bad
      bad := if bad && keepsBad r then r.bad ++ [(off, d.length)] else r.bad }) s)

/-- A remote write of a request has been acknowledged. -/
def reqAck (id : Nat) (s : State) : State :=
  match mget s.que.reqs id with
  | none => s
  | some _ => afterPerform id (modReq id (fun r => { r with acks := r.acks - 1 }) s)

/-- Requests that fills, transactions and answers have made ready. -/
def drainReady : Nat → State → State
  | 0, s => s
  | n + 1, s =>
    match s.tr.ready, s.coh.ready with
    | (id, none) :: l, _ => drainReady n (kick id (modTr (fun t => { t with ready := l }) s))
    | (id, some (st, cause)) :: l, _ =>
      let va := match mget s.que.reqs id with
        | some r => ((phaseSpans r).1.headD (0, 0)).1
        | none => 0
      drainReady n (failReq id st cause va (modTr (fun t => { t with ready := l }) s))
    | [], id :: l => drainReady n (kick id (modCoh (fun c => { c with ready := l }) s))
    | [], [] => s

/-- The class that the arbiter serves next at a resource (R196): among the classes whose first waiting request is
eligible, or may borrow from cycle 850 on, the lowest PRIORITY, equal ones round robin. -/
def arbiter (res : Nat) (late : Bool) (s : State) : Option Nat :=
  let first (c : Nat) : Option (Nat × Req) :=
    (creditWaiters res c s).foldl (fun (a : Option (Nat × Req)) w => match a with
      | none => some w
      | some b =>
        let k (r : Req) : Nat := if r.ident.deadline = 0 then 2 ^ 20 else r.dlLeft
        if k w.2 < k b.2 || (k w.2 == k b.2 && w.2.seq < b.2.seq) then some w else a) none
  let spare := ((List.range 16).filter fun c =>
      (!classGuard res c s && (creditWaiters res c s).isEmpty)
      || (classGuard res c s && !s.ep.waited.contains (resKey res c))).map (fun c => creditLeft res c s)
    |>.foldl (· + ·) 0
  let ok (c : Nat) : Bool := match first c with
    | none => false
    | some w =>
      eligible res c w.2.cost s || (late && classBorrow c s && w.2.cost ≤ creditLeft res c s + spare)
  let turn := mgetD s.ep.turn res 0
  let order := (List.range 16).map fun i => (turn + i) % 16
  let cand := order.filter ok
  match cand with
  | [] => none
  | c :: r =>
    let best := r.foldl (fun a b => if classPrio b s < classPrio a s then b else a) c
    ((creditWaiters res best s).foldl (fun (a : Option (Nat × Req)) w => match a with
      | none => some w
      | some b =>
        let k (r : Req) : Nat := if r.ident.deadline = 0 then 2 ^ 20 else r.dlLeft
        if k w.2 < k b.2 || (k w.2 == k b.2 && w.2.seq < b.2.seq) then some w else a) none).map (·.1)

/-- Take borrowed units from the classes that may lend at a resource, in class order (R196). -/
def borrow (res cls : Nat) : List Nat → Nat → State → State
  | [], _, s => s
  | c :: r, n, s =>
    let k := if c = cls then 0 else min n (creditLeft res c s)
    borrow res cls r (n - k) { s with ep := { s.ep with lent := if k = 0 then s.ep.lent else mupd s.ep.lent (resKey res c) 0 (· + k) } }

/-- Classes that may lend at a resource. -/
def lenders (res : Nat) (s : State) : List Nat :=
  (List.range 16).filter fun c => (!classGuard res c s && (creditWaiters res c s).isEmpty)
    || (classGuard res c s && !s.ep.waited.contains (resKey res c))

/-- The arbiter admits one request at a resource (R196): its cost is spent, what its class lacks is borrowed, and it
goes on. -/
def admitOne (res : Nat) (late : Bool) (s : State) : State :=
  match arbiter res late s with
  | none => s
  | some id => match mget s.que.reqs id with
    | none => s
    | some r =>
      let c := r.ident.cls
      let lack := if eligible res c r.cost s then 0 else r.cost - creditLeft res c s
      let s := if lack = 0 then s else count 2 1 (16 * res + c) lack (borrow res c (lenders res s) lack s)
      let s := spend res c (r.cost - lack) s
      let s := { s with ep := { s.ep with turn := mset s.ep.turn res ((c + 1) % 16) } }
      kick id (modReq id (fun r => { r with st := .translate, paid := insNat res r.paid }) s)

end Sys2Proof.Machine
end

