-- ==== Sys2Proof/Machine/Fences.lean ====
section
/-! DEFINITION. Chapter 10: fences at their home, waits, mirrors, arms and the mismatch check (R232 to R247). -/
namespace Sys2Proof.Machine

/-- An aperture write that fails a check of Table 8-1 is counted, also against its region's envelope, whose first failure
of a tick is a level-0 event (R189). -/
def plcRefused (p : Nat) (env : Option Nat) (s : State) : State :=
  let s := setEvent rDPA_EVENT 2 { s with ep := { s.ep with badKey := satAdd 32 s.ep.badKey 1 } }
  match env with
  | none => s
  | some e =>
    let s := { s with env := { s.env with envs := mmod s.env.envs e fun v => { v with refused := v.refused + 1 } } }
    if s.ep.badKeyTick.contains e then s
    else raise (32 + p) .advisory none (some e) 0 { s with ep := { s.ep with badKeyTick := e :: s.ep.badKeyTick } }

/-- Change a fence record. -/
def modFence (n : Nat) (f : Fence → Fence) (s : State) : State :=
  modQue (fun q => { q with fences := mmod q.fences n f }) s

/-- Code of a fence state (Table 10-1). -/
def fenceCode : FenceSt → Nat
  | .live => 1 | .error => 2 | .exhausted => 3 | .destroying => 4

/-- Is a wait's target met (R235, Table 10-5)? -/
def targetMet (f : Fence) (g : W64) : Bool :=
  if f.compat then dist32 f.value.toNat g.toNat < 2 ^ 31 else g.toNat ≤ f.value.toNat

/-- Does a scope of one observer contain another (Table 9-1)? Observers are chip, core, engine; core 0x1FF is the
block's own work for a command, chip 2^13 a host. -/
def scopeContains (sc : Nat) (a b : Nat × Nat × Nat) : Bool :=
  if 4 ≤ sc then true
  else if a.1 = 2 ^ 13 || b.1 = 2 ^ 13 then false
  else if sc = 3 then true
  else if a.1 ≠ b.1 then false
  else if sc = 2 then true
  else if a.2.1 ≠ b.2.1 || a.2.1 = 0x1FF then false
  else sc = 1 || a.2.2 == b.2.2

/-- Count a mismatch against a context: at most one advisory per context and tick (R242). -/
def mismatchAt (c : Nat) (s : State) : State :=
  let s := match mget s.que.ctxs c with
    | some x =>
      let s := if x.mismatchTick then s else raise 10 .advisory (some c) none 0 s
      modQue (fun q => { q with ctxs := mset q.ctxs c { x with mismatches := satAdd 32 x.mismatches 1, mismatchTick := true } }) s
    | none => s
  setEvent rSYN_EVENT 3 s

/-- The check of a satisfied wait (R242): the signal's scope contains the waiter and the wait's scope the signaller. A
value that no signal has brought has no signaller. -/
def checkWait (f : Fence) (w : Wait) (s : State) : State :=
  if regFld rSYN_CHECK 0 1 s = 0 || !f.signed then s
  else
    let chip := match w.who with
      | .remote c _ _ _ => c
      | _ => s.spl.chip
    let me := (chip, w.core, w.engine)
    let sig := (f.sig.chip, f.sig.core, f.sig.engine)
    if scopeContains f.sig.scope sig me && scopeContains w.scope me sig then s
    else match w.ctx with
    | some c => mismatchAt c s
    | none => setEvent rSYN_EVENT 3 s

/-- End a pending wait. -/
def endWait (i : Nat) (st : Status) (v : W64) (s : State) : State :=
  match mget s.que.waits i with
  | some w => modQue (fun q => { q with waits := mdel q.waits i, fenceEnds := q.fenceEnds ++ [(w.who, st, v)] }) s
  | none => s

/-- Waits pending on a fence, in arrival order. -/
def waitsOn (n : Nat) (s : State) : Map Wait := s.que.waits.filter fun e => e.2.fence == n

/-- Waits that a change of a fence satisfies, or ends when it has left LIVE. -/
def wakeWaits (n : Nat) (s : State) : State :=
  match mget s.que.fences n with
  | none => s
  | some f =>
    each (waitsOn n s) (fun e s =>
      if !e.2.registered then s
      else match f.st with
      | .live => if targetMet f e.2.target then
          trace 9 { e.2.ident with ctx := e.2.ctx } e.2.env 10 f.value (endWait e.1 .ok f.value (checkWait f e.2 s))
        else s
      | .destroying => endWait e.1 .revoked f.value s
      | _ => endWait e.1 .fenceError f.value s) s

/-- Fire the arm of a fence (R247). -/
def fireArm (n : Nat) (s : State) : State :=
  match mget s.que.fences n with
  | none => s
  | some f =>
    let fn := match mget s.que.ctxs f.ctx with
      | some c => c.fn
      | none => 0
    fire fn f.armVector (modFence n (fun f => { f with armed := false, armDue := false, armNext := false }) s)

/-- Start a mirror write, or note that another must follow the one in flight (R246). The reader's scope is checked when
the mirror is written (R242). -/
def mirrorWrite (n : Nat) (s : State) : State :=
  match mget s.que.fences n with
  | none => s
  | some f => match f.mirror with
    | none => s
    | some va =>
      if f.mirrorBusy then modFence n (fun f => { f with mirrorAgain := true }) s
      else
        let reader := if hostHalf va then (2 ^ 13, 0, 0) else (s.spl.chip, 0x1FF, 0)
        let sig := (f.sig.chip, f.sig.core, f.sig.engine)
        let meets := scopeContains f.sig.scope sig reader && scopeContains (if hostHalf va then 4 else max 2 f.scope) reader sig
        let s := if regFld rSYN_CHECK 0 1 s = 1 && f.signed && !meets then mismatchAt f.ctx s else s
        match mget s.que.ctxs f.ctx with
        | none => s
        | some c =>
          newReq { who := .block, fn := c.fn, env := c.env, op := .mirror n va f.value
                   ident := { ctx := some f.ctx, cls := c.defCls } }
            (modFence n (fun f => { f with mirrorBusy := true, mirrorAgain := false }) s)

/-- What follows each change of VALUE: waits, mirror, arm. The arm fires once the mirror write of the change has been
accepted, at once without a mirror (R247). -/
def fenceChanged (n : Nat) (s : State) : State :=
  let s := wakeWaits n s
  let s := match mget s.que.fences n with
    | some f =>
      if f.armed && (f.st != .live || targetMet f f.armTarget) then
        if f.mirror.isNone then fireArm n s
        else if f.mirrorBusy then modFence n (fun f => { f with armNext := true }) s
        else modFence n (fun f => { f with armDue := true }) s
      else s
    | none => s
  mirrorWrite n s

/-- What follows the entry into ERROR, which leaves VALUE and so the mirror alone: waits end and an arm fires at once. -/
def fenceFailed (n : Nat) (s : State) : State :=
  let s := wakeWaits n s
  match mget s.que.fences n with
  | some f => if f.armed then fireArm n s else s
  | none => s

/-- A fence enters ERROR (R238). -/
def fenceToError (n cause : Nat) (s : State) : State :=
  match mget s.que.fences n with
  | some f =>
    if f.st == .live then
      fenceFailed n (setEvent rSYN_EVENT 1 (modFence n (fun f => { f with st := .error, cause := cause }) s))
    else s
  | none => s

/-- Apply a signal at the home (R234, R238, R243): its status and the value it returns; `i` is the identity of what
signals. -/
def fenceSignal (n : Nat) (v : W64) (sig : Signaller) (i : Ident) (s : State) : (Status × W64) × State :=
  match mget s.que.fences n with
  | none => ((.staleHandle, 0), s)
  | some f =>
    let sig := { sig with scope := max sig.scope f.scope }
    let stale (s : State) : State := modFence n (fun f => { f with stale := satAdd 16 f.stale 1 }) s
    let fn := match mget s.que.ctxs f.ctx with
      | some c => c.fn
      | none => 0
    let applied (v : W64) (s : State) : State :=
      let s := countFn fn 11 1 s
      let s := trace 8 { i with ctx := some f.ctx } ((mget s.que.ctxs f.ctx).bind (·.env)) 10 v s
      modFence n (fun f => { f with value := v, sig := sig, signed := true }) s
    match f.st with
    | .destroying => ((.revoked, 0), s)
    | .error => ((.fenceError, f.value), s)
    | .exhausted => ((.fenceError, f.value), s)
    | .live =>
      if f.compat then
        if v.toNat / 2 ^ 32 ≠ 0 then ((.invalid, f.value), s)
        else
          let d := dist32 v.toNat f.value.toNat
          if d = 0 then ((.ok, f.value), stale s)
          else if d < 2 ^ 31 then ((.ok, v), fenceChanged n (applied v s))
          else if d = 2 ^ 31 then ((.fenceError, f.value), fenceToError n 3 s)
          else ((.ok, f.value), stale s)
      else if v.toNat = 2 ^ 64 - 1 then
        let s := applied v s
        let s := wakeWaits n s
        let s := each (waitsOn n s) (fun e s => endWait e.1 .ok v (checkWait { f with value := v, sig := sig, signed := true } e.2 s)) s
        let s := modFence n (fun f => { f with st := .exhausted }) s
        ((.ok, v), fenceChanged n (setEvent rSYN_EVENT 2 s))
      else if v.toNat ≤ f.value.toNat then ((.ok, f.value), stale s)
      else ((.ok, v), fenceChanged n (applied v s))

/-- A wait reaches the home (R235, R237): satisfied or failed at once, or registered, or held outside a full table. -/
def fenceWait (w : Wait) (s : State) : State :=
  match mget s.que.fences w.fence with
  | none => modQue (fun q => { q with fenceEnds := q.fenceEnds ++ [(w.who, .staleHandle, 0)] }) s
  | some f =>
    let ends (st : Status) (s : State) : State := modQue (fun q => { q with fenceEnds := q.fenceEnds ++ [(w.who, st, f.value)] }) s
    let w := { w with scope := max w.scope f.scope }
    match f.st with
    | .destroying => ends .revoked s
    | .error => ends .fenceError s
    | .exhausted => ends .fenceError s
    | .live =>
      if f.compat && w.target.toNat / 2 ^ 32 ≠ 0 then ends .invalid s
      else if targetMet f w.target then
        trace 9 { w.ident with ctx := w.ctx } w.env 10 f.value (ends .ok (checkWait f w s))
      else
        let room := ((s.que.waits.filter fun e => e.2.registered).length) < 65536
        let s := whenS (!room) (setEvent rSYN_EVENT 0) s
        modQue (fun q => { q with
          waits := mset q.waits q.nextWait { w with registered := room }, nextWait := q.nextWait + 1 }) s

/-- Waits outside the table are looked at again in each edge cycle (R237). -/
def waitsEdge (s : State) : State :=
  each (s.que.waits.filter fun e => !e.2.registered) (fun e s =>
    fenceWait e.2 (modQue (fun q => { q with waits := mdel q.waits e.1 }) s)) s

/-- TIMEOUT counts of an edge (R236). -/
def waitsTick (s : State) : State :=
  modQue (fun q => { q with waits := mmap (fun _ w => { w with left := w.left.map (· - 1) }) q.waits }) s

/-- A mirror write ends (R246): accepted, a due arm fires and the waiting change goes next; a failed one clears the
mirror, and with it every arm that waited for a write fires. -/
def mirrorDone (n : Nat) (st : Status) (s : State) : State :=
  match mget s.que.fences n with
  | none => s
  | some f =>
    let s := modFence n (fun f => { f with mirrorBusy := false, mirrorSent := false }) s
    let s := if st == .ok then s else modFence n (fun f => { f with mirror := none, mirrorAgain := false }) s
    let again := f.mirrorAgain && st == .ok
    let s := if f.armDue || (f.armNext && !again) then fireArm n s else s
    if again then mirrorWrite n (modFence n (fun f => { f with armDue := f.armNext, armNext := false }) s) else s

/-- The result registers of a function's fence action (Table 10-9). -/
def actResult (fn : Nat) (st : Status) (v : W64) (state : Nat) (s : State) : State :=
  { s with que := { s.que with
    actStatus := mset s.que.actStatus fn (statusCode st), actValue := mset s.que.actValue fn v
    actState := mset s.que.actState fn state, actBusy := mdel s.que.actBusy fn } }

/-- The first write of a mirror has been performed or has failed: the SET_MIRROR that asked for it ends (R246). -/
def mirrorAct (n va : Nat) (st : Status) (s : State) : State :=
  match s.que.actBusy.find? fun e => e.2 == (n, va), mget s.que.fences n with
  | some e, some f => actResult e.1 st f.value (fenceCode f.st) s
  | _, _ => s

/-- A mirror write has been issued, or has failed translation (R246): a failure clears the mirror at once; acceptance comes
with MIRROR_WRITE_ACCEPTED. -/
def mirrorEnd (n va : Nat) (st : Status) (s : State) : State :=
  let s := mirrorAct n va st s
  match mget s.que.fences n with
  | none => s
  | some f =>
    if st == .ok then modFence n (fun f => { f with mirrorSent := true }) s
    else mirrorDone n (if f.mirror = some va then st else .ok) s

/-- RESET (R238): accepted only in ERROR or EXHAUSTED. -/
def fenceReset (n : Nat) (v : W64) (s : State) : Status × State :=
  match mget s.que.fences n with
  | none => (.staleHandle, s)
  | some f =>
    if f.st == .live then (.busy, s)
    else if f.st == .destroying then (.revoked, s)
    else if (if f.compat then v.toNat / 2 ^ 32 ≠ 0 else v.toNat = 2 ^ 64 - 1) then (.invalid, s)
    else
      (.ok, mirrorWrite n (modFence n (fun f => { f with
        value := v, st := .live, signed := false, stale := 0, cause := 0, armed := false, armDue := false, armNext := false }) s))

/-- ARM (R247); a compatibility-mode target has no upper bits (R243). -/
def fenceArm (n vec : Nat) (target : W64) (vectors : Nat) (s : State) : Status × State :=
  match mget s.que.fences n with
  | none => (.staleHandle, s)
  | some f =>
    if vectors ≤ vec || (f.compat && target.toNat / 2 ^ 32 ≠ 0) then (.invalid, s)
    else
      let s := modFence n (fun f => { f with armVector := vec, armTarget := target, armed := true, armDue := false, armNext := false }) s
      match f.st with
      | .live => (.ok, if targetMet f target then fireArm n s else s)
      | .destroying => (.revoked, s)
      | _ => (.fenceError, fireArm n s)

end Sys2Proof.Machine
end

