-- ==== Sys2Proof/Machine/Objects.lean ====
section
/-! DEFINITION. Chapter 6, objects: slots and generations (R121 to R124), the allocator (R141, R142), page-table
mappings (R150, R151), freeing (R138), contexts and queues (Tables 6-7 and 6-8), destruction (R139). -/
namespace Sys2Proof.Machine

/-! ### Slots -/

/-- Take a slot: never-used ones first, then freed ones in order (R124). -/
def takeSlot (total : Nat) (k : Slots) : Option (Nat × Slots) :=
  if k.fresh < total then some (k.fresh, { k with fresh := k.fresh + 1 })
  else match k.freed with
  | i :: r => some (i, { k with freed := r })
  | [] => none

/-- Increment a slot's generation; at 0xFFFF_FFFF the slot is retired instead (R124). -/
def bumpSlot (i : Nat) (k : Slots) : Slots :=
  if slotGen k i = 0xFFFFFFFF then { k with retired := insNat i k.retired }
  else { k with gens := mset k.gens i (slotGen k i + 1) }

/-- A slot returns to the end of its free list, unless it is retired. -/
def freeSlot (i : Nat) (k : Slots) : Slots := if k.retired.contains i then k else { k with freed := k.freed ++ [i] }

/-- Free slots of a kind: a retired slot is not free (R124). -/
def freeSlots (total : Nat) (k : Slots) : Nat := total - k.fresh + k.freed.length

/-- Event of a retirement (Table 6-15), where the number of retired slots has risen. -/
def retiredCount (s : State) : Nat :=
  s.que.ctxSlots.retired.length + s.que.queSlots.retired.length + s.que.objSlots.retired.length
    + s.que.fenSlots.retired.length + s.que.regSlots.retired.length

/-- Apply a change of slots and set SLOT_RETIRED where it retired one. -/
def withRetire (f : State → State) (s : State) : State :=
  let n := retiredCount s
  let s := f s
  whenS (n < retiredCount s) (setEvent rQUE_EVENT 4) s

/-- The handle of a slot (R122). -/
def mkHandle (type index gen : Nat) : W64 := BitVec.ofNat 64 (type + 256 * index + 2 ^ 32 * gen)

/-- Envelope quota of an object type (R121): 1 context to 5 region; none for the physical function. -/
def quotaOf (env : Option Nat) (ty : Nat) (s : State) : Option Nat :=
  match env with
  | none => none
  | some e => (mget s.env.envs e).map fun v =>
    if ty = 1 then v.qCtx else if ty = 2 then v.qQueue else if ty = 3 then v.qObj else if ty = 4 then v.qFence
    else v.qRegion

/-- Envelope of a context. -/
def ctxEnv (c : Nat) (s : State) : Option Nat := (mget s.que.ctxs c).bind (·.env)

/-- Objects of a type that an envelope holds. -/
def usedOf (e ty : Nat) (s : State) : Nat :=
  if ty = 1 then (s.que.ctxs.filter fun x => x.2.env == some e).length
  else if ty = 2 then (s.que.queues.filter fun x => (x.2.ctx.bind fun c => ctxEnv c s) == some e).length
  else if ty = 3 then (s.que.objs.filter fun x => x.2.env == e).length
  else if ty = 4 then (s.que.fences.filter fun x => ctxEnv x.2.ctx s == some e).length
  else (s.que.regions.filter fun x => ctxEnv x.2.ctx s == some e).length

/-- A create stays within the envelope's quota. -/
def quotaLeft (env : Option Nat) (ty : Nat) (s : State) : Bool :=
  match env, quotaOf env ty s with
  | some e, some q => q = 0 || usedOf e ty s < q
  | _, _ => true

/-! ### Handle checks (R123) -/

/-! ### The policy checker (R19) -/

/-- An object lies within the envelope of the function that asks for a change on it, as the binding tables record it. -/
def policyObj (fn : Nat) (o : Obj) (s : State) : Bool :=
  let (b, n) := envRange o.env s
  some o.env == (func fn s).env && b ≤ (objRange o s).1 && (objRange o s).1 + (objRange o s).2 ≤ b + n

/-- A change that the checker rejects has no effect but its audit record (Table 17-7): the handle it names, and the
status. -/
def policyRefused (fn : Nat) (h : W64) (st : Status) (s : State) : State :=
  auditO .policyRefused 0 fn ((func fn s).env.getD noEnv) true [h, BitVec.ofNat 64 (statusCode st)] s

/-- What a caller's handle names. -/
inductive HRes where
  | slot (i : Nat)
  | fail (st : Status)
  deriving DecidableEq, Repr

/-- Check a handle of an expected type for a caller of a function and envelope (R122, R123). Admin commands of a
function reach its own contexts' objects. -/
def checkHandle (h : W64) (ty fn : Nat) (env : Option Nat) (s : State) : HRes :=
  let x := handleOf h
  let owns (c : Nat) : Bool := match mget s.que.ctxs c with
    | some v => v.env == env && (env.isSome || v.fn == fn)
    | none => false
  if x.rsvd ≠ 0 || x.type ≠ ty then .fail .invalid
  else
    let sl := if ty = 1 then s.que.ctxSlots else if ty = 2 then s.que.queSlots else if ty = 3 then s.que.objSlots
      else if ty = 4 then s.que.fenSlots else s.que.regSlots
    if slotGen sl x.index ≠ x.gen || sl.retired.contains x.index then .fail .staleHandle
    else if ty = 1 then
      (if owns x.index && ((mget s.que.ctxs x.index).map (·.fn)) == some fn then .slot x.index else .fail .staleHandle)
    else if ty = 2 then
      match mget s.que.queues x.index with
      | some q => if q.ctx.isSome && q.fn == fn then .slot x.index else .fail .staleHandle
      | none => .fail .staleHandle
    else if ty = 3 then
      match mget s.que.objs x.index with
      | some o => if some o.env != env then .fail .staleHandle
                  else if o.st == .live then .slot x.index else .fail .revoked
      | none => .fail .staleHandle
    else if ty = 4 then
      match mget s.que.fences x.index with
      | some f => if !owns f.ctx then .fail .staleHandle
                  else if f.st == .destroying then .fail .revoked else .slot x.index
      | none => .fail .staleHandle
    else
      match mget s.que.regions x.index with
      | some r => if owns r.ctx then .slot x.index else .fail .staleHandle
      | none => .fail .staleHandle

/-! ### Buddy blocks (R141) -/

def modEnv (e : Nat) (f : Env → Env) (s : State) : State := { s with env := { s.env with envs := mmod s.env.envs e f } }

/-- Least n with 2^n at least a size. -/
def ceilLog (n : Nat) : Nat := if n ≤ 1 then 0 else Nat.log2 (n - 1) + 1

/-- Cut a free range into blocks aligned to their size, at most 2^36 bytes each. -/
def cutBlocks : Nat → Nat → Nat → List (Nat × Nat)
  | 0, _, _ => []
  | fuel + 1, off, len =>
    if len < 4096 then []
    else
      let align := if off = 0 then 36 else (List.range 37).foldl (fun a i => if off % 2 ^ i = 0 then i else a) 0
      let n := min (min 36 align) (Nat.log2 len)
      (n, off) :: cutBlocks fuel (off + 2 ^ n) (len - 2 ^ n)

/-- Split a block down to a size, the lower half being taken: the offset and the halves left free. -/
def splitDown (n : Nat) : Nat → Nat → Nat → Nat × List (Nat × Nat)
  | 0, _, off => (off, [])
  | fuel + 1, m, off =>
    if m ≤ n then (off, [])
    else
      let (o, l) := splitDown n fuel (m - 1) off
      (o, (m - 1, off + 2 ^ (m - 1)) :: l)

/-- Return a block to the free lists, joining buddies. -/
def joinBlock : Nat → Nat × Nat → List (Nat × Nat) → List (Nat × Nat)
  | 0, b, l => b :: l
  | fuel + 1, (n, off), l =>
    let buddy := if off / 2 ^ n % 2 = 0 then off + 2 ^ n else off - 2 ^ n
    if n < 36 && l.contains (n, buddy) then joinBlock fuel (n + 1, min off buddy) (l.erase (n, buddy)) else (n, off) :: l

/-- Take a block of 2^n bytes of an envelope: a free choice among the smallest blocks that serve it. -/
def takeBlock (e n : Nat) (s : State) : Option Nat × State :=
  match mget s.env.envs e with
  | none => (none, s)
  | some v =>
    let sizes := (v.blocks.map (·.1)).filter (n ≤ ·)
    match sizes with
    | [] => (none, s)
    | z :: r =>
      let m := r.foldl min z
      let (b, s) := choose (v.blocks.filter fun b => b.1 == m) s
      match b with
      | none => (none, s)
      | some b =>
        let (off, rest) := splitDown n 40 m b.2
        (some off, modEnv e (fun v => { v with blocks := v.blocks.erase b ++ rest }) s)

/-! ### Page tables (R150 to R152) -/

/-- Read and write an entry. -/
def pteGet (a : Nat) (s : State) : Nat := ofBytes (cellsGet s.rsvr.mem (homeAddr a s) 8)
def ptePut (a v : Nat) (s : State) : State := memPut a (toBytes 8 v) s

/-- The table below an entry, taken from the page-table object where there is none; none when it has no room. A level-1
pointer to a table of the other kind is reported as it is. -/
def tableUnder (ptObj entry bytes : Nat) (b64 : Bool) (s : State) : Option (Nat × Bool) × State :=
  let e := pteGet entry s
  if e % 4 = 3 then
    let is64 := e / 32 % 2 == 1
    (some (paLocal (e / 2 ^ 12 % 2 ^ 45 * 4096) + (if is64 then e / 2 ^ 60 * 256 else 0), is64), s)
  else match mget s.que.objs ptObj with
  | none => (none, s)
  | some o =>
    let (base, size) := objRange o s
    let at_ := ceilDiv o.ptNext bytes * bytes
    if size < at_ + bytes then (none, s)
    else
      let a := base + at_
      let v := 3 + 32 * b2n b64 + (s.spl.chip * 2 ^ 44 + a) / 4096 * 4096 + (if b64 then a / 256 % 16 * 2 ^ 60 else 0)
      let s := modQue (fun q => { q with objs := mmod q.objs ptObj fun o => { o with ptNext := at_ + bytes } }) s
      (some (a, b64), ptePut entry v s)

/-- Expand a 64 KiB-page table into a 4 KiB-page table when both sizes meet in one 2 MiB region (log 15). -/
def expand64 (ptObj entry t64 : Nat) (s : State) : Option Nat × State :=
  match mget s.que.objs ptObj with
  | none => (none, s)
  | some o =>
    let (base, size) := objRange o s
    let at_ := ceilDiv o.ptNext 4096 * 4096
    if size < at_ + 4096 then (none, s)
    else
      let a := base + at_
      let s := modQue (fun q => { q with objs := mmod q.objs ptObj fun o => { o with ptNext := at_ + 4096 } }) s
      let s := each (List.range 512) (fun i s =>
        let e := pteGet (t64 + 8 * (i / 16)) s
        ptePut (a + 8 * i) (if e % 2 = 1 then e + i % 16 * 4096 else e) s) s
      (some a, ptePut entry (3 + (s.spl.chip * 2 ^ 44 + a) / 4096 * 4096) s)

/-- The address of the leaf entry of a page of 2^log bytes in a context's tables, made where it is missing; with the log
of the leaf that stands there (a 64 KiB page under a 4 KiB-page table is sixteen leaves). -/
def leafAt (ptObj va lg : Nat) (s : State) : Option (Nat × Nat) × State :=
  match mget s.que.objs ptObj with
  | none => (none, s)
  | some o =>
    let root := (objRange o s).1
    match tableUnder ptObj (root + 8 * walkIndex 3 va) 4096 false s with
    | (none, s) => (none, s)
    | (some (t2, _), s) =>
      if lg = 30 then (some (t2 + 8 * walkIndex 2 va, 30), s)
      else match tableUnder ptObj (t2 + 8 * walkIndex 2 va) 4096 false s with
      | (none, s) => (none, s)
      | (some (t1, _), s) =>
        let e1 := t1 + 8 * walkIndex 1 va
        if lg = 21 then (some (e1, 21), s)
        else match tableUnder ptObj e1 (if lg = 16 then 256 else 4096) (lg == 16) s with
        | (none, s) => (none, s)
        | (some (t, true), s) =>
          if lg = 16 then (some (t + 8 * walkIndex 4 va, 16), s)
          else match expand64 ptObj e1 t s with
            | (some t0, s) => (some (t0 + 8 * walkIndex 0 va, 12), s)
            | (none, s) => (none, s)
        | (some (t, false), s) => (some (t + 8 * walkIndex 0 va, 12), s)

/-- log2 of the page a block of 2^n bytes is mapped with. -/
def pageLog (n : Nat) : Nat := if 30 ≤ n then 30 else if 21 ≤ n then 21 else if 16 ≤ n then 16 else 12

/-- Set the leaves of a block in one context: `leaf i` is the entry of its i-th page. -/
def setLeaves (ptObj va n : Nat) (leaf : Nat → Nat) (s : State) : Bool × State :=
  let lg := pageLog n
  (List.range (2 ^ (n - lg))).foldl (fun (a : Bool × State) i =>
    if !a.1 then a
    else match leafAt ptObj (va + i * 2 ^ lg) lg a.2 with
    | (none, s) => (false, s)
    | (some (e, l), s) =>
      (true, each (List.range (2 ^ (lg - l))) (fun j s =>
        let v := leaf i
        ptePut (e + 8 * j) (if v % 2 = 1 then v + j * 2 ^ l else v) s) s)) (true, s)

/-- Virtual address of an object: the chip's share at the block's offset (R141, R145; log 16). -/
def objVa (o : Obj) (s : State) : Nat := s.spl.chip % 2 ^ 13 * 2 ^ 43 + o.off

/-- A leaf entry (Table 7-3). -/
def mkLeaf (chip a rights : Nat) : Nat := 1 + 4 * rights + (chip * 2 ^ 44 + a)

/-- Contexts of an envelope that have a page-table object. -/
def mappedCtxs (e : Nat) (s : State) : List (Nat × Nat) :=
  s.que.ctxs.filterMap fun x => if x.2.env == some e then x.2.ptObj.map fun o => (x.1, o) else none

/-- Map a live object in one context. -/
def mapIn (ptObj : Nat) (o : Obj) (s : State) : Bool × State :=
  setLeaves ptObj (objVa o s) o.log2 (fun i => mkLeaf s.spl.chip ((objRange o s).1 + i * 2 ^ pageLog o.log2) o.rights) s

/-- Write Z leaves (value 64) or clear leaves (0) of an object in every context of its envelope. -/
def unmapAll (o : Obj) (v : Nat) (s : State) : State :=
  each (mappedCtxs o.env s) (fun x s => (setLeaves x.2 (objVa o s) o.log2 (fun _ => v) s).2) s

/-- The allocator's step (R141 to R143): a handle and address, or a failing status; nothing changes on failure. The
movers carry out ZERO before the result is returned (R142). -/
def allocObj (c : Option Nat) (e : Option Nat) (size align flags : Nat) (isPt : Bool) (s : State) :
    (Status × Nat) × State :=
  if size = 0 || align < 12 || 36 < align then ((.invalid, 0), s)
  else if 2 ^ 36 < size then ((.noMemory, 0), s)
  else match e with
  | none => ((.noMemory, 0), s)
  | some ev =>
    if !quotaLeft e 3 s then ((.noSlot, 0), s)
    else match takeSlot 262144 s.que.objSlots with
    | none => ((.noSlot, 0), s)
    | some (i, sl) =>
      let n := max (ceilLog size) align
      match takeBlock ev n s with
      | (none, _) => ((.noMemory, 0), s)
      | (some off, s1) =>
        let o : Obj := { ctx := c, env := ev, off := off, log2 := n, rights := flags / 4 % 8,
                         shared := flags / 2 % 2 == 1, isPt := isPt }
        let s2 := modQue (fun q => { q with objSlots := sl, objs := mset q.objs i o }) s1
        let (ok, s3) := if isPt then (true, s2) else
          (mappedCtxs ev s2).foldl (fun (a : Bool × State) x =>
            if a.1 then mapIn x.2 o a.2 else a) (true, s2)
        if ok then ((.ok, i), s3)
        else ((.noMemory, 0), { s with free := s3.free })

/-- Commands that have been admitted and have not ended (R138). -/
def admitted (s : State) : List Nat := (s.que.cmds.filter fun e => e.2.st != .queued).map (·.1)

/-- An object becomes a zombie (R138): its regions end at the next edge and the revocation becomes active there. -/
def zombify (i : Nat) (s : State) : State :=
  match mget s.que.objs i with
  | none => s
  | some o =>
    if o.st != .live then s
    else
      let s := modQue (fun q => { q with
        objs := mset q.objs i { o with st := .zombie, refs := admitted s }
        regions := mmap (fun _ r => if r.obj == i then { r with ending := true } else r) q.regions }) s
      (filtAdd true (.va (some ((mappedCtxs o.env s).map (·.1))) (objVa o s) (2 ^ o.log2)) false false s).2

/-- The revoking edge of zombies, and ticks of quarantine (R138, Table 6-8): leaves take Z = 1. -/
def objsEdge (s : State) : State :=
  each s.que.objs (fun e s =>
    let o := e.2
    if o.st == .zombie then
      let s := unmapAll o 64 s
      modQue (fun q => { q with objs := mmod q.objs e.1 fun o => { o with st := .quarantine, edges := 0 } }) s
    else if o.st == .quarantine then
      modQue (fun q => { q with objs := mmod q.objs e.1 fun o => { o with edges := o.edges + 1 } }) s
    else s) s

/-- Regions that end do so at the edge: windows and slots return (R190, Table 6-8). -/
def regionsEdge (s : State) : State :=
  each (s.que.regions.filter fun e => e.2.ending) (fun e s =>
    withRetire (fun s => modQue (fun q => { q with
      regions := mdel q.regions e.1, regSlots := freeSlot e.1 (bumpSlot e.1 q.regSlots) }) s) s) s

/-- A quarantined range may still be reached (R138): a command admitted before the effect cycle has not completed, or a
request that a peer or the host has translated is in flight to the range. A request of this chip is translated again
whenever it goes on. -/
def objBusy (o : Obj) (s : State) : Bool :=
  let (a, n) := objRange o s
  (o.refs.any fun c => (mget s.que.cmds c).isSome)
    || s.que.reqs.any fun e => ((paSegs e.2.op).getD []).any fun g => paLocal g.pa < a + n && a < paLocal g.pa + g.len

/-- QUARANTINE_END (R138): no command admitted before the effect cycle remains, no request is in flight to the object,
and two edges have passed; the range returns and the generation increments. -/
def quarantineEnd (i : Nat) (s : State) : State :=
  match mget s.que.objs i with
  | none => s
  | some o =>
    if o.st == .quarantine && 2 ≤ o.edges && !objBusy o s then
      let s := unmapAll o 0 s
      let s := modEnv o.env (fun v => { v with blocks := joinBlock 40 (o.log2, o.off) v.blocks }) s
      withRetire (fun s => modQue (fun q => { q with
        objs := mdel q.objs i, objSlots := freeSlot i (bumpSlot i q.objSlots) }) s) s
    else s

/-! ### Queues -/

/-- Change a queue. -/
def modQueue (i : Nat) (f : Queue → Queue) (s : State) : State := modQue (fun q => { q with queues := mmod q.queues i f }) s

/-- HEAD (R127): the position of the next entry to fetch. An INLINE_WRITE that waits for its extension entries waits at
HEAD (R132). -/
def fetchHead (q : Queue) : Nat := if q.wait ≠ 0 then q.head else (q.head + q.entries.length) % 2 ^ 32

/-- A queue keeps the first n of its fetched entries; fetches of the others that are in flight are void. -/
def keepEntries (n : Nat) (q : Queue) : Queue :=
  { q with entries := q.entries.take n, void := q.void ++ ((q.entries.drop n).filter fun e => !e.here).map (·.num) }

/-- A queue enters ERROR (Table 6-8): nothing more is fetched. Entries fetched before go on, unless the path to them or
the entry at HEAD itself is lost. -/
def queueError (i : Nat) (st : QueueSt) (s : State) : State :=
  match mget s.que.queues i with
  | some q =>
    if q.st == .active || q.st == .stopped then
      let keep := if st == .hostLost || st == .headerPoison then 0 else q.entries.length
      let s := setEvent rQUE_EVENT 1 (modQueue i (fun q => { keepEntries keep q with st := st }) s)
      if q.ctx.isNone then modFunc q.fn (fun f => { f with adminErr := true }) s else s
    else s
  | none => s

/-- The fence that a handle of a fetched command names, where its check admits it (R123). -/
def cmdFence (c : Cmd) (f : W64) (s : State) : Option Nat :=
  match mget s.que.queues c.queue with
  | none => none
  | some q =>
    let env := match q.ctx with
      | some x => ctxEnv x s
      | none => (func q.fn s).env
    match checkHandle f 4 q.fn env s with
    | .slot i => some i
    | .fail _ => none

/-- Put the fences that a command would still have signalled into ERROR (R136, R238, Table 6-11): its SIG_FENCE, and the
fence of a FENCE_SIGNAL whose own signal has neither been applied nor refused. -/
def failSig (cause : Nat) (c : Cmd) (s : State) : State :=
  let err (f : W64) (s : State) : State := match cmdFence c f s with
    | some i => fenceToError i cause s
    | none => s
  let s := if c.hdr.sigFence = 0 || c.signalled then s else err c.hdr.sigFence s
  match c.body with
  | .fenceSignal f _ => if c.st == .releasing then s else err f s
  | _ => s

/-- The write of a command's completion record. -/
def recordOf (id : Nat) : ReqOp → Bool
  | .record c _ _ => c == id
  | _ => false

/-- Abort a fetched command without a record (Table 6-11): its requests and waits end, its tokens get an abort
dispatch, its fences go into ERROR, its reduction ends. -/
def abortCmd (id : Nat) (s : State) : State :=
  match mget s.que.cmds id with
  | none => s
  | some c =>
    let s := each c.tokens (fun t s => match mget s.que.tokens t with
      | some k => cfSend (k.core / 8) 2 (.abort (k.core % 8) t)
          (modQue (fun q => { q with tokens := mset q.tokens t { k with aborted := true, abortTicks := 0 } }) s)
      | none => s) s
    let s := modQue (fun q => { q with
      cmds := mdel q.cmds id
      reqs := q.reqs.filter fun e => e.2.who != .cmd id && !recordOf id e.2.op
      waits := q.waits.filter fun e => e.2.who != .cmd id }) s
    let s := { s with cis := { s.cis with reds := mdel s.cis.reds id } }
    let s := { s with ep := { s.ep with pubs := s.ep.pubs.filter fun p => p.act != .record id && p.act != .signal id } }
    failSig 1 c s

/-- Commands of a queue, oldest first. -/
def cmdsOf (q : Nat) (s : State) : List Nat := (s.que.cmds.filter fun e => e.2.queue == q).map (·.1)

/-- The destruction of a queue takes effect (R137, Table 6-2): its commands are aborted, its generation increments, and its
doorbell index is free (R128). -/
def queueEnds (i : Nat) (s : State) : State :=
  let s := each (cmdsOf i s) abortCmd s
  withRetire (fun s => modQue (fun q => { q with
    queues := mmod q.queues i (fun k => { k with db := 32768, entries := [], void := [] }), queSlots := bumpSlot i q.queSlots
    rung := q.rung.filter (· != i) }) s) s

/-- A queue slot whose destruction has ended returns to its free list. -/
def queueFree (i : Nat) (s : State) : State :=
  modQue (fun q => { q with queues := mdel q.queues i, queSlots := freeSlot i q.queSlots }) s

/-- A queue leaves at once (R137). -/
def dropQueue (i : Nat) (s : State) : State := queueFree i (queueEnds i s)

/-- Data queues of a context. -/
def queuesOf (c : Nat) (s : State) : List Nat := (s.que.queues.filter fun e => e.2.ctx == some c).map (·.1)

/-! ### Contexts -/

/-- Change a context. -/
def modCtx (c : Nat) (f : Ctx → Ctx) (s : State) : State := modQue (fun q => { q with ctxs := mmod q.ctxs c f }) s

/-- Requests of a context leave the block: those of cores end with REVOKED (R66, R230), the others are dropped. -/
def dropReqs (c : Nat) (s : State) : State :=
  let mine := s.que.reqs.filter fun e => e.2.ident.ctx == some c
  each mine (fun e s => match e.2.who with
    | .core .. => endReq e.1 .revoked s
    | .window .. => endReq e.1 .poison s
    | .block => (match e.2.op with
      | .coh .. => endReq e.1 .revoked s
      | .bias .. => endReq e.1 .revoked s
      | _ => modQue (fun q => { q with reqs := mdel q.reqs e.1 }) s)
    | _ => modQue (fun q => { q with reqs := mdel q.reqs e.1 }) s) s

/-- What a context has waiting in port queues is dropped, and of what a lost port has left to replay nothing of it is
sent again (Table 6-11). -/
def dropWaiting (c : Nat) (s : State) : State :=
  { s with ep := { s.ep with
      ports := mmap (fun _ h => { h with uq := h.uq.filter fun e => e.ctx != some c }) s.ep.ports
      parked := s.ep.parked.filter fun e => e.ctx != some c
      replays := s.ep.replays.map fun r => { r with entries := r.entries.filter fun e => e.ctx != some c } } }

/-- The destruction of a context takes effect (R139, Table 6-11 cycle 0): admission stops, the generation increments,
translations go, commands and tokens are aborted. -/
def destroyCtx (c : Nat) (report : Option Nat) (s : State) : State :=
  match mget s.que.ctxs c with
  | none => s
  | some x =>
    if x.st == .destroying then s
    else
      let qs := queuesOf c s
      let n := ((s.que.cmds.filter fun e => qs.contains e.2.queue).length)
      let s := withRetire (fun s => modQue (fun q => { q with ctxSlots := bumpSlot c q.ctxSlots }) s) s
      let s := modCtx c (fun x => { x with st := .destroying, aborted := n, destroyAt := tick s, reportTo := report }) s
      let s := windowOff x.fn c (ctxClear c s)
      let s := dropWaiting c (dropReqs c (each qs queueEnds s))
      modQue (fun q => { q with
        tokens := mmap (fun _ t => if t.ctx == c then { t with aborted := true } else t) q.tokens }) s

/-- Tokens of a context that have not been retired. -/
def tokensOf (c : Nat) (s : State) : List Nat := (s.que.tokens.filter fun e => e.2.ctx == c).map (·.1)

/-- Destroy a fence (R233). -/
def destroyFence (n : Nat) (s : State) : State :=
  let s := modFence n (fun f => { f with st := .destroying, armed := false, mirror := none }) s
  let s := wakeWaits n s
  let s := each (waitsOn n s) (fun e s => endWait e.1 .revoked 0 s) s
  withRetire (fun s => modQue (fun q => { q with
    fences := mdel q.fences n, fenSlots := freeSlot n (bumpSlot n q.fenSlots) }) s) s

/-- The end of a forced abort (R139): objects become zombies, fences, regions and Rill bindings are released, queue
slots and the context return. The counts that CTX_DESTROY reports are returned. -/
def endDestroy (c : Nat) (s : State) : (Nat × Nat × Option Nat) × State :=
  match mget s.que.ctxs c with
  | none => ((0, 0, none), s)
  | some x =>
    let objs := (s.que.objs.filter fun e => e.2.ctx == some c && !e.2.shared && e.2.st == .live).map (·.1)
    let s := each objs zombify s
    let s := each ((s.que.fences.filter fun e => e.2.ctx == c).map (·.1)) destroyFence s
    let s := modQue (fun q => { q with
      regions := mmap (fun _ r => if r.ctx == c then { r with ending := true } else r) q.regions
      rills := mmap (fun _ r => if r.ctx == some c then { r with ctx := none } else r) q.rills }) s
    let s := each (queuesOf c s) queueFree s
    let s := modQue (fun q => { q with ctxs := mdel q.ctxs c, ctxSlots := freeSlot c q.ctxSlots }) s
    ((x.aborted, objs.length, x.reportTo), s)

/-- A context enters HOST_PATH_LOST (R136, R211, R124). -/
def hostLost (c : Nat) (s : State) : State :=
  match mget s.que.ctxs c with
  | none => s
  | some x =>
    if x.st == .destroying || x.st == .hostPathLost then s
    else if slotGen s.que.ctxSlots c = 0xFFFFFFFF then destroyCtx c none s
    else
      let qs := queuesOf c s
      let s := modQue (fun q => { q with ctxSlots := bumpSlot c q.ctxSlots }) s
      let s := modCtx c (fun x => { x with st := .hostPathLost }) s
      let s := windowOff x.fn c (ctxClear c (setEvent rQUE_EVENT 2 s))
      let owed := s.que.cmds.filter fun e => qs.contains e.2.queue
      let s := each owed (fun e s => failSig 2 e.2 s) s
      let s := each (owed.map (·.1)) abortCmd s
      let s := each qs (fun q s => queueError q .hostLost s) s
      let s := dropWaiting c (dropReqs c s)
      { s with ep := { s.ep with ports := mmap (fun _ h => { h with replay := h.replay.filter fun r => r.ctx != some c }) s.ep.ports } }

end Sys2Proof.Machine
end

