-- ==== Sys2Proof/Machine/Commands.lean ====
section
/-! DEFINITION. Chapter 6, commands: arrival, start in ring order (R131), the checks of R12 and R123, work, and
completion (R133, R423). -/
namespace Sys2Proof.Machine

/-- Change a command. -/
def modCmd (id : Nat) (f : Cmd → Cmd) (s : State) : State := modQue (fun q => { q with cmds := mmod q.cmds id f }) s

/-- A command's queue. -/
def cmdQueue (c : Cmd) (s : State) : Option Queue := mget s.que.queues c.queue

/-- Function and context of a command. -/
def cmdFn (c : Cmd) (s : State) : Nat := match cmdQueue c s with
  | some q => q.fn
  | none => 0
def cmdCtx (c : Cmd) (s : State) : Option Nat := (cmdQueue c s).bind (·.ctx)
def cmdEnv (c : Cmd) (s : State) : Option Nat := (cmdCtx c s).bind fun x => ctxEnv x s

/-- Identity of a command's requests (R15). -/
def cmdIdent (c : Cmd) (s : State) : Ident :=
  { ctx := cmdCtx c s, gen := c.ctxGen, cls := c.hdr.cls.val, layer := c.hdr.layer.toNat, oper := c.hdr.oper.toNat
    deadline := c.hdr.deadline.toNat }

/-! ### Completion -/

/-- Bytes of a completion record (Table 6-5). -/
def recordBytes (c : Cmd) (q : Queue) (now : Nat) : List Byte :=
  toBytes 8 (statusCode c.status + 2 ^ 16 * (q.cdone / 2 ^ q.k % 2) + 2 ^ 17 * b2n c.dlMiss
    + 2 ^ 24 * c.hdr.userTag.toNat + 2 ^ 48 * q.db)
  ++ toBytes 8 (c.pos % 2 ^ 32 + 2 ^ 32 * (now % 2 ^ 32)) ++ toBytes 8 c.res0 ++ toBytes 8 c.res1

/-- The command is over: it leaves the table. -/
def dropCmd (id : Nat) (s : State) : State := modQue (fun q => { q with cmds := mdel q.cmds id }) s

/-- Write the completion record (R133) at CDONE; the admin queue's goes untranslated through the primary instance
(R125, R181), a data queue's under its context. The vector fires once the record is visible. -/
def writeRecord (id : Nat) (s : State) : State :=
  match mget s.que.cmds id with
  | none => s
  | some c => match cmdQueue c s with
    | none => dropCmd id s
    | some q =>
      let s := countFn q.fn 0 1 s
      let s := if c.status == .ok then s else countFn q.fn 1 1 s
      let s := trace 2 (cmdIdent c s) (cmdEnv c s) 8 (BitVec.ofNat 64 (statusCode c.status + 2 ^ 16 * (c.res0 % 2 ^ 48))) s
      let s := each (tagsOf (cmdIdent c s) (cmdEnv c s) s) (fun t s => count 10 0 t 1 s) s
      let s := match c.body with
        | .reduce .. => emit (.recordTether c.queue c.pos (tthCode s.time.st) (errBound s)) s
        | _ => s
      let d := recordBytes c q (c.effTick.getD (tick s))
      let a := q.cpl + 32 * (q.cdone % 2 ^ q.k)
      let s := modQueue c.queue (fun q => { q with cdone := (q.cdone + 1) % 2 ^ 32 }) s
      match q.ctx with
      | none =>
        let s := (viaPrimary ⟨2, q.fn, none, .write q.fn none a d, 1, if c.hdr.irq then some (vecKey q.fn q.vector) else none⟩ s).2
        let s := if c.hdr.irq then fire q.fn q.vector s else s
        dropCmd id s
      | some x =>
        newReq { who := .block, fn := q.fn, env := ctxEnv x s, ident := { cmdIdent c s with deadline := 0 }
                 op := .record id a d } (modCmd id (fun c => { c with signalled := true }) s)

/-- Signal SIG_FENCE with the command's end (R423), then write the record. -/
def signalThenRecord (id : Nat) (s : State) : State :=
  match mget s.que.cmds id with
  | none => s
  | some c =>
    if c.hdr.sigFence = 0 || c.signalled then writeRecord id s
    else
      let h := handleOf c.hdr.sigFence
      let sig : Signaller := ⟨s.spl.chip, 0x1FF, 0, c.hdr.scope.val⟩
      let (r, s) := if slotGen s.que.fenSlots h.index = h.gen then fenceSignal h.index c.hdr.sigValue sig (cmdIdent c s) s
        else ((Status.revoked, 0), s)
      let st := if c.status == .ok && r.1 != .ok then (if r.1 == .staleHandle then .revoked else r.1) else c.status
      writeRecord id (modCmd id (fun c => { c with status := st, signalled := true }) s)

/-- Scope at which a command's completion releases: its own, widened by the fence it signals (R229). -/
def endScope (c : Cmd) (s : State) : Nat :=
  if c.hdr.sigFence = 0 then c.hdr.scope.val
  else match mget s.que.fences (handleOf c.hdr.sigFence).index with
  | some f => max c.hdr.scope.val f.scope
  | none => c.hdr.scope.val

/-- A command's work has ended (R229): the release at its scope, then its signal and its record. -/
def endCmd (id : Nat) (st : Status) (r0 r1 : Nat) (s : State) : State :=
  match mget s.que.cmds id with
  | none => s
  | some c =>
    let s := modCmd id (fun c => { c with st := .releasing, status := st, res0 := r0, res1 := r1, tokens := [] }) s
    match cmdCtx c s with
    | some x =>
      if 4 ≤ endScope c s then
        let (need, s) := releaseFlush x s
        if need.isEmpty then signalThenRecord id s else publish need (.record id) s
      else signalThenRecord id s
    | none => signalThenRecord id s

/-- A command refused at admission completes with a status; it signals no fence (R423). -/
def refuseCmd (id : Nat) (st : Status) (s : State) : State :=
  endCmd id st 0 0 (modCmd id (fun c => { c with signalled := true }) s)

/-! ### Checks at admission -/

/-- Admin opcodes. -/
def isAdmin : CmdBody → Bool
  | .ctxCreate .. => true | .ctxDestroy _ => true | .ctxResume _ => true | .ctxReclaim _ => true
  | .queueCreate .. => true | .queueDestroy _ => true | .queueStop _ => true | .queueStart _ => true
  | .fenceCreate .. => true | .fenceDestroy _ => true | .regionRegister .. => true | .regionRevoke _ => true
  | .rillBind .. => true | .rillUnbind _ => true | _ => false

/-- The opcode suits its queue (R126); NOP suits either. -/
def opcodeOk (admin : Bool) : CmdBody → Bool
  | .nop => true
  | .unknown _ => false
  | b => isAdmin b == admin

def isInline : CmdBody → Bool
  | .inlineWrite .. => true | _ => false

/-- Reserved fields of a body (Table 6-4, R303, R316). -/
def bodyRsvd : CmdBody → Bool
  | .convert _ _ _ sf df _ fl _ => sf.toNat / 16 = 0 && df.toNat / 16 = 0 && fl.toNat / 8 = 0
  | .reduce _ _ _ fmt _ _ r _ => r = 0 && fmt.toNat / 16 = 0
  | .alloc _ _ fl => fl.toNat / 32 = 0
  | .ctxCreate p _ _ => p.toNat / 2 ^ 20 = 0
  | .dispatch .. => true
  | _ => true

/-- No format field names code 0xF (R12). -/
def bodyFormat : CmdBody → Bool
  | .convert _ _ _ sf df _ _ _ => sf.toNat % 16 ≠ 15 && df.toNat % 16 ≠ 15
  | .reduce _ _ _ fmt _ _ _ _ => fmt.toNat % 16 ≠ 15
  | _ => true

/-- Table 13-9: the pair of FMT, OP and MODE is allowed. -/
def reduceOk (fmt op mode : Nat) : Bool :=
  op ≤ 2 && mode ≤ 1 && fmt < 14 && (op ≠ 0 || mode = 0 || fmt < 4)

/-- Items of Table 6-12 and the range of their INDEX (R144). -/
def queryOk (item index : Nat) : Bool :=
  if item = 0x10 || item = 0x11 then index < 16
  else if item = 0x12 || item = 0x13 then index < 8
  else if item = 0x20 then 1 ≤ index && index ≤ 5
  else [0x01, 0x02, 0x03, 0x04, 0x21, 0x22, 0x23, 0x24].contains item

/-- The other checks of fields that a command's chapter gives (R12 item 4). -/
def bodyFields (ext : Nat) : CmdBody → Bool
  | .dispatch _ _ n _ _ _ => 1 ≤ n.toNat && n.toNat ≤ 512
  | .copy _ _ l sh dh => l.toNat ≤ 2 ^ 48 && sh.toNat ≤ 3 && dh.toNat ≤ 3
  | .fill _ _ _ h => h.toNat ≤ 3
  | .inlineWrite _ l h _ => 1 ≤ l.toNat && l.toNat ≤ 448 && ext = ceilDiv l.toNat 64 && h.toNat ≤ 3
  | .convert _ _ n sf df r fl _ =>
    let s := (fmtOf (sf.toNat % 16)).getD .cxp
    let d := (fmtOf (df.toNat % 16)).getD .cxp
    let bs := fl.toNat % 2 = 1
    let acc := fl.toNat / 4 % 2 = 1
    r.toNat ≤ 5 && !(bs && !fmtBlock s && !fmtBlock d) && !(bs && n.toNat % 32 ≠ 0) && !(bs && (s == .cxp || d == .cxp))
      && !(s == .cxp && d == .cxp) && !(acc && s != .cxp)
  | .reduce _ _ _ fmt op mode _ plan => reduceOk fmt.toNat op.toNat mode.toNat && plan.toNat % 64 = 0
  | .query it ix => queryOk it.toNat ix.toNat
  | .regionRegister _ off len r =>
    off.toNat ≠ 0 && len.toNat ≠ 0 && off.toNat % 4096 = 0 && len.toNat % 4096 = 0 && r.toNat / 2 % 2 = 1
  | .alloc sz al _ => sz ≠ 0 && 12 ≤ al.toNat && al.toNat ≤ 36
  | .ctxCreate _ _ d => d.toNat ≤ 15
  | .queueCreate _ ring cpl k f _ p =>
    4 ≤ k.toNat && k.toNat ≤ 16 && f.toNat ≤ 6 && p.toNat ≤ 3
      && ring.toNat % (max 4096 (64 * 2 ^ k.toNat)) = 0 && cpl.toNat % 4096 = 0
  | .fenceCreate _ i sc m => sc.toNat ≤ 4 && m.toNat ≤ 1
      && (if m.toNat = 1 then i.toNat / 2 ^ 32 = 0 else i.toNat ≠ 2 ^ 64 - 1)
  | .rillBind sl _ _ => sl.toNat < 1024
  | .rillUnbind sl => sl.toNat < 1024
  | _ => true

/-- An envelope's mask takes a class (R359); a function outside every envelope may use any. -/
def classOk (env : Option Nat) (cls : Nat) (s : State) : Bool :=
  match env.bind fun e => mget s.env.envs e with
  | some v => v.classMask / 2 ^ cls % 2 == 1
  | none => true

/-- The checks of a command's own fields against what the binding tables give its function (R12 item 4): the cores of a
DISPATCH, the default class of a CTX_CREATE, the vector of a QUEUE_CREATE. -/
def bodyBounds (fn : Nat) (env : Option Nat) (s : State) : CmdBody → Bool
  | .dispatch _ _ n first _ _ => match env.bind fun e => mget s.env.envs e with
    | some v => (if first.toNat = 0xFFFF then n.toNat else first.toNat + n.toNat) ≤ v.cores.length
    | none => false
  | .ctxCreate _ _ d => classOk env d.toNat s
  | .queueCreate _ _ _ _ _ v _ => v.toNat < (func fn s).vectors
  | _ => true

/-- Handles that a command names, with their types (R123). -/
def bodyHandles : CmdBody → List (W64 × Nat)
  | .fenceSignal f _ => [(f, 4)]
  | .fenceWait f _ _ => [(f, 4)]
  | .free o => [(o, 3)]
  | .ctxCreate _ r _ => if r = 0 then [] else [(r, 3)]
  | .ctxDestroy c => [(c, 1)]
  | .ctxResume c => [(c, 1)]
  | .queueCreate c _ _ _ _ _ _ => [(c, 1)]
  | .queueDestroy q => [(q, 2)]
  | .queueStop q => [(q, 2)]
  | .queueStart q => [(q, 2)]
  | .fenceCreate c _ _ _ => [(c, 1)]
  | .fenceDestroy f => [(f, 4)]
  | .regionRegister o _ _ _ => [(o, 3)]
  | .regionRevoke r => [(r, 5)]
  | .rillBind _ _ c => [(c, 1)]
  | _ => []

/-- Handles have legal reserved bits (R122 makes a malformed one INVALID at item 2 of R12). -/
def handlesForm (l : List (W64 × Nat)) : Bool := l.all fun h => fld h.1 4 4 = 0 && fld h.1 0 4 ≤ 5

/-- A PT_ROOT that is no longer LIVE is refused by its command, with INVALID (R150). -/
def takesZombie : CmdBody → Bool
  | .ctxCreate .. => true
  | _ => false

/-- The first failing check of the handles of a command, its fence's last. -/
def firstBad (b : CmdBody) (sig : List (W64 × Nat)) (fn : Nat) (env : Option Nat) (s : State) : Option Status :=
  (bodyHandles b ++ sig).foldl (fun a h => a.or (match checkHandle h.1 h.2 fn env s with
    | .slot _ => none
    | .fail st => if takesZombie b && h.2 = 3 && st == .revoked then none else some st)) none

/-- The status of the first check that fails at admission, in the order of R12; none admits the command. -/
def admitCheck (c : Cmd) (s : State) : Option Status :=
  let admin := (cmdCtx c s).isNone
  let fn := cmdFn c s
  let env := if admin then (func fn s).env else cmdEnv c s
  let sig := if c.hdr.sigFence = 0 then [] else [(c.hdr.sigFence, 4)]
  if !opcodeOk admin c.body then some .invalidOp
  else if c.hdr.rsvd ≠ 0 || (c.hdr.ext.val ≠ 0 && !isInline c.body) || !bodyRsvd c.body
      || !handlesForm (bodyHandles c.body ++ sig) then some .invalid
  else if !bodyFormat c.body then some .invalidFormat
  else if 4 < c.hdr.scope.val || !bodyFields c.hdr.ext.val c.body || !bodyBounds fn env s c.body
      || !(admin || classOk env c.hdr.cls.val s) then some .invalid
  else firstBad c.body sig fn env s

/-! ### Work -/

/-- Largest piece of a transfer in bytes (R198). -/
def pieceMax (cls : Nat) (host remote : Bool) (s : State) : Nat :=
  let c := classCredit (if host then 0 else if remote then 4 else 36) cls s * 64
  max 256 (min (if c = 0 then 4096 else c) 65536 / 256 * 256)

/-- Is an address off this chip's device half? -/
def offChip (va : Nat) (s : State) : Bool := !hostHalf va && vaChip va ≠ s.spl.chip

/-- Offsets and lengths of the pieces of a transfer, m bytes each but for the last. -/
def cutAt (m n : Nat) : List (Nat × Nat) :=
  if n ≤ m then [(0, n)] else (List.range (ceilDiv n m)).map fun i => (m * i, min m (n - m * i))

/-- A read or write of one span cut into pieces of at most m bytes (R36, R198); the bits of a last byte go with the last. -/
def opPieces (m : Nat) : ReqOp → List ReqOp
  | .load va n => (cutAt m n).map fun c => .load (va + c.1) c.2
  | .contribute k va n => (cutAt m n).map fun c => .contribute k (va + c.1) c.2
  | .store va d => (cutAt m d.length).map fun c => .store (va + c.1) ((d.drop c.1).take c.2)
  | .storeBits va d b => (cutAt m d.length).map fun c =>
      .storeBits (va + c.1) ((d.drop c.1).take c.2) (if c.1 + c.2 = d.length then b else 0)
  | .result k va d b => (cutAt m d.length).map fun c =>
      .result k (va + c.1) ((d.drop c.1).take c.2) (if c.1 + c.2 = d.length then b else 0)
  | op => [op]

/-- A request of a command; a longer transfer goes in pieces that its class's credit of a tick covers, one after another. -/
def cmdReq (id : Nat) (c : Cmd) (op : ReqOp) (hint : Nat) (s : State) : State :=
  let va := ((readSpans op ++ writeSpans op).headD (0, 0)).1
  let l := opPieces (pieceMax c.hdr.cls.val (hostHalf va) (offChip va s) s) op
  newReq { who := .cmd id, fn := cmdFn c s, env := cmdEnv c s, ident := cmdIdent c s, op := l.headD op, hint := hint,
           dlLeft := c.hdr.deadline.toNat, behind := l.drop 1 } s

/-- The piece of an ALLOC's ZERO that starts so far into the object (R142, R192); none at its end. -/
def zeroPiece (cls i off : Nat) (s : State) : Option ReqOp :=
  match mget s.que.objs i with
  | none => none
  | some o =>
    let (base, len) := objRange o s
    let n := min (pieceMax cls false false s) (len - off)
    if n = 0 then none else some (.zero i (base + off) n (len - off - n))

/-- The piece behind a piece of an ALLOC's ZERO. -/
def zeroNext (cls i pa n left : Nat) (s : State) : Option ReqOp :=
  let k := min (pieceMax cls false false s) left
  if k = 0 then none else some (.zero i (pa + n) k (left - k))

/-- An ALLOC command ends with the object's handle and address (R141). -/
def allocEnd (id i : Nat) (s : State) : State :=
  match mget s.que.objs i with
  | some o => endCmd id .ok (mkHandle 3 i (slotGen s.que.objSlots i)).toNat (objVa o s) s
  | none => endCmd id .revoked 0 0 s

/-- A piece of an ALLOC command's ZERO, or its end where none is left. -/
def allocGo (id i : Nat) (c : Cmd) (piece : Option ReqOp) (s : State) : State :=
  match piece with
  | some op => cmdReq id c op 0 s
  | none => allocEnd id i s

/-- Issue the next piece of a COPY or FILL, or end it (R193, R198); a COPY that has carried poison ends with POISON
(R387). -/
def nextPiece (id : Nat) (s : State) : State :=
  match mget s.que.cmds id with
  | none => s
  | some c =>
    match c.body with
    | .copy src dst len sh dh =>
      let sv := src.toNat % 2 ^ 57
      let dv := dst.toNat % 2 ^ 57
      let n := len.toNat
      if n ≤ c.done then endCmd id (if c.carried then .poison else .ok) c.done 0 s
      else
        let m := pieceMax c.hdr.cls.val (hostHalf sv || hostHalf dv) (offChip sv s || offChip dv s) s
        let down := sv < dv && dv < sv + n
        let k := min m (n - c.done)
        let off := if down then n - c.done - k else c.done
        cmdReq id c (.copy (sv + off) (dv + off) k) (if hostHalf dv then sh.toNat else dh.toNat)
          (modCmd id (fun c => { c with next := k }) s)
    | .fill dst len pat h =>
      let dv := dst.toNat % 2 ^ 57
      let n := len.toNat
      if n ≤ c.done then endCmd id .ok c.done 0 s
      else
        let k := min (pieceMax c.hdr.cls.val (hostHalf dv) (offChip dv s) s) (n - c.done)
        cmdReq id c (.fill (dv + c.done) k pat (c.done % 8)) h.toNat (modCmd id (fun c => { c with next := k }) s)
    | _ => s

/-- CONVERT: elements in groups of 1,024 are read, converted and written (R300 to R314). `next` is the first element of
the group, `done` the running offset of CXP records, `inFlight` the elements of the group, `step` what has been read. -/
def nextGroup (id : Nat) (s : State) : State :=
  match mget s.que.cmds id with
  | none => s
  | some c =>
    match c.body with
    | .convert src _ cnt sf _ _ fl _ =>
      let n := cnt.toNat
      if n ≤ c.next then endCmd id .ok c.next c.res1 s
      else
        let k := min 1024 (n - c.next)
        let sv := src.toNat % 2 ^ 57
        let f := (fmtOf (sf.toNat % 16)).getD .cxp
        let s := modCmd id (fun c => { c with inFlight := k, step := 0 }) s
        if f == .cxp then
          if fl.toNat / 4 % 2 = 1 then cmdReq id c (.load (sv + 64 * c.next) (64 * k)) 0 s
          else cmdReq id c (.load (sv + c.done) 32) 0 s
        else
          cmdReq id c (.load (sv + groupOffset f (fl.toNat % 2 = 1) c.next) (arrayBytes f (fl.toNat % 2 = 1) k)) 0 s
    | _ => s

/-- The values of a group that has been read, and for CXP sources the accumulators. -/
def groupIn (f : Fmt) (bs acc : Bool) (k : Nat) (d : List Byte) : Option (List Val × List (Bool × Acc)) :=
  if f == .cxp then
    if acc then
      let l := (List.range k).map fun i => (false, accOf false (ofBytes ((d.drop (64 * i)).take 40)))
      some ([], l)
    else
      let fmt := (ofBytes ((d.drop 8).take 1)) % 16
      (cxpParse (fmt == 0) k (d.drop 32)).map fun l => ([], l.map fun a => (fmt == 0, a))
  else some ((List.range k).map (groupVal f bs k d), [])

/-- Convert a group that has been read and write it. -/
def convertGroup (id : Nat) (c : Cmd) (d : List Byte) (s : State) : State :=
  match c.body with
  | .convert _ dst _ sf df rd fl key =>
    let f := (fmtOf (sf.toNat % 16)).getD .cxp
    let g := (fmtOf (df.toNat % 16)).getD .cxp
    let bs := fl.toNat % 2 = 1
    let sat := fl.toNat / 2 % 2 = 1
    let dv := dst.toNat % 2 ^ 57
    let k := c.inFlight
    let at_ (a w : Nat) : List Nat := (List.range k).map fun i => laneAt ((cmdCtx c s).getD 4096) (a + i * w / 8) id s
    match groupIn f bs (fl.toNat / 4 % 2 = 1) k d with
    | none => endCmd id .invalid c.next c.res1 s
    | some (vs, as) =>
      if g == .cxp then
        let wide := f == .fp64
        let s := countOperands ((at_ (dv + c.done) 0).map fun l => (l, fmtWidth f)) s
        let rec_ := cxpRecord wide (sf.toNat % 16) (c.next / 1024) (vs.map fun v => accAdd wide v {})
        cmdReq id c (.store (dv + c.done) rec_) 0
          (modCmd id (fun c => { c with step := 9, done := c.done + rec_.length }) s)
      else
        let vals := if f == .cxp then as.map (fun a => accVal a.1 rd.toNat a.2) else vs
        let (out, sats) := groupOut g bs rd.toNat sat key c.next vals
        let lanes := at_ (dv + groupOffset g bs c.next) (fmtWidth g)
        let s := countRounded lanes (countOperands (lanes.map fun l => (l, ceilDiv (8 * d.length) k)) s)
        let s := { s with cis := { s.cis with sat := satAdd 32 s.cis.sat sats } }
        let s := modCmd id (fun c => { c with step := 9, res1 := c.res1 + sats }) s
        let bits := if bs && fmtBlock g then 0 else k * fmtWidth g % 8
        cmdReq id c (.storeBits (dv + groupOffset g bs c.next) out bits) 0 s
  | _ => s

/-- A read or write of a CONVERT has ended. -/
def convertStep (id : Nat) (d : List Byte) (s : State) : State :=
  match mget s.que.cmds id with
  | none => s
  | some c =>
    match c.body with
    | .convert src _ _ sf _ _ fl _ =>
      if c.step = 9 then nextGroup id (modCmd id (fun c => { c with next := c.next + c.inFlight }) s)
      else if sf.toNat % 16 = 14 && fl.toNat / 4 % 2 = 0 && c.step = 0 then
        let bytes := ofBytes ((d.drop 12).take 4)
        let n := ofBytes ((d.drop 9).take 2) % 1024 + 1
        cmdReq id c (.load (src.toNat % 2 ^ 57 + c.done) (max 32 bytes)) 0
          (modCmd id (fun c => { c with step := 1, inFlight := min n c.inFlight
                                        done := c.done + ceilDiv (max 32 bytes) 64 * 64 }) s)
      else convertGroup id c d s
    | _ => s

/-- Local core indexes of a DISPATCH: CORE_FIRST on, or any. -/
def dispatchCores (e : Nat) (n first : Nat) (s : State) : Option (List Nat) × State :=
  match mget s.env.envs e with
  | none => (none, s)
  | some v =>
    if v.cores.length < n then (none, s)
    else if first = 0xFFFF then
      let (i, s) := choose (List.range v.cores.length) s
      (some ((List.range n).map fun j => v.cores.getD ((i.getD 0 + j) % v.cores.length) 0), s)
    else if v.cores.length < first + n then (none, s)
    else (some ((v.cores.drop first).take n), s)

/-- Take a dispatch token (R66). -/
def takeToken (t : Token) (s : State) : Option Nat × State :=
  match takeSlot 65536 s.que.tokSlots with
  | none => (none, s)
  | some (i, k) => (some i, modQue (fun q => { q with tokSlots := k, tokens := mset q.tokens i t }) s)

/-- Start a DISPATCH (R66, R214): one work dispatch with a token to each core. -/
def startDispatch (id : Nat) (c : Cmd) (entry args : W64) (n first : Nat) (items : W32) (arg0 : W64) (s : State) :
    State :=
  match cmdEnv c s, cmdCtx c s with
  | some e, some x =>
    let (cs, s) := dispatchCores e n first s
    match cs with
    | none => endCmd id .invalid 0 0 s
    | some cs =>
      if 65536 < s.que.tokens.length + n then endCmd id .noSlot 0 0 s
      else
        let (toks, s) := (List.range n).foldl (fun (a : List Nat × State) j =>
          let core := cs.getD j 0
          let t : Token := { core := core, cmd := id, ctx := x, ctxGen := c.ctxGen, ident := cmdIdent c s,
                             relaxed := bit entry 63, ix := j }
          match takeToken t a.2 with
          | (some k, s) => (a.1 ++ [k], cfSend (core / 8) 2 (.dispatch (core % 8) k entry args items arg0 j n) s)
          | (none, s) => (a.1, s)) ([], s)
        modCmd id (fun c => { c with tokens := toks, res0 := n }) s
  | _, _ => endCmd id .invalid 0 0 s

/-- Nearest multiple, ties upwards (R404). -/
def coarsen (m : Int) (v : Int) : Int := (2 * v + m) / (2 * m) * m

/-- Bytes of device memory scrubbed so far: those of the envelopes, and of the rest an amount that the spec leaves open, as
firmware scrubs it in the background (R86; log 7). -/
def scrubbedAll (s : State) : Nat :=
  let own := (s.env.envs.map fun e => e.2.scrubbed).foldl (· + ·) 0
  own + Config.choice s.free % (s.rsvr.extent * gib - own + 1)

/-- QUERY items (Table 6-12, R404): RESULT0 and RESULT1, or INVALID. -/
def queryItem (item index fn : Nat) (env : Option Nat) (s : State) : Option (Nat × Nat) :=
  let at_ (t : Nat) : Nat := 2 ^ 32 * (t % 2 ^ 32)
  let now := at_ (tick s)
  let exact (v : Nat) : Option (Nat × Nat) := some (v % 2 ^ 64, now)
  let vf := fn ≠ 0
  let u64 (i : Int) : Nat := (i % (2 ^ 64 : Nat)).toNat
  let sensor (k : Nat) (m : Int) (cur : Int) (stale : Bool) (t : Nat) : Option (Nat × Nat) :=
    if vf then some (u64 (mgetD s.obs.coarseSens (16 * k + index) (coarsen m cur)), at_ s.obs.coarseSensTick + b2n stale + 2)
    else some (u64 cur, at_ t + b2n stale)
  match item with
  | 0x01 => exact s.time.now.toNat
  | 0x02 => exact (tick s)
  | 0x03 => exact (tthStatus s)
  | 0x04 => exact Config.clkCoreKhz
  | 0x10 => if 16 ≤ index then none else
    let x := mgetD s.port.temp index {}
    sensor 0 128 x.value x.stale x.tick
  | 0x11 => if 16 ≤ index then none else sensor 1 128 (s.spl.img.tempLimit.getD index 0) false (tick s)
  | 0x12 => if 8 ≤ index then none else
    let x := mgetD s.port.power index {}
    sensor 2 500 x.value x.stale x.tick
  | 0x13 => if 8 ≤ index then none else sensor 3 500 (s.spl.img.powerLimit.getD index 0) false (tick s)
  | 0x20 => if index = 0 || 5 < index then none else
    let pool := if index = 1 then freeSlots 4096 s.que.ctxSlots else if index = 2 then freeSlots 65536 s.que.queSlots
      else if index = 3 then freeSlots 262144 s.que.objSlots else if index = 4 then freeSlots 16384 s.que.fenSlots
      else freeSlots 65536 s.que.regSlots
    match env, quotaOf env index s with
    | some e, some q => exact (if q = 0 then pool else min pool (q - usedOf e index s))
    | _, _ => exact pool
  | 0x21 => exact (match env with
    | some e => (envRange e s).2
    | none => 0)
  | 0x22 => exact (match env with
    | some e => match mget s.env.envs e with
      | some v => (v.blocks.map fun b => 2 ^ b.1).foldl (· + ·) 0
      | none => 0
    | none => 0)
  | 0x23 => exact (match env with
    | some e => match mget s.env.envs e with
      | some v => v.scrubbed
      | none => 0
    | none => scrubbedAll s)
  | 0x24 => exact (match env with
    | some e => match mget s.env.envs e with
      | some v => v.rill.length
      | none => 0
    | none => 0)
  | _ => none

/-- CTX_CREATE (R150, R424): the context, its page-table object and its mappings. Its translation root takes effect only
where the policy checker accepts it (R19). -/
def ctxCreate (fn pasid : Nat) (root : W64) (def_ : Nat) (s : State) : (Status × Nat) × State :=
  let env := (func fn s).env
  if !quotaLeft env 1 s then ((.noSlot, 0), s)
  else match takeSlot 4096 s.que.ctxSlots with
  | none => ((.noSlot, 0), s)
  | some (i, sl) =>
    let put (pt : Option Nat) (s : State) : (Status × Nat) × State :=
      let s := modQue (fun q => { q with
        ctxSlots := sl, ctxs := mset q.ctxs i { st := .active, fn := fn, env := env, pasid := pasid, ptObj := pt, defCls := def_ } }) s
      match pt, env with
      | some o, some e =>
        let (ok, s') := (s.que.objs.filter fun x => x.2.env == e && x.2.st == .live && !x.2.isPt).foldl
          (fun (a : Bool × State) x => if a.1 then mapIn o x.2 a.2 else a) (true, s)
        if ok then ((.ok, i), s') else ((.noMemory, 0), s)
      | _, _ => ((.ok, i), s)
    let zero (o : Nat) (s : State) : State := match mget s.que.objs o with
      | none => s
      | some x =>
        let (b, n) := objRange x s
        let s := memClear b n s
        modQue (fun q => { q with objs := mset q.objs o { x with isPt := true, ptNext := 128, ctx := some i } }) s
    if root = 0 then
      match env with
      | none => put none s
      | some _ => match allocObj (some i) env 65536 16 0 true s with
        | ((.ok, o), s1) =>
          let (r, s2) := put (some o) (zero o s1)
          if r.1 == .ok then (r, s2) else (r, s)
        | ((st, _), _) => ((st, 0), s)
    else
      let o := (handleOf root).index
      match mget s.que.objs o with
      | none => ((.staleHandle, 0), s)
      | some x =>
        if x.st != .live || x.shared || x.log2 < 16 || x.isPt then ((.invalid, 0), s)
        else if !policyObj fn x s then ((.invalid, 0), policyRefused fn root .invalid s)
        else
          let s1 := (filtAdd true (.va (some ((mappedCtxs x.env s).map (·.1))) (objVa x s) (2 ^ x.log2)) false false s).2
          let s1 := unmapAll x 0 s1
          let (r, s2) := put (some o) (zero o s1)
          if r.1 == .ok then (r, s2) else (r, s)

/-- A context that may take new objects (R422). -/
def ctxOpen (c : Nat) (s : State) : Bool := match mget s.que.ctxs c with
  | some x => x.st == .active || x.st == .faulted
  | none => false

/-- QUEUE_CREATE (R127, R128). -/
def queueCreate (fn c : Nat) (ring cpl : W64) (k fmax vec prio : Nat) (s : State) : (Status × Nat × Nat) × State :=
  let dbs := (s.que.queues.filter fun q => q.2.fn == fn).map (·.2.db)
  if !ctxOpen c s then ((.busy, 0, 0), s)
  else if 64 ≤ (queuesOf c s).length || !quotaLeft (ctxEnv c s) 2 s then ((.noSlot, 0, 0), s)
  else match (List.range 32767).find? (fun i => !dbs.contains (i + 1)), takeSlot 65536 s.que.queSlots with
  | some d, some (i, sl) =>
    let q : Queue := { ctx := some c, fn := fn, ring := ring.toNat % 2 ^ 57, cpl := cpl.toNat % 2 ^ 57, k := k,
                       fetchMax := 2 ^ fmax, vector := vec, prio := prio, db := d + 1 }
    ((.ok, i, d + 1), modQue (fun u => { u with queSlots := sl, queues := mset u.queues i q }) s)
  | _, _ => ((.noSlot, 0, 0), s)

/-- Lowest run of n free aperture windows (R187). -/
def freeWindows (n : Nat) (s : State) : Option Nat :=
  let ends := 0 :: s.que.regions.map fun r => r.2.win + r.2.nwin
  let ok (w : Nat) : Bool := w + n ≤ 65536 && !(s.que.regions.any fun r => r.2.win < w + n && w < r.2.win + r.2.nwin)
  (ends.filter ok).foldl (fun a w => some (match a with
    | some b => min b w
    | none => w)) none

/-- REGION_REGISTER (R187, R188): handle and RESULT1; the policy checker accepts a region of the function's own envelope
(R19). The key is a free value of 20 bits, never 0. -/
def regionRegister (fn : Nat) (o off len : Nat) (s : State) : (Status × Nat × Nat) × State :=
  match mget s.que.objs o with
  | none => ((.staleHandle, 0, 0), s)
  | some x =>
    if 2 ^ x.log2 < off + len || x.isPt then ((.invalid, 0, 0), s)
    else if !policyObj fn x s then
      ((.invalid, 0, 0), policyRefused fn (mkHandle 3 o (slotGen s.que.objSlots o)) .invalid s)
    else match x.ctx with
    | none => ((.invalid, 0, 0), s)
    | some c =>
      if !ctxOpen c s then ((.busy, 0, 0), s)
      else if !quotaLeft (ctxEnv c s) 5 s then ((.noSlot, 0, 0), s)
      else
        let n := ceilDiv len (2 ^ 20)
        match freeWindows n s, takeSlot 65536 s.que.regSlots with
        | some w, some (i, sl) =>
          let key := Config.choice s.free % (2 ^ 20 - 1) + 1
          let r : Region := { ctx := c, obj := o, off := off, len := len, key := key, win := w, nwin := n }
          let s := { s with free := s.free + 1 }
          ((.ok, i, w * 2 ^ 20 + 2 ^ 36 * key), modQue (fun q => { q with regSlots := sl, regions := mset q.regions i r }) s)
        | _, _ => ((.noSlot, 0, 0), s)

/-- The effect cycle of an admin command (R126): status, RESULT0 and RESULT1. A CTX_DESTROY that is accepted reports at
its end. -/
def adminEffect (id fn : Nat) (b : CmdBody) (s : State) : Option (Status × Nat × Nat) × State :=
  let ix (h : W64) : Nat := (handleOf h).index
  match b with
  | .nop => (some (.ok, 0, 0), s)
  | .ctxCreate p root d =>
    let ((st, i), s) := ctxCreate fn p.toNat root d.toNat s
    (some (st, if st == .ok then (mkHandle 1 i (slotGen s.que.ctxSlots i)).toNat else 0, 0), s)
  | .ctxDestroy c => match mget s.que.ctxs (ix c) with
    | some x => if x.st == .destroying then (some (.busy, 0, 0), s) else (none, destroyCtx (ix c) (some id) s)
    | none => (some (.staleHandle, 0, 0), s)
  | .ctxResume c => match mget s.que.ctxs (ix c) with
    | some x =>
      if x.st == .faulted && !(s.weir.fatal) then (some (.ok, 0, 0), modCtx (ix c) (fun x => { x with st := .active }) s)
      else (some (.busy, 0, 0), s)
    | none => (some (.staleHandle, 0, 0), s)
  | .ctxReclaim i =>
    let c := i.toNat
    match mget s.que.ctxs c with
    | some x =>
      if x.fn = fn && x.st == .hostPathLost then
        let s := ctxClear c (modCtx c (fun x => { x with st := .active }) s)
        (some (.ok, (mkHandle 1 c (slotGen s.que.ctxSlots c)).toNat, 0), s)
      else (some (.busy, 0, 0), s)
    | none => (some (.busy, 0, 0), s)
  | .queueCreate c ring cpl k f v p =>
    let ((st, i, d), s) := queueCreate fn (ix c) ring cpl k.toNat f.toNat v.toNat p.toNat s
    (some (st, if st == .ok then (mkHandle 2 i (slotGen s.que.queSlots i)).toNat else 0, d), s)
  | .queueDestroy q => (some (.ok, 0, 0), dropQueue (ix q) s)
  | .queueStop q => match mget s.que.queues (ix q) with
    | some v => if v.st == .active then (some (.ok, fetchHead v, 0), modQueue (ix q) (fun q => { q with st := .stopped }) s)
                else (some (.busy, 0, 0), s)
    | none => (some (.staleHandle, 0, 0), s)
  | .queueStart q => match mget s.que.queues (ix q) with
    | some v => if v.st == .stopped then
        (some (.ok, 0, 0), modQue (fun u => { u with rung := if u.rung.contains (ix q) then u.rung else u.rung ++ [ix q] })
          (modQueue (ix q) (fun q => { q with st := .active }) s))
      else (some (.busy, 0, 0), s)
    | none => (some (.staleHandle, 0, 0), s)
  | .fenceCreate c i sc m =>
    if !ctxOpen (ix c) s then (some (.busy, 0, 0), s)
    else if !quotaLeft (ctxEnv (ix c) s) 4 s then (some (.noSlot, 0, 0), s)
    else match takeSlot 16384 s.que.fenSlots with
    | none => (some (.noSlot, 0, 0), s)
    | some (n, sl) =>
      let f : Fence := { value := i, compat := m.toNat == 1, scope := sc.toNat, ctx := ix c }
      (some (.ok, (mkHandle 4 n (slotGen s.que.fenSlots n)).toNat, 0),
        modQue (fun q => { q with fenSlots := sl, fences := mset q.fences n f }) s)
  | .fenceDestroy f => (some (.ok, 0, 0), destroyFence (ix f) s)
  | .regionRegister o off len _ =>
    let ((st, i, r1), s) := regionRegister fn (ix o) off.toNat len.toNat s
    (some (st, if st == .ok then (mkHandle 5 i (slotGen s.que.regSlots i)).toNat else 0, r1), s)
  | .regionRevoke r =>
    (some (.ok, 0, 0), modQue (fun q => { q with regions := mmod q.regions (ix r) fun v => { v with ending := true } }) s)
  | .rillBind sl core c =>
    match (func fn s).env.bind fun e => mget s.env.envs e with
    | none => (some (.invalid, 0, 0), s)
    | some v =>
      if !v.rill.contains sl.toNat || v.cores.length ≤ core.toNat then (some (.invalid, 0, 0), s)
      else if !ctxOpen (ix c) s then (some (.busy, 0, 0), s)
      else (some (.ok, 0, 0), modQue (fun q => { q with
        rills := mupd q.rills sl.toNat {} fun r => { r with ctx := some (ix c), core := core.toNat } }) s)
  | .rillUnbind sl =>
    let mine := match (func fn s).env.bind fun e => mget s.env.envs e with
      | some v => v.rill.contains sl.toNat
      | none => false
    if mine then (some (.ok, 0, 0), modQue (fun q => { q with
      rills := mmod q.rills sl.toNat fun r => { r with ctx := none } }) s)
    else (some (.invalid, 0, 0), s)
  | _ => (some (.invalidOp, 0, 0), s)

/-- Start an admitted command's work. -/
def startBody (id : Nat) (c : Cmd) (s : State) : State :=
  let fn := cmdFn c s
  let env := cmdEnv c s
  match c.body with
  | .nop => endCmd id .ok 0 0 s
  | .dispatch en ar n first items a0 => startDispatch id c en ar n.toNat first.toNat items a0 s
  | .copy .. => nextPiece id s
  | .fill .. => nextPiece id s
  | .inlineWrite dst len h d => cmdReq id c (.store (dst.toNat % 2 ^ 57) (d.take len.toNat)) h.toNat s
  | .convert .. => nextGroup id s
  | .reduce _ _ _ _ _ _ _ plan =>
    cmdReq id c (.load (plan.toNat % 2 ^ 57) 64) 0 (modCmd id (fun c => { c with step := 1 }) s)
  | .fenceSignal f _ =>
    let sc := match mget s.que.fences (handleOf f).index with
      | some x => max c.hdr.scope.val x.scope
      | none => c.hdr.scope.val
    match cmdCtx c s with
    | some x =>
      let (need, s) := if 4 ≤ sc then releaseFlush x s else ([], s)
      publish need (.signal id) s
    | none => s
  | .fenceWait f t lim =>
    fenceWait { fence := (handleOf f).index, target := t, who := .cmd id, scope := c.hdr.scope.val, ctx := cmdCtx c s,
                ident := cmdIdent c s, env := env,
                core := 0x1FF, engine := 0, left := if lim = 0 then none else some lim.toNat, registered := true } s
  | .alloc sz al fl =>
    match cmdCtx c s with
    | none => endCmd id .noMemory 0 0 s
    | some x =>
      let ((st, i), s) := allocObj (some x) env sz.toNat al.toNat fl.toNat false s
      if st != .ok then endCmd id st 0 0 s
      else allocGo id i c (if fl.toNat % 2 = 1 then zeroPiece c.hdr.cls.val i 0 s else none) s
  | .free h =>
    match mget s.que.objs (handleOf h).index with
    | some o => if o.isPt then endCmd id .invalid 0 0 s else endCmd id .ok 0 0 (zombify (handleOf h).index s)
    | none => endCmd id .staleHandle 0 0 s
  | .query it ix => match queryItem it.toNat ix.toNat fn env s with
    | some (a, b) => endCmd id .ok a b s
    | none => endCmd id .invalid 0 0 s
  | .unknown _ => endCmd id .invalidOp 0 0 s
  | b =>
    let (r, s) := adminEffect id fn b s
    match r with
    | some (st, a, b) => endCmd id st a b s
    | none => s

/-- Start a command: poison in its body, the checks of admission, then its work. The deadline count begins (R37). -/
def startCmd (id : Nat) (s : State) : State :=
  match mget s.que.cmds id with
  | none => s
  | some c =>
    let s := modCmd id (fun c => { c with st := .running, dlLeft := c.hdr.deadline.toNat }) s
    let s := trace 1 (cmdIdent c s) (cmdEnv c s) 8 (BitVec.ofNat 64 (c.pos % 2 ^ 32 + 2 ^ 32 * c.hdr.userTag.toNat)) s
    if c.hdr.poisonBody || c.hdr.poisonSig then
      let s := if c.hdr.poisonSig || (cmdFence c c.hdr.sigFence s).isNone then modCmd id (fun c => { c with signalled := true }) s else s
      endCmd id .poison 0 0 s
    else match admitCheck c s with
    | some st => refuseCmd id st s
    | none => startBody id { c with st := .running, dlLeft := c.hdr.deadline.toNat } s

/-- Commands of a queue may start: the context is ACTIVE and its envelope is not pausing (Table 6-7, R373); at level 4
nothing starts, and while the chip is held by a sluice stop nothing does (R395). -/
def queueRuns (q : Queue) (s : State) : Bool :=
  !s.weir.fatal && !frozen s
  && (match q.ctx with
    | none => true
    | some c => match mget s.que.ctxs c with
      | some x => x.st == .active && (match x.env with
        | some e => match mget s.env.envs e with
          | some v => v.st == .ready
          | none => false
        | none => true)
      | none => false)

/-- May a command start with these earlier commands of its queue unfinished (R131)? -/
def startable (admin : Bool) (c : Cmd) (before : List Cmd) : Bool :=
  (before.isEmpty || !(admin || c.hdr.serial || (match c.body with
    | .free _ => true
    | _ => false)))
  && !(before.any fun b => match b.body with
    | .fenceWait .. => b.st != .releasing
    | _ => false)

/-- Start every command of a queue that may start, in ring order. -/
def advance (qi : Nat) : Nat → State → State
  | 0, s => s
  | n + 1, s =>
    match mget s.que.queues qi with
    | none => s
    | some q =>
      if !queueRuns q s then s
      else
        let cs := s.que.cmds.filter fun e => e.2.queue == qi
        match cs.find? fun e => e.2.st == .queued with
        | none => s
        | some e =>
          let before := (cs.filter fun x => x.1 < e.1).map (·.2)
          if startable q.ctx.isNone e.2 before then advance qi n (startCmd e.1 s) else s

/-- Start what may start in every queue. -/
def advanceAll (s : State) : State := each (mkeys s.que.queues) (fun q s => advance q 64 s) s

end Sys2Proof.Machine
end

