-- ==== Sys2Proof/Machine/Fabric.lean ====
section
/-! DEFINITION. The end-to-end layer of the fabric (R343 to R349): paths, sequences, acknowledgement, the retransmit
buffer, sessions' messages, and what a link's stop does to paths. -/
namespace Sys2Proof.Machine

/-- What the fabric keeps for a peer. -/
def fpeer (c : Nat) (s : State) : FabPeer := mgetD s.fab.peers c {}

def modFpeer (c : Nat) (f : FabPeer → FabPeer) (s : State) : State :=
  modFab (fun b => { b with peers := mupd b.peers c {} f }) s

/-- Change a peer table entry that exists. -/
def modPeer (c : Nat) (f : Peer → Peer) (s : State) : State := modSpl (fun p => { p with peers := mmod p.peers c f }) s

/-- State of a peer (Table 4-9). -/
def peerSt (c : Nat) (s : State) : PeerSt := (mgetD s.spl.peers c {}).st

/-- Does a packet await a response? -/
def pktAsks : Pkt → Bool
  | .read .. => true | .atomic .. => true | .fenceOp .. => true | .write .. => true | _ => false

/-- The path of R346: entry (SRC + DST) mod n of the links that are up and in the peer's LINK_MASK. -/
def pathFor (c : Nat) (s : State) : Option Nat :=
  let l := (linksUp s).filter fun k => (mgetD s.spl.peers c {}).linkMask / 2 ^ k % 2 == 1
  l[(s.spl.chip + c) % l.length]?

/-- Bytes unacknowledged to a peer, and to all peers. -/
def unackedBytes (p : FabPeer) : Nat := (p.unacked.map (·.bytes)).foldl (· + ·) 0
def allUnacked (s : State) : Nat := (s.fab.peers.map fun e => unackedBytes e.2).foldl (· + ·) 0

/-- The envelope of this chip that a fabric tag names. -/
def envOfTag (tag : Nat) (s : State) : Option Nat := (s.env.envs.find? fun e => e.2.tag == tag).map (·.1)

/-- Send a numbered packet on the path of its peer. -/
def pktSend (c l : Nat) (x : PktOut) (s : State) : State :=
  let p := fpeer c s
  let vc := pktVc x.body
  let n := mgetD p.tx vc 0
  let k := mgetD p.ctr l 0
  let q : Packet := ⟨c, vc, n, k, tick s % 128, p.kepoch, x⟩
  let s := modFpeer c (fun p => { p with
    tx := mset p.tx vc ((n + 1) % 2 ^ 20)
    ctr := mset p.ctr l (k + 1)
    wait := if p.unacked.isEmpty then 0 else p.wait
    unacked := p.unacked ++ [⟨q, 32 + pktBytes x.body, l⟩]
    asked := if pktAsks x.body then p.asked ++ [(vc, n, x.body)] else p.asked }) s
  let s := match envOfTag x.tag s with
    | some e => countFn ((mget s.env.envs e).map (·.vf) |>.getD 0) 6 (pktBytes x.body) s
    | none => s
  flSend l vc (pktSlots x.body) (.packet q) s

/-- May a packet go now: the path stands, nothing waits ahead, and both limits of the retransmit buffer hold it
(R348, R349)? -/
def pktRoom (c : Nat) (x : PktOut) (s : State) : Bool :=
  let p := fpeer c s
  let n := 32 + pktBytes x.body
  p.path.isSome && p.moveTo.isNone && !fabQuiet s && unackedBytes p + n ≤ 524288 && allUnacked s + n ≤ 16777216

/-- Send what waits for a peer. -/
def fabPump (c : Nat) : Nat → State → State
  | 0, s => s
  | k + 1, s =>
    match (fpeer c s).waiting, (fpeer c s).path with
    | x :: r, some l =>
      if pktRoom c x s then fabPump c k (pktSend c l x (modFpeer c (fun p => { p with waiting := r }) s)) else s
    | _, _ => s

/-- A request to a peer that cannot be reached ends (R350): fence operations with FENCE_ERROR, others with FAULT, cause
PEER_UNREACHABLE. -/
def pktFail (b : Pkt) (s : State) : State :=
  let fail (i : Nat) (s : State) : State :=
    let va := match mget s.que.reqs i with
      | some r => ((phaseSpans r).1.headD (0, 0)).1
      | none => 0
    failReq i .fault 9 va s
  match b with
  | .write i _ _ => fail i s
  | .read i _ _ _ => fail i s
  | .atomic i _ _ => fail i s
  | .fenceOp i _ _ _ _ _ _ _ => modQue (fun q => { q with fenceEnds := q.fenceEnds ++ [(.vc0 i, .fenceError, 0)] }) s
  | _ => s

/-- Hand a packet to the end-to-end layer. -/
def fabSend (c : Nat) (x : PktOut) (s : State) : State :=
  if peerSt c s != .active then pktFail x.body s
  else fabPump c 1 (modFpeer c (fun p => { p with waiting := p.waiting ++ [x] }) s)

/-- Send the packets that requests have left in the outbox. -/
def fabOut : Nat → State → State
  | 0, s => s
  | n + 1, s =>
    match s.fab.outbox with
    | [] => s
    | e :: r => fabOut n (fabSend e.1 e.2 (modFab (fun b => { b with outbox := r }) s))

/-- Send an unacknowledged packet again on a link: with its ESEQ and the tick of its first sending, under the keys of the
epoch in use and the link's next counter (R343, R348). -/
def resendOne (c l : Nat) (e : Sent) (s : State) : State :=
  let p := fpeer c s
  let n := mgetD p.ctr l 0
  let q := { e.pkt with ctr := n, kepoch := p.kepoch }
  let s := modFpeer c (fun p => { p with
    ctr := mset p.ctr l (n + 1), unacked := p.unacked.map fun x => if x == e then { e with pkt := q } else x }) s
  flFirst l q.vc (pktSlots q.p.body) (.packet q) (count 6 3 l 1 (modFab (fun b => { b with resent := satAdd 32 b.resent 1 }) s))

/-- Send a peer's unacknowledged packets again on a link, in ESEQ order (R348, R349). -/
def resendAll (c l : Nat) (s : State) : State :=
  let s := modFpeer c (fun p => { p with unacked := p.unacked.map (fun e => { e with link := l }), wait := 0 }) s
  if fabQuiet s then s else each (fpeer c s).unacked (resendOne c l) s

/-- A SESSION message to a peer on its path, or on the first link of its mask before it has one. -/
def sessSend (c : Nat) (m : FlMsg) (slots : Nat) (s : State) : State :=
  match (fpeer c s).path.or (pathFor c s) with
  | some l => if fabQuiet s then s else flSend l 1 slots m s
  | none => s

/-- A new path takes effect: what is unacknowledged goes out again, then what waited (R349). -/
def takePath (c l : Nat) (s : State) : State :=
  let s := traceRec ⟨s.time.now, 0, 0, 0xF, 0, 0xFFF, 0xFF, 384 + l, BitVec.ofNat 64 (c + 2 ^ 16 * l)⟩ s
  let s := resendAll c l (modFpeer c (fun p => { p with path := some l, moveTo := none }) s)
  fabPump c 4096 s

/-- A link has stopped carrying packets (R349): every path on it is computed anew, at once. -/
def pathsOff (l : Nat) (s : State) : State :=
  let on := (s.fab.peers.filter fun e => e.2.path == some l).map (·.1)
  let s := each on (fun c s => match pathFor c s with
    | some k => takePath c k s
    | none => modFpeer c (fun p => { p with path := none, moveTo := none }) s) s
  whenS (!on.isEmpty) (setEvent rFLK_EVENT 3) s

/-- A link has come up, or a peer's LINK_MASK has changed: a path that R346 places elsewhere moves once everything sent on
the old one is acknowledged, and at once where the peer has left the plane of the old one (R349). -/
def pathsOn (s : State) : State :=
  each (s.fab.peers.map (·.1)) (fun c s =>
    if peerSt c s != .active then s
    else match (fpeer c s).path, pathFor c s with
    | none, some k => takePath c k s
    | some l, some k =>
      if k = l then modFpeer c (fun p => { p with moveTo := none }) s
      else if flUp l s && (mgetD s.spl.peers c {}).linkMask / 2 ^ l % 2 == 1 then
        modFpeer c (fun p => { p with moveTo := some k }) s
      else takePath c k s
    | _, none => modFpeer c (fun p => { p with path := none, moveTo := none }) s) s

/-- A link starts steps 2 to 4 of bring-up again (R333): it is counted, its replay buffer is discarded and its paths
move. The in-service test of a link is one such pass (Table 16-7, log 142). -/
def flAgain (l : Nat) (s : State) : State :=
  let s := setEvent rFLK_EVENT 0 (modLink l (fun k => { k with retrains := satAdd 16 k.retrains 1 }) s)
  pathsOff l (flTrain l .retraining s)

/-- A link retrains (R333), which its source reports to the Weir (Table 16-2); one retrain more than the limit within
1,000,000 ticks takes it out of service (R334). -/
def flRetrain (l : Nat) (s : State) : State :=
  if !flUp l s then s
  else
    let recent := ((flink l s).retrainAt.filter fun t => tick s < t + 1000000) ++ [tick s]
    let s := modLink l (fun k => { k with retrainAt := recent }) s
    if regFld rFLK_CTRL 28 4 s < recent.length then
      pathsOff l (flOut l (setEvent rFLK_EVENT 0 (modLink l (fun k => { k with retrains := satAdd 16 k.retrains 1 }) s)))
    else flAgain l (raise (384 + l) .linkEvent none none 0 s)

/-- EACK to a peer (R348): the highest contiguous ESEQ of each channel, on the link of the newest packet delivered. -/
def fabAck (c : Nat) (s : State) : State :=
  if peerSt c s != .active || fabQuiet s then s
  else
  let p := fpeer c s
  let hi (n : Nat) : Nat := (n + 2 ^ 20 - 1) % 2 ^ 20
  let next := mgetD p.rx 3 0
  let a3 := match p.pend with
    | [] => hi next
    | e :: r => hi (r.foldl (fun a b => if (next + 2 ^ 20 - a) % 2 ^ 20 < (next + 2 ^ 20 - b) % 2 ^ 20 then b else a) e)
  let l := if flUp p.lastLink s then some p.lastLink else p.path
  match l with
  | some l =>
    let n := mgetD p.ctr l 0
    flSend l 1 1 (.eack c (hi (mgetD p.rx 1 0)) (hi (mgetD p.rx 2 0)) a3 n p.kepoch)
      (modFpeer c (fun p => { p with ctr := mset p.ctr l (n + 1) }) s)
  | none => s

/-- A VC3 packet has been taken at its home (R348). -/
def fabTaken (c eseq : Nat) (s : State) : State :=
  fabAck c (modFpeer c (fun p => { p with pend := p.pend.erase eseq }) s)

/-- Start a handshake with a peer (R342, R345). -/
def startSession (c : Nat) (s : State) : State :=
  sessSend c (.session c 1) 4 (modFpeer c (fun p => { p with sess := .initSent, retryIn := none }) s)

/-- Fabric keys of a tag are held: a removal zeroises an envelope's at E + 2 (Table 15-10, R372). -/
def keysLive (tag : Nat) (s : State) : Bool :=
  match (envOfTag tag s).bind fun e => mget s.env.envs e with
  | some v => !(v.st == .removing && 2 ≤ v.removeTicks)
  | none => false

/-- Keys of a key epoch are held (R345): of the epoch in use; of both once DONE has passed, until 2 ticks after KEPOCH
has flipped. -/
def epochHeld (e : Bool) (p : FabPeer) : Bool := e == p.kepoch || p.flip || 0 < p.oldTicks

/-- A packet's session stands, and its epoch and its tag name live keys (R343, R344). -/
def fabLive (h : PktHdr) (s : State) : Bool :=
  peerSt h.src.val s == .active && epochHeld h.kepoch (fpeer h.src.val s) && (h.tag.toNat == 0xFFF || keysLive h.tag.toNat s)

/-- A packet fails authentication (R344): counted, and after 64 in a row from one peer on one link under live keys a new
handshake. -/
def fabAuthFail (h : PktHdr) (s : State) : State :=
  let c := h.src.val
  let s := setEvent rFLK_EVENT 5 (modFab (fun b => { b with authFail := satAdd 32 b.authFail 1 }) s)
  let s := match envOfTag h.tag.toNat s with
    | some e => modEnv e (fun v => { v with refused := v.refused + 1 }) s
    | none => s
  let n := mgetD (fpeer c s).fails h.link.val 0 + 1
  if !fabLive h s then s
  else if n < 64 then modFpeer c (fun p => { p with fails := mset p.fails h.link.val n }) s
  else startSession c (raise 417 .advisory none none c (modFpeer c (fun p => { p with fails := mset p.fails h.link.val 0 }) s))

/-- A packet is authentic: a session with its peer stands, its tag names live keys, and its GCM check holds (R343,
R344). -/
def fabAuthentic (h : PktHdr) (s : State) : Bool :=
  h.authOk && fabLive h s

/-- The packet counter of a received packet (R343): the least value above the last one accepted whose low 16 bits are
CTR_LO. -/
def hdrCtr (h : PktHdr) (p : FabPeer) : Nat :=
  let least := match mget p.rctr (2 * h.link.val + b2n h.kepoch) with
    | some c => c + 1
    | none => 0
  least + (h.ctrLo.toNat + 2 ^ 16 - least % 2 ^ 16) % 2 ^ 16

/-- An authentic packet ends a run of failures and moves its counter on (R343, R344). -/
def fabHeard (h : PktHdr) (p : FabPeer) : FabPeer :=
  { p with fails := mset p.fails h.link.val 0, rctr := mset p.rctr (2 * h.link.val + b2n h.kepoch) (hdrCtr h p) }

/-- An authentic packet that is the next of its channel arrives: its credits go back, its number is passed, its peer is no
longer silent (R93), and its bytes are counted for the envelope's function (R338, R347). -/
def fabArrive (vc slots : Nat) (slow : Bool) (h : PktHdr) (s : State) : State :=
  let c := h.src.val
  let n := mgetD (fpeer c s).rx vc 0
  let s := modFpeer c (fun p => { fabHeard h p with
    rx := mset p.rx vc ((n + 1) % 2 ^ 20), lastLink := h.link.val
    pend := if slow then p.pend ++ [n] else p.pend })
    (modPeer c (fun p => { p with silent := 0 }) (flReturn h.link.val vc slots s))
  match envOfTag h.tag.toNat s with
  | some e => countFn ((mget s.env.envs e).map (·.vf) |>.getD 0) 7 (64 * slots) s
  | none => s

/-- A packet of a sequence arrives (R347): the next one is delivered and acknowledged; one behind is acknowledged again;
one ahead is discarded. `slow` packets are acknowledged once taken at their home. -/
def fabAccept (vc slots : Nat) (slow : Bool) (h : PktHdr) (take : State → State) (s : State) : State :=
  let c := h.src.val
  if !flUp h.link.val s then s
  else if !fabAuthentic h s then fabAuthFail h (flReturn h.link.val vc slots s)
  else
    let n := mgetD (fpeer c s).rx vc 0
    if h.eseq.toNat = n then
      let s := take (fabArrive vc slots slow h s)
      if slow then s else fabAck c s
    else
      let s := modFpeer c (fabHeard h) (flReturn h.link.val vc slots s)
      if (n + 2 ^ 20 - h.eseq.toNat) % 2 ^ 20 < 2 ^ 19 then fabAck c (modFpeer c (fun p => { p with lastLink := h.link.val }) s)
      else s

end Sys2Proof.Machine
end

