-- ==== Sys2Proof/Machine/Reduce.lean ====
section
/-! DEFINITION. Chapter 13, reductions: plans (R315, R316), chunks and their slots (R317, R318), partial records (R312,
R319 to R321), core contributions (R322) and results (R323). -/
namespace Sys2Proof.Machine

def modCis (f : CisState → CisState) (s : State) : State := { s with cis := f s.cis }

/-- Change a reduction, and a chunk of it. -/
def modRed (id : Nat) (f : Reduction → Reduction) (s : State) : State := modCis (fun c => { c with reds := mmod c.reds id f }) s
def modChunk (id k : Nat) (f : Chunk → Chunk) (s : State) : State :=
  modRed id (fun r => { r with chunks := mupd r.chunks k {} f }) s

/-- The plan in 64 bytes and its child list (Table 13-8). -/
def planOf (d kids : List Byte) : Plan :=
  let u (o n : Nat) : Nat := ofBytes ((d.drop o).take n)
  { id := u 0 4, parent := u 4 2, outFmt := u 7 1, firstSlot := u 8 8, stride := u 0x10 2, perSlot := u 0x12 2
    leaf := u 0x14 2, leaves := u 0x16 2, round := u 0x18 1, all := u 0x19 1 % 2 == 1, sat := u 0x19 1 / 2 % 2 == 1
    loc := u 0x1A 2, lateTicks := u 0x1C 4, srKey := BitVec.ofNat 64 (u 0x20 8)
    children := (List.range (u 6 1)).map fun i => ofBytes ((kids.drop (2 * i)).take 2)
    rsvdZero := u 0x28 24 == 0 && u 0x19 1 / 4 == 0 }

/-- NCHILD of a plan's 64 bytes. -/
def planKids (d : List Byte) : Nat := ofBytes ((d.drop 6).take 1)

/-- A chip is in an envelope's peer map and ACTIVE (R316). -/
def peerOk (env chip : Nat) (s : State) : Bool :=
  peerSt chip s == .active && (match mget s.env.envs env with
    | some v => (mget v.peers chip).isSome
    | none => false)

/-- The output format of a plan; none where the field names no element format. -/
def outFmtOf (p : Plan) (fmt : Nat) : Option Fmt :=
  match fmtOf (if p.outFmt = 0xFF then fmt else p.outFmt) with
  | some .cxp => none
  | f => f

/-- The checks of R316 and of the plan's ranges (R12): the failing status, if any. -/
def planCheck (p : Plan) (fmt op : Nat) (ordered : Bool) (env : Nat) (s : State) : Option Status :=
  if !p.rsvdZero then some .invalid
  else if p.outFmt = 15 then some .invalidFormat
  else if (outFmtOf p fmt).isNone || p.leaves ≤ p.leaf || 8192 < p.leaves || 5 < p.round
      || 32 < p.children.length || p.stride = 0 || 1024 < p.stride || p.perSlot = 0 || 1024 < p.perSlot
      || 1000000 < p.lateTicks || (ordered && op = 0 && (p.round = 5 || p.loc ≠ 0)) then some .invalid
  else if (p.parent ≠ 0xFFFF && !peerOk env p.parent s) || p.children.any (fun c => !peerOk env c s) then some .invalid
  else if s.cis.reds.any (fun e => !e.2.isOver && e.2.plan.id == p.id && e.2.env == env) then some .invalid
  else none

/-! ### Chunks -/

/-- The values of a chunk as accumulators start. -/
def freshChunk (r : Reduction) (k : Nat) : Chunk :=
  { started := true, counts := if r.plan.loc = 0 then [] else List.replicate (chunkElems r k) 0
    accs := if redExact r then List.replicate (chunkElems r k) {} else [] }

/-- Add elements (by value) to a chunk from an index on. -/
def addValues (r : Reduction) (first : Nat) (raw : List Nat) (c : Chunk) : Chunk :=
  let f := redFmt r
  if redExact r then
    { c with accs := c.accs.mapIdx fun i a =>
        if first ≤ i && i < first + raw.length then accAdd (redWide r) (decodeVal f (raw.getD (i - first) 0)) a else a }
  else if r.op ≠ 0 then
    let v := if c.native.isEmpty then List.replicate (max c.counts.length (first + raw.length)) none else c.native
    { c with native := v.mapIdx fun i a =>
        if first ≤ i && i < first + raw.length then
          let x := raw.getD (i - first) 0
          some (match a with
            | some y => maxMin f (r.op == 1) y x
            | none => x)
        else a }
  else { c with blocks := absorb f r.plan.round r.plan.sat r.plan.leaves 64 (r.plan.leaf, 1, raw) c.blocks }

/-! ### Records -/

/-- Values of a block or vector packed and padded to 4 bytes. -/
def packPad (w : Nat) (v : List Nat) : List Byte :=
  let b := packElems w v
  b ++ List.replicate ((4 - b.length % 4) % 4) 0

/-- The record a chunk sends upward (R312, R319 to R321). -/
def chunkRecord (r : Reduction) (k : Nat) (s : State) : List Byte :=
  let c := chunkOf r k
  let w := fmtWidth (redFmt r)
  let (payload, nb) : List Byte × Nat :=
    if c.failed then ([], 0)
    else if redExact r then (cxpPayload (redWide r) c.accs, 0)
    else if r.op ≠ 0 then (packElems w (c.native.map (·.getD 0)), 0)
    else ((c.blocks.map fun b => toBytes 4 (b.1 + 2 ^ 16 * b.2.1) ++ packPad w b.2.2).flatten, c.blocks.length)
  partHeader r.plan.id k r.fmt (redKind r) r.op (chunkElems r k) c.failed s.spl.chip (32 + payload.length)
    c.contribs (slotTick r k) nb ++ payload

/-- The KIND 3 record of a result, or of a failure. -/
def resultRecord (r : Reduction) (k : Nat) (failed : Bool) (data : List Byte) (s : State) : List Byte :=
  partHeader r.plan.id k r.fmt 3 r.op (chunkElems r k) failed s.spl.chip (32 + data.length) (chunkOf r k).contribs
    (slotTick r k) 0 ++ data

/-- A result record passed on: SENDER is the chip that sends it, the rest is as received (R323). -/
def forwardRecord (b : List Byte) (s : State) : List Byte :=
  let v := ofBytes (b.take 32)
  toBytes 32 (v % 2 ^ 83 + 2 ^ 83 * (s.spl.chip % 2 ^ 13) + 2 ^ 96 * (v / 2 ^ 96)) ++ b.drop 32

/-- Read a record (Table 13-6). -/
def recOf (b : List Byte) : Rec :=
  let v := ofBytes (b.take 32)
  let g (lo n : Nat) : Nat := v / 2 ^ lo % 2 ^ n
  { id := g 0 32, chunk := g 32 32, fmt := g 64 4, kind := g 68 2, op := g 70 2, elements := g 72 10 + 1
    failed := g 82 1 == 1, sender := g 83 13, contribs := g 128 32, slot := g 160 64, nblocks := g 224 32
    payload := b.drop 32 }

/-- The blocks of a KIND 1 payload. -/
def recBlocks (w elems : Nat) : Nat → List Byte → List (Nat × Nat × List Nat)
  | 0, _ => []
  | n + 1, b =>
    let h := ofBytes (b.take 4)
    let len := ceilDiv (ceilDiv (elems * w) 8) 4 * 4
    (h % 2 ^ 13, h / 2 ^ 16 % 2 ^ 14, (List.range elems).map fun i => elemAt w ((b.drop 4).take len) i)
      :: recBlocks w elems n (b.drop (4 + len))

/-- The lane of element i of a chunk: that of the home slice of its DST element (R317). -/
def elemLane (id : Nat) (r : Reduction) (k i : Nat) (s : State) : Nat :=
  laneAt r.ctx (r.dst + (1024 * k + i) * fmtWidth ((outFmtOf r.plan r.fmt).getD .fp32) / 8) id s

/-- The lanes of n elements of a chunk from one on. -/
def elemLanes (id : Nat) (r : Reduction) (k first n : Nat) (s : State) : List Nat :=
  (List.range n).map fun i => elemLane id r k (first + i) s

/-- Bits of the operands that a record brings for each element. -/
def recBits (r : Reduction) (x : Rec) : List Nat :=
  if redExact r then
    ((cxpParse (redWide r) x.elements x.payload).getD []).map fun a => 8 * ((if redWide r then 2 else 1) + 4 * (cxpElem (redWide r) a).2.2.length)
  else List.replicate x.elements (fmtWidth (redFmt r) * max 1 x.nblocks)

/-- Send a record to a chip in the reduction's class. -/
def sendRecord (r : Reduction) (chip k : Nat) (b : List Byte) (s : State) : State :=
  fabPut chip r.cls (some r.env) (.record r.plan.id k b) s r.ident

/-! ### Progress -/

/-- The command of a reduction ends when every chunk has been written or sent (R323). -/
def redFinish (id : Nat) (s : State) : State :=
  match mget s.cis.reds id with
  | none => s
  | some r =>
    if r.isOver || (r.chunks.filter fun c => c.2.fin).length < chunkCount r then s
    else
      let n := (r.chunks.filter fun c => c.2.ok).length
      let s := modRed id (fun r => { r with isOver := true }) s
      let s := if (r.chunks.filter fun c => c.2.started && !c.2.released).isEmpty then
        modCis (fun c => { c with reds := mdel c.reds id }) s else s
      endCmd id (r.bad.getD .ok) n r.late s

/-- A chunk's part in the command is over: counted, and traced with what Table 17-4 says of it. -/
def chunkFin (id k : Nat) (ok released : Bool) (s : State) : State :=
  let s := match mget s.cis.reds id, mget s.que.cmds id with
    | some r, some c =>
      let arg := k % 2 ^ 32 + 2 ^ 32 * (chunkOf r k).late.toNat + 2 ^ 33 * (!ok).toNat
      trace 0x0A (cmdIdent c s) (cmdEnv c s) (304 + elemLane id r k 0 s) (BitVec.ofNat 64 arg) (whenS ok (countFn (cmdFn c s) 14 1) s)
    | _, _ => s
  redFinish id (modChunk id k (fun c => { c with fin := true, ok := ok, released := c.released || released }) s)

/-- Write the DST elements of a chunk: packed values, or poison (R319, R323). -/
def writeResult (id k : Nat) (bad : Bool) (vals : List Nat) (s : State) : State :=
  match mget s.cis.reds id, mget s.que.cmds id with
  | some r, some c =>
    let f := (outFmtOf r.plan r.fmt).getD .fp32
    let n := chunkElems r k
    let d := if bad then List.replicate (arrayBytes f false n) 0 else packElems (fmtWidth f) vals
    newReq { who := .cmd id, fn := cmdFn c s, env := cmdEnv c s, ident := cmdIdent c s
             op := .result k (r.dst + arrayBytes f false (1024 * k)) d (n * fmtWidth f % 8), poisoned := bad } s
  | _, _ => s

/-- The chunk fails on this chip, once: CHUNK_FAILED and CIS_FAILED (R319). -/
def noteFailed (id k : Nat) (s : State) : State :=
  match mget s.cis.reds id with
  | none => s
  | some r =>
    if (chunkOf r k).failed then s
    else modChunk id k (fun c => { c with failed := true })
      (setEvent rCIS_EVENT 1 (modCis (fun c => { c with failed := satAdd 32 c.failed 1 }) s))

/-- A chip below the root writes the chunk's DST elements as poison (R319). -/
def poisonResult (id k : Nat) (s : State) : State :=
  writeResult id k true [] (modRed id (fun r => { r with bad := r.bad.or (some .poison) }) (noteFailed id k s))

/-- After a record has gone to the parent: without ALL the chunk's part in the command is over (R323); with ALL the parent's
result is awaited, which does not come from a parent that is not ACTIVE (R350). -/
def awaitParent (id k : Nat) (ok : Bool) (r : Reduction) (s : State) : State :=
  let gone := peerSt r.plan.parent s != .active
  if !r.plan.all then chunkFin id k ok gone s else if gone then poisonResult id k s else s

/-- The chunk has failed on this chip (R319). -/
def failChunk (id k : Nat) (s : State) : State :=
  match mget s.cis.reds id with
  | none => s
  | some r =>
    let c := chunkOf r k
    if c.failed || c.fin then s
    else
      let s := modRed id (fun r => { r with bad := r.bad.or (some .poison) }) (noteFailed id k s)
      let s := modChunk id k (fun c => { c with sent := true }) s
      match mget s.cis.reds id with
      | none => s
      | some r =>
        if r.plan.parent = 0xFFFF then
          let s := if r.plan.all then each r.plan.children (fun p s => sendRecord r p k (resultRecord r k true [] s) s) s else s
          writeResult id k true [] s
        else
          let s := if c.sent then s else sendRecord r r.plan.parent k (chunkRecord r k s) s
          awaitParent id k false r s

/-- The root's values of a chunk (R311, R320, R321), and how many elements SAT changed. -/
def rootValues (r : Reduction) (k : Nat) : List Nat × Nat :=
  let c := chunkOf r k
  let f := redFmt r
  let g := (outFmtOf r.plan r.fmt).getD f
  let conv (copy : Bool) (vs : List Nat) : List (Nat × Bool) :=
    if copy && g == f then vs.map fun v => (v, false)
    else vs.mapIdx fun i v => encodeVal g r.plan.round r.plan.sat r.plan.srKey (1024 * k + i) (decodeVal f v)
  let l := if redExact r then
      c.accs.mapIdx fun i a => accRound (redWide r) g r.plan.round r.plan.sat r.plan.srKey (1024 * k + i) a
    else if r.op ≠ 0 then conv false (c.native.map (·.getD 0))
    else conv true ((c.blocks.headD (0, 0, [])).2.2)
  (l.map (·.1), (l.filter (·.2)).length)

/-- Everything a chunk waits for before it is sent has been added. -/
def chunkReady (r : Reduction) (k : Nat) : Bool :=
  let c := chunkOf r k
  c.own && !c.failed && !c.sent && c.got.length == r.plan.children.length

/-- A chunk is late on this chip (R319): counted in RESULT1 of its REDUCE, in CIS_LATE and in CIS_EVENT. -/
def noteLate (id k : Nat) (r : Reduction) (s : State) : State :=
  setEvent rCIS_EVENT 0 (countFn ((mget s.que.ctxs r.ctx).map (·.fn) |>.getD 0) 15 1
    (modRed id (fun r => { r with late := r.late + 1 }) (modChunk id k (fun c => { c with late := true })
      (modCis (fun c => { c with late := satAdd 32 c.late 1 }) s))))

/-- CHUNK_SEND (R319 step 3 and 4, R320): no earlier than the edge of T_k the chip sends its record to the parent, or the
root checks the contributions and rounds. A chip in FREE_RUN whose record misses the window is late itself (R319, log
146). -/
def chunkSend (id k : Nat) (s : State) : State :=
  match mget s.cis.reds id with
  | none => s
  | some r =>
    if !chunkReady r k || tick s < slotTick r k then s
    else
      let c := chunkOf r k
      if r.plan.parent ≠ 0xFFFF then
        let s := whenS (s.time.st == .freeRun && slotTick r k + 8 ≤ tick s) (noteLate id k r) s
        let s := modChunk id k (fun c => { c with sent := true }) (sendRecord r r.plan.parent k (chunkRecord r k s) s)
        awaitParent id k true r s
      else if c.contribs ≠ r.plan.leaves || (r.ordered && r.op = 0 && c.blocks.map (fun b => (b.1, b.2.1)) ≠ [(0, r.plan.leaves)]) then
        failChunk id k s
      else
        let (vs, sats) := rootValues r k
        let s := countRounded (elemLanes id r k 0 vs.length s) s
        let s := modCis (fun c => { c with sat := satAdd 32 c.sat sats }) s
        let s := modChunk id k (fun c => { c with sent := true }) s
        let d := packElems (fmtWidth ((outFmtOf r.plan r.fmt).getD .fp32)) vs
        let s := if r.plan.all then each r.plan.children (fun p s => sendRecord r p k (resultRecord r k false d s) s) s else s
        writeResult id k false vs s

/-- Start a chunk's own contribution (R319 step 1): its SRC elements are read, or core contributions awaited. -/
def startChunk (id k : Nat) (s : State) : State :=
  match mget s.cis.reds id, mget s.que.cmds id with
  | some r, some c =>
    let old := chunkOf r k
    let new := freshChunk r k
    let s := modChunk id k (fun _ => if old.started || old.failed then old else
      { new with blocks := old.blocks, native := old.native, got := old.got, contribs := old.contribs, failed := old.failed
                 accs := if old.accs.isEmpty then new.accs else old.accs, sent := old.sent, fin := old.fin }) s
    if old.started || old.failed || r.plan.loc ≠ 0 then s
    else
      let f := redFmt r
      cmdReq id c (.contribute k (r.src + arrayBytes f false (1024 * k)) (arrayBytes f false (chunkElems r k))) 0 s
  | _, _ => s

/-- The first chunk not started, and not failed, whose slot opens within two ticks. -/
def nextChunk (r : Reduction) (s : State) : Option Nat :=
  (List.range (chunkCount r)).find? fun k => !(chunkOf r k).started && !(chunkOf r k).failed && slotTick r k ≤ tick s + 2

/-- Start chunks in order while the limit of locked state holds them (R317, R318). -/
def redAdvance (id : Nat) : Nat → State → State
  | 0, s => s
  | n + 1, s =>
    match mget s.cis.reds id with
    | none => s
    | some r =>
      if r.isOver then s
      else match nextChunk r s with
      | none => s
      | some k =>
        if lockUsed s + chunkState r k ≤ lockLimit s then redAdvance id n (startChunk id k s)
        else if (chunkOf r k).waited then s
        else setEvent rCIS_EVENT 2 (modChunk id k (fun c => { c with waited := true }) s)

/-- Core contributions that wait for locked state are noted once for each chunk (R318). -/
def noteWaits (s : State) : State :=
  each s.que.reqs (fun e s =>
    match e.2.op with
    | .reduce rid k first n fmt _ =>
      match redNamed e.2.env rid s with
      | some (id, r) =>
        if lockWaits e.2.env rid k first n fmt s && !(chunkOf r k).waited then
          setEvent rCIS_EVENT 2 (modChunk id k (fun c => { c with waited := true }) s)
        else s
      | none => s
    | _ => s) s

/-- The reductions' work of an edge (Table 2-2). -/
def slotEdge (s : State) : State := noteWaits (each (mkeys s.cis.reds) (fun i s => redAdvance i 2048 s) s)

/-- A REDUCE whose plan has been read enters (R316). -/
def startReduce (id : Nat) (p : Plan) (s : State) : State :=
  match mget s.que.cmds id with
  | none => s
  | some c => match c.body, cmdEnv c s, cmdCtx c s with
    | .reduce src dst cnt fmt op mode _ _, some e, some x =>
      match planCheck p fmt.toNat op.toNat (mode = 1) e s with
      | some st => endCmd id st 0 0 s
      | none =>
        let r : Reduction := { plan := p, fmt := fmt.toNat, op := op.toNat, ordered := mode == 1, count := cnt.toNat
                               src := src.toNat % 2 ^ 57, dst := dst.toNat % 2 ^ 57, ctx := x, env := e, cls := c.hdr.cls.val
                               ident := cmdIdent c s }
        let s := modCis (fun c => { c with reds := mset c.reds id r }) s
        redFinish id (redAdvance id 2048 s)
    | _, _, _ => endCmd id .invalid 0 0 s

/-- Accumulators of a chunk that have set OVF. -/
def overflown (id k : Nat) (s : State) : Nat :=
  match mget s.cis.reds id with
  | some r => ((chunkOf r k).accs.filter (·.ovf)).length
  | none => 0

/-- Add to a chunk's state; an accumulator that sets OVF is recorded (R310). -/
def addChunk (id k : Nat) (f : Chunk → Chunk) (s : State) : State :=
  let t := modChunk id k f s
  whenS (overflown id k s < overflown id k t) (setEvent rCIS_EVENT 5) t

/-- The SRC elements of a chunk have been read. -/
def contributed (id k : Nat) (d : List Byte) (st : Status) (s : State) : State :=
  match mget s.cis.reds id with
  | none => s
  | some r =>
    if st != .ok then failChunk id k s
    else
      let f := redFmt r
      let raw := (List.range (chunkElems r k)).map fun i => elemAt (fmtWidth f) d i
      let s := countOperands ((elemLanes id r k 0 raw.length s).map fun l => (l, fmtWidth f)) s
      addChunk id k (fun c => { addValues r 0 raw c with own := true }) s

/-- A discarded record or contribution (R319, R322). -/
def mismatch (event : Bool) (s : State) : State :=
  let s := setEvent rCIS_EVENT 3 (modCis (fun c => { c with mismatch := satAdd 32 c.mismatch 1 }) s)
  if event then raise 304 .advisory none none 0 s else s

/-- A record of KIND 0 to 2 agrees with the local REDUCE and its payload is legal (R313, R319). -/
def recAgrees (r : Reduction) (x : Rec) : Bool :=
  x.chunk < chunkCount r && x.fmt == r.fmt && x.op == r.op && x.elements == chunkElems r x.chunk && x.kind == redKind r
    && (x.failed || !redExact r || (cxpParse (redWide r) x.elements x.payload).isSome)

/-- Add a child's record to its chunk (R319 step 2, R320, R321). -/
def addRecord (r : Reduction) (x : Rec) (c : Chunk) : Chunk :=
  let f := redFmt r
  let c := { c with got := c.got ++ [x.sender], contribs := c.contribs + x.contribs }
  if redExact r then
    let l := (cxpParse (redWide r) x.elements x.payload).getD []
    let base := if c.accs.isEmpty then List.replicate x.elements {} else c.accs
    { c with accs := base.mapIdx fun i a => accMerge (redWide r) a (l.getD i {}) }
  else if r.op ≠ 0 then addValues r 0 ((List.range x.elements).map fun i => elemAt (fmtWidth f) x.payload i) c
  else
    let bs := (recBlocks (fmtWidth f) x.elements x.nblocks x.payload).foldl
      (fun l b => absorb f r.plan.round r.plan.sat r.plan.leaves 64 b l) c.blocks
    { c with blocks := bs }

/-- PARTIAL_RECORD (R319): a child's record is added, or discarded as a mismatch. -/
def takeRecord (env : Option Nat) (b : List Byte) (s : State) : State :=
  let x := recOf b
  match redNamed env x.id s with
  | none => mismatch true s
  | some (id, r) =>
    let c := chunkOf r x.chunk
    if !recAgrees r x || !r.plan.children.contains x.sender || c.got.contains x.sender then mismatch true s
    else
      let late := slotTick r x.chunk + 8 ≤ tick s
      let s := whenS late (noteLate id x.chunk r) s
      if x.failed then
        failChunk id x.chunk (modChunk id x.chunk (fun c => { c with got := c.got ++ [x.sender], contribs := c.contribs + x.contribs }) s)
      else
        addChunk id x.chunk (addRecord r x) (countOperands ((elemLanes id r x.chunk 0 x.elements s).zip (recBits r x)) s)

/-- RESULT_RECORD (R323): the chip writes its DST elements, or poison, and forwards the record to its children. -/
def takeResult (env : Option Nat) (b : List Byte) (s : State) : State :=
  let x := recOf b
  match redNamed env x.id s with
  | none => mismatch true s
  | some (id, r) =>
    let c := chunkOf r x.chunk
    let g := (outFmtOf r.plan r.fmt).getD .fp32
    if x.kind ≠ 3 || !(x.chunk < chunkCount r) || x.sender ≠ r.plan.parent || !r.plan.all || !c.sent || c.fin || c.got.contains x.sender
        || x.fmt ≠ r.fmt || x.op ≠ r.op || x.elements ≠ chunkElems r x.chunk then mismatch true s
    else
      let d := x.payload
      let s := modChunk id x.chunk (fun c => { c with got := c.got ++ [x.sender] }) s
      let s := each r.plan.children (fun p s => sendRecord r p x.chunk (forwardRecord b s) s) s
      if x.failed then
        poisonResult id x.chunk s
      else writeResult id x.chunk false ((List.range x.elements).map fun i => elemAt (fmtWidth g) d i) s

/-- The DST elements of a chunk have been written; its locked state is released (R323). -/
def resultWritten (id k : Nat) (st : Status) (s : State) : State :=
  match mget s.cis.reds id with
  | none => s
  | some r =>
    let c := chunkOf r k
    let s := if st == .ok then s else modRed id (fun r => { r with bad := r.bad.or (some st) }) s
    chunkFin id k (st == .ok && !c.failed) true s

/-- CHUNK_LATE_TIMEOUT (R319): a record still missing LATE_TICKS ticks after the window closes. -/
def chunkLate (id k : Nat) (s : State) : State :=
  match mget s.cis.reds id with
  | none => s
  | some r =>
    let c := chunkOf r k
    let lim := if r.plan.lateTicks = 0 then 1000 else r.plan.lateTicks
    if k < chunkCount r && !c.failed && !c.sent && c.got.length < r.plan.children.length
        && slotTick r k + 8 + lim ≤ tick s then failChunk id k s else s

/-- A chip without ALL has no acknowledgement of its parent to wait for any more: the locked state is released. -/
def dropLocks (id k : Nat) (s : State) : State :=
  let s := modChunk id k (fun c => { c with released := true }) s
  match mget s.cis.reds id with
  | some r => if r.isOver && (r.chunks.filter fun c => c.2.started && !c.2.released).isEmpty then
      modCis (fun c => { c with reds := mdel c.reds id }) s else s
  | none => s

/-- A record to the parent has been acknowledged: a chip without ALL releases the chunk's locked state (R323). -/
def recordAcked (env : Option Nat) (rid k : Nat) (s : State) : State :=
  each (s.cis.reds.filter fun e => some e.2.env == env && e.2.plan.id == rid && !e.2.plan.all && e.2.plan.parent ≠ 0xFFFF
    && (chunkOf e.2 k).sent) (fun e s => dropLocks e.1 k s) s

/-- Chunks that await a lost peer's records fail, and its lost acknowledgements are not waited for (R350). -/
def redPeerLost (chip : Nat) (s : State) : State :=
  each s.cis.reds (fun e s =>
    each (List.range (chunkCount e.2)) (fun k s =>
      let c := chunkOf e.2 k
      let s := if e.2.plan.parent = chip && !e.2.plan.all && c.sent then dropLocks e.1 k s else s
      if e.2.isOver || c.fin then s
      else if e.2.plan.children.contains chip && !c.got.contains chip then failChunk e.1 k s
      else if e.2.plan.parent = chip && e.2.plan.all && c.sent then
        poisonResult e.1 k s
      else s) s) s

/-- A core's contribution (R322): status of the VC0 REDUCE. -/
def coreContribute (env : Option Nat) (rid k first : Nat) (fmt : Nat) (raw : List Nat) (s : State) : Status × State :=
  match redNamed env rid s with
  | none => (.invalid, mismatch false s)
  | some (id, r) =>
    let n := raw.length
    let c := chunkOf r k
    let counts := if c.counts.isEmpty then List.replicate (chunkElems r k) 0 else c.counts
    let isOver := ((counts.drop first).take n).any fun m => r.plan.loc ≤ m
    if fmt ≠ r.fmt || chunkCount r ≤ k || chunkElems r k < first + n || r.plan.loc = 0 || isOver then (.invalid, mismatch false s)
    else
      let s := countOperands ((elemLanes id r k first n s).map fun l => (l, fmtWidth (redFmt r))) (startChunk id k s)
      let up (c : Chunk) : List Nat := c.counts.mapIdx fun i m => if first ≤ i && i < first + n then m + 1 else m
      let add (c : Chunk) : Chunk :=
        { addValues r first raw c with counts := up c, own := (up c).all (fun m => m == r.plan.loc) }
      (.ok, addChunk id k add s)

end Sys2Proof.Machine
end

