-- ==== Sys2Proof/Machine/Inbound.lean ====
section
/-! DEFINITION. Posted writes of hosts outside the host window: doorbells (R128, R129) and Rill writes (R134, R135), in
arrival order behind the earlier inbound requests of their port (R191). -/
namespace Sys2Proof.Machine

/-! ### Doorbells -/

/-- Key of a doorbell register: 0 the submit, 1 the completion doorbell of a slot of a function. -/
def doorbellKey (fn slot which : Nat) : Nat := 2 ^ 40 + (fn * 32768 + slot) * 2 + which

/-- The queue that a doorbell slot of a function belongs to; the admin queue while it is enabled. -/
def slotQueue (fn slot : Nat) (s : State) : Option (Nat × Queue) :=
  s.que.queues.find? fun e => e.2.fn == fn && e.2.db == slot
    && (e.2.ctx.isSome || bit (regRaw (fnKey fn fQUE_ADMIN_CTRL) s) 0)

/-- The queue takes doorbells (R129): its generation, its state and its context's state. -/
def takesDoorbell (i : Nat) (q : Queue) (qgen : Nat) (s : State) : Bool :=
  slotGen s.que.queSlots i % 2 ^ 24 == qgen && (q.st == .active || q.st == .stopped)
    && (match q.ctx with
      | none => true
      | some c => match mget s.que.ctxs c with
        | some x => x.st == .active || x.st == .faulted
        | none => false)

/-- A doorbell that is discarded and counted. -/
def doorbellDropped (fn : Nat) (s : State) : State := modFunc fn (fun f => { f with dbDropped := satAdd 32 f.dbDropped 1 }) s

/-- A submit doorbell takes effect (R129): stale ones are counted, a TAIL too far ahead is a ring overrun, any other is
recorded for service at the next edge. -/
def submit (fn slot : Nat) (v : W64) (s : State) : State :=
  match slotQueue fn slot s with
  | none => doorbellDropped fn s
  | some (i, q) =>
    let t := fld v 0 32
    if s.env.zeroising || !takesDoorbell i q (fld v 32 24) s then doorbellDropped fn s
    else if 2 ^ 31 ≤ dist32 t q.tail then modFunc fn (fun f => { f with dbStale := satAdd 32 f.dbStale 1 }) s
    else if 2 ^ q.k < dist32 t (fetchHead q) then queueError i .ringOverrun s
    else
      let s := traceRec ⟨s.time.now, 0, 0, 3, 0, traceCtx q.ctx, traceEnv (func fn s).env, 8,
        BitVec.ofNat 64 (t + 2 ^ 32 * slot)⟩ s
      modQue (fun x => { x with rung := if x.rung.contains i then x.rung else x.rung ++ [i] })
        (modQueue i (fun q => { q with tail := t }) s)

/-- A completion doorbell takes effect (R129): a CHEAD beyond CDONE is clamped. -/
def complete' (fn slot : Nat) (v : W64) (s : State) : State :=
  match slotQueue fn slot s with
  | none => doorbellDropped fn s
  | some (i, q) =>
    let t := fld v 0 32
    if !takesDoorbell i q (fld v 32 24) s then doorbellDropped fn s
    else if 2 ^ 31 ≤ dist32 t q.chead then modFunc fn (fun f => { f with dbStale := satAdd 32 f.dbStale 1 }) s
    else
      let h := if dist32 q.cdone q.chead < dist32 t q.chead then q.cdone else t
      modQueue i (fun q => { q with chead := h }) s

/-! ### Rill -/

/-- Rill slots of a function: those of the envelope it is bound to. -/
def rillOf (fn : Nat) (s : State) : List Nat :=
  match (func fn s).env with
  | some e => (match mget s.env.envs e with
    | some v => v.rill
    | none => [])
  | none => []

/-- Notify the bound core of a landing (R134); a notification for the slot that has not been sent yet takes the latest
SEQ and LENGTH instead, and the merge is counted (R135). -/
def rillNotify (fn slot core seq len : Nat) (s : State) : State :=
  let waits (e : Nat × CfMsg) : Bool := match e.2 with
    | .rill _ n _ _ => n == slot
    | _ => false
  if (cfport (core / 8) s).waiting.any waits then
    modFunc fn (fun f => { f with rillMerged := satAdd 32 f.rillMerged 1 })
      (modCf (core / 8) (fun c => { c with waiting := c.waiting.map fun (e : Nat × CfMsg) =>
        (if waits e then (e.1, CfMsg.rill (core % 8) slot seq len) else e) }) s)
  else cfSend (core / 8) 2 (.rill (core % 8) slot seq len) s

/-- A write to a slot of a function's Rill window takes effect (R134, R135). -/
def rillLand (p fn slot off : Nat) (d : List Byte) (s : State) : State :=
  let r := mgetD s.que.rills slot {}
  let live := match r.ctx with
    | some c => (match mget s.que.ctxs c with
      | some x => x.st == .active && x.fn == fn
      | none => false)
    | none => false
  if !(rillOf fn s).contains slot || !live then modFunc fn (fun f => { f with rillDropped := satAdd 32 f.rillDropped 1 }) s
  else
    let d := d.take (4096 - off)
    let mem := cellsSet r.mem off d
    let s := count 7 1 p d.length (modQue (fun q => { q with rills := mset q.rills slot { r with mem := mem } }) s)
    if off ≤ 4088 && off + d.length = 4096 then
      let w : W64 := BitVec.ofNat 64 (ofBytes (cellsGet mem 4088 8))
      match (func fn s).env.bind fun e => mget s.env.envs e with
      | some v =>
        if v.st == .pausing || v.st == .paused then
          modEnv ((func fn s).env.getD 0) (fun v => { v with rillDue := insNat slot v.rillDue }) s
        else rillNotify fn slot (v.cores.getD r.core 0) (fld w 0 32) (fld w 32 12) s
      | none => s
    else s

/-! ### Order of arrival (R120, R191) -/

/-- A doorbell or a Rill write takes effect; `which` is 0 for the submit doorbell. -/
def landed (p : Nat) (op : ReqOp) (s : State) : State :=
  match op with
  | .ring fn slot which v => if which = 0 then submit fn slot v s else complete' fn slot v s
  | .rill fn slot off d => rillLand p fn slot off d s
  | _ => s

/-- A doorbell or a Rill write of a port arrives: it takes effect at once, or behind earlier inbound requests of the
port once they have been performed (R191). -/
def land (p fn : Nat) (op : ReqOp) (s : State) : State :=
  if inboundAhead p s.que.nextReq s then
    newReq { who := .inbound p, fn := fn, env := (func fn s).env, ident := {}, op := op } s
  else landed p op s

/-- What a function has waiting in a port's order of arrival is discarded (R111). -/
def dropLanding (fn : Nat) (s : State) : State :=
  let mine (r : Req) : Bool := r.fn == fn && (match r.op with
    | .ring .. => true
    | .rill .. => true
    | _ => false)
  modQue (fun q => { q with reqs := q.reqs.filter fun e => !mine e.2 }) s

end Sys2Proof.Machine
end

