-- ==== Sys2Proof/Machine/Fetch.lean ====
section
/-! DEFINITION. Fetching ring entries (R35, R127, R129, R130, R132). -/
namespace Sys2Proof.Machine

/-- A queue fetches: it is ACTIVE, its context ACTIVE, its envelope not paused; the admin queue is enabled and has a usable
instance (R125, R129, R373). -/
def mayFetch (q : Queue) (s : State) : Bool :=
  q.st == .active && (match q.ctx with
    | some _ => queueRuns q s
    | none => bit (regRaw (fnKey q.fn fQUE_ADMIN_CTRL) s) 0 && !(func q.fn s).flrBusy && (primary q.fn s).isSome)

/-- The position behind the entries that a queue has fetched. -/
def fetchNext (q : Queue) : Nat := (q.head + q.entries.length) % 2 ^ 32

/-- Commands that a queue may fetch now: up to TAIL, never onto an unconsumed record, and at most FETCH_MAX in the tick
(R127, R130); none behind an INLINE_WRITE that waits at HEAD (R132). -/
def fetchCount (q : Queue) : Nat :=
  if q.wait ≠ 0 then 0
  else min q.left (min (dist32 q.upTo (fetchNext q)) (2 ^ q.k - (dist32 q.head q.chead + q.entries.length)))

/-- Extension entries to fetch of the INLINE_WRITE that waits at HEAD: all that are not on their way, once TAIL covers
all (R132). -/
def fetchExt (q : Queue) : Nat := if dist32 q.upTo q.head < q.wait then 0 else q.wait - q.entries.length

/-- Fetch the entry behind those fetched: a request of the context, or for an admin queue an untranslated read through the
primary instance, in the order of the uncharged traffic (R125, R127, R195). -/
def fetchOne (i : Nat) (paid : Bool) (s : State) : State :=
  match mget s.que.queues i with
  | none => s
  | some q =>
    let pos := fetchNext q
    let a := q.ring + 64 * (pos % 2 ^ q.k)
    let n := s.que.nextFetch
    let s := modQue (fun u => { u with nextFetch := n + 1 }) (modQueue i (fun q => { q with
      entries := q.entries ++ [⟨pos, n, paid, false, false, false, false⟩], left := q.left - b2n paid }) s)
    match q.ctx with
    | some c =>
      let cls := match mget s.que.ctxs c with
        | some x => x.defCls
        | none => 0
      newReq { who := .block, fn := q.fn, env := ctxEnv c s, op := .ptFetch i n a 64,
               ident := { ctx := some c, gen := slotGen s.que.ctxSlots c, cls := cls } } s
    | none => match primary q.fn s with
      | some p =>
        let t := npTag p s
        npIssue p ⟨t, q.fn, (func q.fn s).gen, none, 0, none, a, 64, .fetch i n, false⟩ (.read q.fn none t a 64) (some 3) 1 s
      | none => s

/-- A queue fetches what it may now. -/
def fetchMore (i : Nat) (s : State) : State :=
  match mget s.que.queues i with
  | none => s
  | some q =>
    if !mayFetch q s then s
    else each (List.replicate (fetchCount q) true ++ List.replicate (fetchExt q) false) (fun paid s => fetchOne i paid s) s

/-- Serve one recorded doorbell at an edge (R35, R129): the allowance of the tick begins. -/
def serveQueue (i : Nat) (s : State) : State := fetchMore i (modQueue i (fun q => { q with left := q.fetchMax, upTo := q.tail }) s)

/-- A queue's recorded doorbell is still to be served. -/
def stillRung (i : Nat) (s : State) : Bool :=
  match mget s.que.queues i with
  | none => false
  | some q => (q.st == .active || q.st == .stopped) && dist32 q.tail (fetchNext q) ≠ 0

/-- The command at HEAD whose first 16 bytes are poison cannot be decoded: the queue enters ERROR (R130). -/
def headCheck (i : Nat) (s : State) : State :=
  match (mget s.que.queues i).bind fun q => if q.wait = 0 then q.entries.head? else none with
  | some e => if e.here && e.badHdr then queueError i .headerPoison s else s
  | none => s

/-- What becomes of a fetch that comes back, with data or without: an entry awaits it, it is void, or its queue is gone;
the last is counted against its function (Table 6-9). -/
def fetchBack (i num fn : Nat) (go : State → State) (s : State) : State :=
  match mget s.que.queues i with
  | none => doorbellDropped fn s
  | some q =>
    if q.entries.any (·.num == num) then go s
    else if q.void.contains num then modQueue i (fun q => { q with void := q.void.filter (· != num) }) s
    else doorbellDropped fn s

/-- A fetch brings its entry, with the parts of it that are poison. -/
def fetchArrive (i num fn : Nat) (h b g : Bool) (s : State) : State :=
  fetchBack i num fn (fun s => headCheck i (modQueue i (fun q => { q with
    entries := q.entries.map fun e => (if e.num = num then { e with here := true, badHdr := h, badBody := b, badSig := g } else e) }) s)) s

/-- A fetch has failed: the queue enters ERROR, and goes on with the entries before it only (Table 6-8). -/
def fetchFail (i num fn : Nat) (s : State) : State :=
  fetchBack i num fn (fun s => queueError i .fetchFailed
    (modQueue i (fun q => keepEntries (q.entries.takeWhile (·.num != num)).length q) s)) s

/-- A poisoned span of a ring entry reaches into some of its bytes. -/
def badPart (l : List (Nat × Nat)) (lo hi : Nat) : Bool := l.any fun b => b.1 < hi && lo < b.1 + b.2

/-- The fetch of a data queue's entry has ended. -/
def fetchEnd (i num : Nat) (r : Req) (st : Status) (s : State) : State :=
  if st == .ok || st == .poison then
    fetchArrive i num r.fn (badPart r.bad 0 16) (badPart r.bad 16 48) (badPart r.bad 48 64) s
  else fetchFail i num r.fn s

end Sys2Proof.Machine
end

