-- ==== Sys2Proof/Machine/Settle.lean ====
section
/-! DEFINITION. What follows a change: requests that have ended are answered, publications whose flushes have completed are
made, waits that have ended are reported, packets leave, and commands that may start do so. -/
namespace Sys2Proof.Machine

/-! ### Answers to cores -/

/-- A VC1 response with its data whatever its status (R239). -/
def cfReply (cf core engine tag : Nat) (st : Status) (data : List Byte) (s : State) : State :=
  each (flits 4096 0 data) (fun f s => cfSend cf 1 (.rsp core engine tag (rspCode st) f.1 f.2 false) s) s

/-- Bytes that a core's read delivers. -/
def readLen (r : Req) : Nat := ((readSpans r.op).map (·.2)).foldl (· + ·) 0

/-- Answer a core's request. A read tile that fails has every flit marked as poison (R176). -/
def coreAnswer (r : Req) (st : Status) (s : State) : State :=
  match r.who with
  | .core cf core engine tag _ =>
    match r.op with
    | .load _ n => cfRespond cf core engine tag st (cellsGet r.data 0 n) s
    | .tileRead _ =>
      if st == .ok then cfRespond cf core engine tag st (cellsGet r.data 0 (readLen r)) s
      else each (flits 4096 0 (List.replicate (readLen r) 0)) (fun f s =>
        cfSend cf 1 (.rsp core engine tag (rspCode st) f.1 f.2 true) s) s
    | .atomic _ o => cfRespond cf core engine tag st (if o.noret || o.aop = 13 then [] else cellsGet r.data 0 16) s
    | _ => cfRespond cf core engine tag st [] s
  | _ => s

/-- Answer a core's fence operation: VALUE and STATUS in the data (R239). -/
def fenceAnswer (r : Req) (st : Status) (v : W64) (s : State) : State :=
  match r.who with
  | .core cf core engine tag _ => cfReply cf core engine tag st (toBytes 8 v.toNat ++ toBytes 2 (statusCode st)) s
  | _ => s

/-- A barrier goes back into the table while it waits for flushes, for its fence or for another chip. -/
def park (id : Nat) (r : Req) (st : ReqSt) (s : State) : State :=
  modQue (fun q => { q with reqs := mset q.reqs id { r with st := st } }) s

/-- A barrier leaves the table. -/
def unpark (id : Nat) (s : State) : State := modQue (fun q => { q with reqs := mdel q.reqs id }) s

/-- Core number of a request and its engine. -/
def coreOf (r : Req) : Nat × Nat :=
  match r.who with
  | .core cf core engine _ _ => (8 * cf + core, engine)
  | _ => (0x1FF, 0)

/-- A remote fence operation goes to its home (R240), or is refused. -/
def fenceRemote (id : Nat) (r : Req) (signal : Bool) (d : FenceData) (sc : Nat) (s : State) : State :=
  let ok := match r.env with
    | some e => peerOk e d.chip.val s
    | none => false
  if ok then
    fabPut d.chip.val r.ident.cls r.env (.fenceOp id signal d.handle d.value d.timeout.toNat sc (coreOf r).1 (coreOf r).2)
      (park id r .accepting s) r.ident
  else fenceAnswer r .invalid 0 (unpark id s)

/-- Apply a core's signal once its release is complete (R239, R240); a fence destroyed since admission gives REVOKED
(R137). -/
def coreSignal (id : Nat) (r : Req) (d : FenceData) (sc : Nat) (s : State) : State :=
  if d.chip.val ≠ s.spl.chip then fenceRemote id r true d sc s
  else match checkHandle d.handle 4 r.fn r.env s with
  | .fail _ => fenceAnswer r .revoked 0 (unpark id s)
  | .slot n =>
    let (c, e) := coreOf r
    let ((st, v), s) := fenceSignal n d.value ⟨s.spl.chip, c, e, sc⟩ r.ident s
    fenceAnswer r st v (unpark id s)

/-- A core's wait reaches the home (R239, R240), as for a signal. -/
def coreWait (id : Nat) (r : Req) (d : FenceData) (sc : Nat) (s : State) : State :=
  if d.chip.val ≠ s.spl.chip then fenceRemote id r false d sc s
  else match checkHandle d.handle 4 r.fn r.env s with
  | .fail _ => fenceAnswer r .revoked 0 (unpark id s)
  | .slot n =>
    let (c, e) := coreOf r
    let left := if d.timeout = 0 then none else some d.timeout.toNat
    let w : Wait := { fence := n, target := d.value, who := .vc0 id, scope := sc, ctx := r.ident.ctx, ident := r.ident, env := r.env, core := c,
                      engine := e, left := left, registered := true }
    fenceWait w (park id r .accepting s)

/-- A release at scope 1 in relaxed mode widens the entries of its engine's writes to the whole token (Table 9-2). -/
def widen (r : Req) (s : State) : State :=
  match r.who with
  | .core _ _ e _ tok =>
    let mark (_ : Nat) (x : Req) : Req := match x.who with
      | .core _ _ e' _ t => if t == tok && e' == e && writesNow x then { x with wide := true } else x
      | _ => x
    modQue (fun q => { q with reqs := mmap mark q.reqs }) s
  | _ => s

/-- A mover has carried out a piece (Table 17-1). -/
def moverDone (r : Req) (s : State) : State := count 9 0 (r.mover.getD 0) (moverBytes r.op) s

/-- A core's allocation ends: handle in [63:0], address in [120:64] (R143). -/
def coreAllocEnd (r : Req) (i : Nat) (s : State) : State :=
  match r.who, mget s.que.objs i with
  | .core cf core engine tag _, some o =>
    cfRespond cf core engine tag .ok (toBytes 8 (mkHandle 3 i (slotGen s.que.objSlots i)).toNat ++ toBytes 8 (objVa o s)) s
  | _, _ => coreAnswer r .revoked s

/-- A piece of the ZERO of a core's allocation takes the request's place, or the allocation ends (R142). -/
def coreAllocGo (id : Nat) (r : Req) (i : Nat) (piece : Option ReqOp) (s : State) : State :=
  match piece with
  | some op => kick id (park id { r with op := op, paid := [], asked := false, mover := none } .translate s)
  | none => coreAllocEnd r i s

/-- A core's allocator call (R143). -/
def coreAlloc (id : Nat) (r : Req) (size al fl : Nat) (s : State) : State :=
  let ((st, i), s) := allocObj r.ident.ctx r.env size al fl false s
  if st != .ok then coreAnswer r st s
  else coreAllocGo id r i (if fl % 2 = 1 then zeroPiece r.ident.cls i 0 s else none) s

/-- A core's FREE: the object becomes a zombie, then the response goes (R138, R143); one freed since admission gives
REVOKED. -/
def coreFree (r : Req) (object : W64) (s : State) : State :=
  match checkHandle object 3 r.fn r.env s with
  | .fail _ => coreAnswer r .revoked s
  | .slot i => match mget s.que.objs i with
    | some o => if o.isPt then coreAnswer r .invalid s else coreAnswer r .ok (zombify i s)
    | none => coreAnswer r .staleHandle s

/-- Elements of a contribution, packed under R300. -/
def packedElems (w n : Nat) (e : BitVec 384) : List Nat := (List.range n).map fun i => e.toNat / 2 ^ (w * i) % 2 ^ w

/-- A core's contribution: elements of the header's format; what does not fit its field is INVALID (R322). -/
def coreReduce (r : Req) (id chunk first n fmt : Nat) (e : BitVec 384) (s : State) : State :=
  let w := match fmtOf fmt with
    | some f => fmtWidth f
    | none => 0
  let (st, s) := if w = 0 || 384 < n * w then (Status.invalid, mismatch false s)
    else coreContribute r.env id chunk first fmt (packedElems w n e) s
  coreAnswer r st s

/-- A core's request has ended (R67). -/
def finishCore (id : Nat) (r : Req) (st : Status) (s : State) : State :=
  let flushed (sc : Nat) (go : State → State) (s : State) : State :=
    match r.ident.ctx with
    | some c =>
      if 4 ≤ sc then
        let (need, s) := releaseFlush c s
        if need.isEmpty then go s else publish need (.vc0 id) (park id r .flushing s)
      else go s
    | none => go s
  if st != .ok then (if isBarrier r.op then (match r.op with
      | .fenceSignal .. => fenceAnswer r st 0 s
      | .fenceWait .. => fenceAnswer r st 0 s
      | _ => coreAnswer r st s) else coreAnswer r st s)
  else match r.op with
  | .release sc => flushed sc (coreAnswer r .ok) (if sc = 1 && r.relaxed then widen r s else s)
  | .fenceSignal d sc =>
    let sc := fenceScope d sc s
    flushed sc (coreSignal id r d sc) (if sc = 1 && r.relaxed then widen r s else s)
  | .fenceWait d sc => coreWait id r d sc s
  | .alloc size al fl => coreAlloc id r size al fl s
  | .zero i pa n left => coreAllocGo id r i (zeroNext r.ident.cls i pa n left s) (moverDone r s)
  | .free h => coreFree r h s
  | .reduce rid k first n fmt e => coreReduce r rid k first n fmt e s
  | _ => coreAnswer r st s

/-! ### Ends of requests -/

/-- All that a transfer has read, from its first piece on. -/
def wholeData (r : Req) : List Byte := r.before ++ cellsGet r.data 0 (readLen r)

/-- The last piece of a command's transfer has ended, or a piece has failed. -/
def finishLast (c : Nat) (k : Cmd) (r : Req) (st : Status) (s : State) : State :=
  match r.op with
  | .copy _ _ n =>
    if st == .ok || (st == .poison && r.poisoned && r.phase == 1) then
      nextPiece c (modCmd c (fun k => { k with done := k.done + n, carried := k.carried || r.poisoned }) (moverDone r s))
    else endCmd c st k.done 0 (moverDone r s)
  | .fill _ n _ _ =>
    if st == .ok then nextPiece c (modCmd c (fun k => { k with done := k.done + n }) (moverDone r s))
    else endCmd c st k.done 0 (moverDone r s)
  | .zero i pa n left =>
    if st == .ok then allocGo c i k (zeroNext k.hdr.cls.val i pa n left s) (moverDone r s) else endCmd c st 0 0 s
  | .contribute i _ _ => contributed c i (wholeData r) st s
  | .result i _ _ _ => resultWritten c i st s
  | .load _ _ =>
    let d := wholeData r
    match k.body with
    | .reduce .. =>
      if st != .ok then endCmd c st 0 0 s
      else if k.step = 1 then
        let kids := planKids d
        if kids = 0 || 32 < kids then
          (if 32 < kids then endCmd c .invalid 0 0 s else startReduce c (planOf d []) s)
        else
          let va := ((readSpans r.op).headD (0, 0)).1
          cmdReq c k (.load va (64 + 2 * kids)) 0 (modCmd c (fun k => { k with step := 2 }) s)
      else startReduce c (planOf (d.take 64) (d.drop 64)) s
    | _ => if st == .ok then convertStep c d s else endCmd c st k.next k.res1 s
  | .store _ _ =>
    match k.body with
    | .inlineWrite _ len _ _ => endCmd c st (if st == .ok then len.toNat else 0) 0 s
    | _ => if st == .ok then convertStep c [] s else endCmd c st k.next k.res1 s
  | .storeBits .. => if st == .ok then convertStep c [] s else endCmd c st k.next k.res1 s
  | _ => s

/-- A request of a command has ended: the next piece of its transfer goes out (R36). -/
def finishCmd (c : Nat) (r : Req) (st : Status) (s : State) : State :=
  match mget s.que.cmds c with
  | none => s
  | some k =>
    match st, r.behind with
    | .ok, op :: l =>
      newReq { who := r.who, fn := r.fn, env := r.env, ident := r.ident, op := op, hint := r.hint,
               dlLeft := k.hdr.deadline.toNat, behind := l, before := wholeData r } s
    | _, _ => finishLast c k r st s

/-- A host-window access has ended (R184, R185): a read completes with its data, or with EP where it failed; an AtomicOp
with the old value. Reads that have already completed late are discarded. Poisoned data, and what the end of a context drops,
count as no failing translation (Table 8-8). -/
def finishWindow (id p fn tag : Nat) (answered : Bool) (r : Req) (st : Status) (s : State) : State :=
  let s := if [Status.fault, .rights, .revoked, .invalid].contains st
    then modFunc fn (fun f => { f with winFaults := satAdd 16 f.winFaults 1 }) s else s
  if !answered then s
  else match s.ep.winReads.find? fun w => w.id == id with
  | none => s
  | some w =>
    let s := { s with ep := { s.ep with winReads := s.ep.winReads.filter fun w => w.id != id } }
    let n := match r.op with
      | .load _ n => n
      | .atomic _ o => o.width
      | _ => 0
    tell p (.cpl fn tag (if st == .ok then cellsGet r.data 0 n else List.replicate n 0) (st != .ok) w.attr) s

/-- A request of a peer has ended (R156, R348). -/
def finishRemote (chip eseq cls : Nat) (r : Req) (st : Status) (s : State) : State :=
  match r.op with
  | .paRead _ n => fabPut chip cls r.env (.rdata eseq (cellsGet r.data 0 n) st) s
  | .paAtomic _ o =>
    fabTaken chip eseq (fabPut chip cls r.env
      (.aresp eseq (if st == .ok && !o.noret && o.aop ≠ 13 then some (ofBytes (cellsGet r.data 0 16)) else none) st) s)
  | _ => fabTaken chip eseq s

/-- A non-caching CXL.mem access has ended (R271). -/
def finishCxl (p tag : Nat) (r : Req) (st : Status) (s : State) : State :=
  match r.op with
  | .paRead _ n => tell p (.cxlRsp tag (if st == .ok then 0x28 else 0xFF) (cellsGet r.data 0 n)) s
  | _ => tell p (.cxlRsp tag 0x22 []) s

/-- Status of a Refused message (Table 11-4). -/
def refusedCode : Status → Nat
  | .fault => 1 | .rights => 2 | .revoked => 3 | _ => 5

/-- An agent's request has been translated (R261): it reaches its home, or is refused. 6 is NOT_COHERENT. -/
def cohTranslated (kind a txn pa src : Nat) (fn : Nat) (st : Status) (s : State) : State :=
  let no (c : Nat) : State := cohSend a 5 0x24 txn pa c [] false s
  let r : CohReq := { kind := if kind = 0 then .rdShared else if kind = 1 then .rdOwn else .upgrade, agent := a, txn := txn }
  if agentSt a s != .active then s
  else if st != .ok then no (refusedCode st)
  else if src = 0 then (if inRange (paLocal pa) s then coherentArrive (paLocal pa / 64) r s else no 6)
  else if src = 1 then (if hasCache fn s then coherentArrive (hostKey pa) r s else no 6)
  else no 6

/-- Change a function's bias action. -/
def modAct (fn : Nat) (f : BiasAct → BiasAct) (s : State) : State :=
  modCoh (fun c => { c with acts := mupd c.acts fn {} f }) s

/-- A bias action takes its next page, or ends with OK (R258). -/
def biasNext (fn : Nat) (s : State) : State :=
  let a := mgetD s.coh.acts fn {}
  if !a.busy then s
  else if a.left = 0 then modAct fn (fun a => { a with busy := false, status := .ok }) s
  else newReq { who := .block, fn := fn, env := (func fn s).env, ident := { ctx := some a.ctx }, op := .bias a.va 0 0 } s

/-- A page of a bias action has changed. -/
def biasStep (fn : Nat) (s : State) : State :=
  biasNext fn (modAct fn (fun a => { a with done := a.done + 1, left := a.left - 1, va := a.va + 4096 }) s)

/-- A page of a bias action has been translated (R257, R258). -/
def biasTranslated (fn pa src : Nat) (st : Status) (s : State) : State :=
  let a := mgetD s.coh.acts fn {}
  let l := paLocal pa
  let fails (st : Status) : State := modAct fn (fun a => { a with busy := false, status := st }) s
  if st != .ok then fails st
  else if src ≠ 0 || !inRange l s then fails .invalid
  else if a.shared then
    biasStep fn (modCoh (fun c => { c with shared := insNat (l / 4096) c.shared }) s)
  else if !sharedAt l s then biasStep fn s
  else if s.coh.flips.any fun f => f.page == l / 4096 then biasStep fn s
  else startFlip fn (l / 4096) s

/-- A request of the block itself has ended. -/
def finishBlock (r : Req) (st : Status) (s : State) : State :=
  match r.op with
  | .mirror n va _ => mirrorEnd n va st s
  | .coh k a t _ pa src => cohTranslated k a t pa src r.fn st s
  | .bias _ pa src => biasTranslated r.fn pa src st s
  | .record c _ _ =>
    match mget s.que.cmds c with
    | none => s
    | some k =>
      let q := cmdQueue k s
      let s := dropCmd c s
      if st == .ok then
        match q with
        | some q => if k.hdr.irq then fire q.fn q.vector s else s
        | none => s
      else queueError k.queue .recordFailed s
  | .ptFetch qi num _ _ => fetchEnd qi num r st s
  | _ => if r.mover.isSome then moverDone r s else s

/-- A posted write of a host port outside the host window has ended (R189, R191). -/
def finishInbound (p : Nat) (r : Req) (st : Status) (s : State) : State :=
  match r.op with
  | .place _ _ _ => if st == .ok then s else plcRefused p r.env s
  | op => landed p op s

/-- One request that has ended, by its maker. -/
def finishOne (e : Nat × Req × Status) (s : State) : State :=
  let (id, r, st) := e
  match r.who with
  | .core .. => finishCore id r st s
  | .cmd c => finishCmd c r st s
  | .window p fn tag read => finishWindow id p fn tag read r st s
  | .remote chip eseq cls => finishRemote chip eseq cls r st s
  | .cxl p tag => finishCxl p tag r st s
  | .inbound p => finishInbound p r st s
  | .block => finishBlock r st s

/-! ### Publications and waits -/

/-- A FENCE_SIGNAL command applies its signal once its release is complete (R229, R234). -/
def cmdSignal (id : Nat) (s : State) : State :=
  match mget s.que.cmds id with
  | none => s
  | some c => match c.body with
    | .fenceSignal f v =>
      let h := handleOf f
      let sig : Signaller := ⟨s.spl.chip, 0x1FF, 0, c.hdr.scope.val⟩
      let ((st, x), s) := if slotGen s.que.fenSlots h.index = h.gen then fenceSignal h.index v sig (cmdIdent c s) s
        else ((Status.revoked, 0), s)
      endCmd id st x.toNat 0 s
    | _ => s

/-- Carry out a publication. -/
def pubAct (a : PubAct) (s : State) : State :=
  match a with
  | .record c => signalThenRecord c s
  | .signal c => cmdSignal c s
  | .fire fn v => sendMsix fn v s
  | .auditTail n => auditTailTo n s
  | .mirror n => mirrorDone n .ok s
  | .vc0 id =>
    match mget s.que.reqs id with
    | none => s
    | some r => match r.op with
      | .release _ => coreAnswer r .ok (unpark id s)
      | .fenceSignal d sc => coreSignal id r d (fenceScope d sc s) s
      | _ => s

/-- A wait that has ended is reported to its maker. -/
def waitEnd (e : WaitWho × Status × W64) (s : State) : State :=
  match e.1 with
  | .cmd id => endCmd id e.2.1 e.2.2.toNat 0 s
  | .vc0 id => match mget s.que.reqs id with
    | some r => fenceAnswer r e.2.1 e.2.2 (unpark id s)
    | none => s
  | .remote chip eseq env cls => fabPut chip cls (some env) (.fenceDone eseq e.2.2 e.2.1) s

/-- Publications whose flushes have completed. -/
def pubRound (s : State) : State :=
  let go := s.ep.pubs.filter fun p => needMet p.need s
  each go (fun p s => pubAct p.act s) { s with ep := { s.ep with pubs := s.ep.pubs.filter fun p => !needMet p.need s } }

/-- Requests held behind others of their token, where they may now go on. -/
def heldRound (s : State) : State :=
  each ((s.que.reqs.filter fun e => e.2.st == .held && mayStart e.1 e.2 s).map (·.1)) kick s

/-- A flush is outstanding at a port. -/
def flushing (p : Nat) (s : State) : Bool := (hport p s).nps.any fun n => match n.purpose with
  | .flush _ => true
  | _ => false

/-- Something waits for a flush of a port that no flush has covered yet. -/
def flushNeeded (p : Nat) (s : State) : Bool :=
  let c := (hport p s).covered
  (s.ep.pubs.any fun u => u.need.any fun n => n.1 == p && c < n.2) || (s.ep.moves.any fun m => m.src == p && c < m.need)
    || (s.tr.invals.any fun v => v.fl.any fun n => n.1 == p && c < n.2) || (s.ep.replays.any fun r => r.port == p && c < r.coverSeq)
    || s.env.envs.any fun e => (e.2.pauseNeed.getD []).any fun n => n.1 == p && c < n.2

/-- A flush goes out on a port without one outstanding, where its replay buffer holds at least so many bytes of entries that
no flush covers, or, at an edge, where anything else waits for one (R202, R207). -/
def flushDue (edge : Bool) (p : Nat) (s : State) : State :=
  let h := hport p s
  if h.st != .up || flushing p s then s
  else
    let l := h.replay.filter fun e => h.upSeq ≤ e.seq
    let bytes := (l.map (·.bytes)).foldl (· + ·) 0
    if (edge && (!l.isEmpty || flushNeeded p s)) || 524288 ≤ bytes then
      match l.getLast? with
      | some e => flushWork p e.fn s
      | none => flushPort p 0 (regRaw rDPA_FLUSH_ADDR s).toNat s
    else s

/-- A read that an invalidation waits for is outstanding, on a port or in a replay (R169). -/
def readOut (x : Nat × Nat) (s : State) : Bool :=
  let is (n : NpReq) : Bool := n.purpose == .access x.1 x.2
  (List.range 4).any (fun q => (hport q s).nps.any is) || s.ep.replays.any fun r => r.nps.any is

/-- Step 4 of an invalidation (R169): with its reads done, what flushes must cover on the other ports of the host group that
carried writes under the PASID, or whose replay carries them. -/
def invalNeed (v : Inval) (s : State) : List (Nat × Nat) :=
  let mine (e : RepEntry) : Bool := match e.msg with
    | .write _ (some x) _ _ => x == v.pasid
    | .writeEp _ (some x) _ _ => x == v.pasid
    | _ => false
  let ports := (fnGroup v.fn s).filter fun q => q != v.port && (hport q s).replay.any fun e => mine e && (hport q s).covered ≤ e.seq
  ports.map (fun q => if (hport q s).st == .up then (q, (hport q s).seq) else (lostKey q v.fn, 1))
    ++ (s.ep.replays.filter fun r => r.port != v.port && r.entries.any mine).map fun r => (lostKey r.lost r.fn, 1)

/-- Invalidations whose reads are done send their flushes. -/
def invalRound (s : State) : State :=
  let due := s.tr.invals.filter fun v => !v.flushed && !v.np.any fun x => readOut x s
  each due (fun v s =>
    let need := invalNeed v s
    let s := each need (fun n s => if n.1 < 4 then flushTo n.1 v.fn n.2 s else s) s
    modTr (fun t => { t with invals := t.invals.map fun x =>
      if x.port == v.port && x.itag == v.itag then { x with flushed := true, fl := need } else x }) s) s

/-- Nothing is left that follows from what has happened. -/
def settled (s : State) : Bool :=
  s.que.finished.isEmpty && s.que.fenceEnds.isEmpty && s.tr.ready.isEmpty && s.coh.ready.isEmpty && s.fab.outbox.isEmpty
    && !(s.ep.pubs.any fun p => needMet p.need s) && !(s.tr.invals.any fun v => !v.flushed && !v.np.any fun x => readOut x s)

/-- One round of consequences. -/
def settleRound (s : State) : State :=
  let s := drainReady 4096 s
  let f := s.que.finished
  let s := each f finishOne (modQue (fun q => { q with finished := [] }) s)
  let w := s.que.fenceEnds
  let s := each w waitEnd (modQue (fun q => { q with fenceEnds := [] }) s)
  let s := pubRound (invalRound s)
  let s := fabOut 4096 s
  let s := heldRound (listRound s)
  advanceAll (each (List.range 4) (flushDue false) s)

/-- Rounds until nothing follows any more. What the bound leaves over follows with the next command. -/
def settleN : Nat → State → State
  | 0, s => s
  | n + 1, s =>
    let s := settleRound s
    if settled s then s else settleN n s

/-- Let every consequence take place (R179, R229, R249). -/
def settle (s : State) : State := settleN 1024 s

end Sys2Proof.Machine
end

