-- ==== Sys2Proof/Machine/Vc0.lean ====
section
/-! DEFINITION. Requests of cores on VC0 and VC1 (R67, R173 to R176, R215 to R225, R239, R283, R322), and the other
upstream messages of a core fabric port (R64 to R66, R140, R362, R363, R393). -/
namespace Sys2Proof.Machine

/-- A command with all its consequences. -/
def answerAll (s : State) : Res := answer (settle s)

/-- Keep a command that arrives while the chip is frozen; it is delivered in its order at the resume (R395, R399). -/
def holdCmd (c : Instr) (s : State) : State := { s with sluiceHeld := s.sluiceHeld ++ [c] }

/-- Do a command now, or keep it while the chip is frozen. -/
def orHold (c : Instr) (eff : State → State) (s : State) : Res :=
  answerAll (if frozen s then holdCmd c s else eff s)

/-! ### Admission of a VC0 request -/

/-- Physical core of a request. -/
def vc0Core (p : CF) (h : Vc0Hdr) : Nat := 8 * p.val + h.core.val

/-- The token of a request, while it is dispatched to the core that the header names (R66) and has not been revoked
(Table 6-11). -/
def vc0Token (p : CF) (h : Vc0Hdr) (s : State) : Option Token :=
  match mget s.que.tokens h.token.toNat with
  | some t => if t.core = vc0Core p h && !t.aborted then some t else none
  | none => none

/-- Refuse a request: one VC1 response, which for a fence operation carries the status in its data (R67, R239). -/
def vc0Refuse (fence : Bool) (p : CF) (h : Vc0Hdr) (st : Status) (s : State) : State :=
  if fence then
    cfReply p.val h.core.val h.engine.val h.tag.toNat st (toBytes 8 0 ++ toBytes 2 (statusCode st)) s
  else cfRespond p.val h.core.val h.engine.val h.tag.toNat st [] s

/-- A request without a dispatched token is counted against the core's envelope (R66). -/
def countRefused (e : Option Nat) (s : State) : State :=
  match e with
  | some e => modEnv e (fun v => { v with refused := v.refused + 1 }) s
  | none => s

/-- Admission of a VC0 request (R66, R67): its token gives it its identity, its credit returns unless its core's wait
list is full (R217); `bad` says that a reserved field or a check of its own fields makes it INVALID, as a reserved
operation code does. -/
def vc0Admit (fence : Bool) (p : CF) (h : Vc0Hdr) (bad : Bool) (go : Token → State → State) (s : State) : State :=
  let g := cfGrant p.val 0 1 s
  if h.badOp.isSome then vc0Refuse false p h .invalid g
  else if bad || h.rsvd != 0 then vc0Refuse fence p h .invalid g
  else match vc0Token p h s with
  | none => vc0Refuse fence p h .invalid (countRefused (agentEnv (vc0Core p h) g) g)
  | some t => go t (if listFull (vc0Core p h) s then s else g)

/-- Identity of a request: that of its token, with the deadline of its header (R15, R37). -/
def vc0Ident (t : Token) (h : Vc0Hdr) : Ident := { t.ident with deadline := h.deadline.toNat }

/-- The request of a core, with its range entry or its place in the wait list (R217). -/
def vc0Req (p : CF) (h : Vc0Hdr) (t : Token) (op : ReqOp) (s : State) : Req :=
  let fn := match mget s.que.ctxs t.ctx with
    | some x => x.fn
    | none => 0
  takeEntry { who := .core p.val h.core.val h.engine.val h.tag.toNat h.token.toNat
              fn := fn, env := ctxEnv t.ctx s, ident := vc0Ident t h, op := op, hint := h.hint.val
              relaxed := t.relaxed, dlLeft := h.deadline.toNat } s

/-- Enter a core's request. -/
def vc0Enter (p : CF) (h : Vc0Hdr) (op : ReqOp) (t : Token) (s : State) : State := newReq (vc0Req p h t op s) s

/-- The status of the check of a handle that a core's request names (R123); none where it passes. -/
def vc0Handle (h : W64) (ty : Nat) (t : Token) (s : State) : Option Status :=
  let fn := match mget s.que.ctxs t.ctx with
    | some x => x.fn
    | none => 0
  match checkHandle h ty fn (ctxEnv t.ctx s) s with
  | .slot _ => none
  | .fail st => some st

/-- Enter a core's request that names an object of this chip, once its handle has passed (R123). -/
def vc0Named (fence : Bool) (p : CF) (h : Vc0Hdr) (op : ReqOp) (obj : Option (W64 × Nat)) (t : Token) (s : State) : State :=
  match obj.bind fun x => vc0Handle x.1 x.2 t s with
  | some st => vc0Refuse fence p h st s
  | none => vc0Enter p h op t s

/-- The fence that a request names at this chip; the home of another checks its own (R240). -/
def ownFence (d : FenceData) (s : State) : Option (W64 × Nat) := if d.chip.val = s.spl.chip then some (d.handle, 4) else none

/-! ### LOAD, STORE -/

/-- LOAD's effect. -/
def loadEffect (p : CF) (h : Vc0Hdr) (s : State) : State :=
  vc0Admit false p h false (vc0Enter p h (.load h.addr.toNat (h.len.toNat + 1))) s

/-- LOAD (R67): translated, checked and answered with LEN + 1 bytes of data. -/
def execLoad (p : CF) (h : Vc0Hdr) (s : State) : Res := orHold (.load p h) (loadEffect p h) s

/-- The first n bytes of a data field, zero where the field is shorter. -/
def dataField (n : Nat) (d : List Byte) : List Byte := (d ++ List.replicate n 0).take n

/-- STORE's effect. -/
def storeEffect (p : CF) (h : Vc0Hdr) (data : List Byte) (s : State) : State :=
  vc0Admit false p h false (vc0Enter p h (.store h.addr.toNat (dataField (h.len.toNat + 1) data))) s

/-- STORE (R67): LEN + 1 bytes of the data field, accepted at the ordering point. -/
def execStore (p : CF) (h : Vc0Hdr) (data : List Byte) (s : State) : Res :=
  orHold (.store p h data) (storeEffect p h data) s

/-! ### Tiles -/

/-- Bytes of a tile. -/
def tileBytes (t : Tile) : Nat := t.rows.toNat * t.rowBytes.toNat

/-- Tiles open at a port, read and write together. -/
def openTiles (p : Nat) (s : State) : Nat :=
  (s.que.reqs.filter fun e => match e.2.who, e.2.op with
    | .core cf _ _ _ _, .tileRead _ => cf == p
    | .core cf _ _ _ _, .tileWrite _ => cf == p
    | _, _ => false).length

/-- The checks of R173. -/
def tileOk (p : Nat) (t : Tile) (s : State) : Bool :=
  t.rows != 0 && t.rowBytes != 0 && tileBytes t ≤ 65536
    && t.base.toNat % 2 ^ 56 + (t.rows.toNat - 1) * t.pitch.toNat + t.rowBytes.toNat ≤ 2 ^ 56
    && openTiles p s < 4

/-- TILE_READ's effect. -/
def tileReadEffect (p : CF) (h : Vc0Hdr) (t : Tile) (s : State) : State :=
  vc0Admit false p h (!t.rsvdZero || !tileOk p.val t s) (vc0Enter p h (.tileRead t)) s

/-- TILE_READ (R173, R176). -/
def execTileRead (p : CF) (h : Vc0Hdr) (t : Tile) (s : State) : Res := orHold (.tileRead p h t) (tileReadEffect p h t) s

/-- A write tile takes a slot and awaits its data. -/
def tileOpen (p : CF) (h : Vc0Hdr) (t : Tile) (k : Token) (s : State) : State :=
  let r := vc0Req p h k (.tileWrite t) s
  let id := s.que.nextReq
  modQue (fun q => { q with
    nextReq := id + 1, reqs := mset q.reqs id { r with seq := id, st := .reading, expect := tileBytes t } }) s

/-- TILE_WRITE's effect. -/
def tileWriteEffect (p : CF) (h : Vc0Hdr) (t : Tile) (s : State) : State :=
  vc0Admit false p h (!t.rsvdZero || !tileOk p.val t s) (tileOpen p h t) s

/-- TILE_WRITE (R173, R175): the tile is staged as its data arrives. -/
def execTileWrite (p : CF) (h : Vc0Hdr) (t : Tile) (s : State) : Res :=
  orHold (.tileWrite p h t) (tileWriteEffect p h t) s

/-- The open write tile that a data flit belongs to. -/
def tileOf (p core engine tag : Nat) (s : State) : Option (Nat × Req) :=
  s.que.reqs.find? fun e => e.2.st == .reading && (match e.2.who, e.2.op with
    | .core cf c g t _, .tileWrite _ => cf == p && c == core && g == engine && t == tag
    | _, _ => false)

/-- TILE_WRITE_DATA's effect: the flit is staged at the next bytes of its tile; the last one lets the tile translate.
Data under no open tile is discarded (R173). -/
def tileDataEffect (p : CF) (core : Fin 8) (engine : Fin 4) (tag : BitVec 9) (data : List Byte) (s : State) : State :=
  let s := cfGrant p.val 1 1 s
  match tileOf p.val core.val engine.val tag.toNat s with
  | none => s
  | some (id, r) => match r.op with
    | .tileWrite t =>
      let n := min 64 r.expect
      let put (r : Req) : Req :=
        { r with data := cellsSet r.data (tileBytes t - r.expect) (dataField n data), expect := r.expect - n }
      if n = r.expect then kick id (modReq id (fun r => { put r with st := .translate }) s) else modReq id put s
    | _ => s

/-- TILE_WRITE_DATA (R173): a data flit of at most 64 bytes under the tile's tag. -/
def execTileWriteData (p : CF) (core : Fin 8) (engine : Fin 4) (tag : BitVec 9) (data : List Byte) (s : State) : Res :=
  orHold (.tileWriteData p core engine tag data) (tileDataEffect p core engine tag data) s

/-! ### Atomics and order -/

/-- The atomic operation of a request: width LEN + 1, format FMT, NORET 1 for XADD (R283, R326). -/
def vc0Atom (h : Vc0Hdr) (op : BitVec 6) (noret : Bool) (operand compare : BitVec 128) : AtomOp :=
  ⟨op.toNat, h.len.toNat + 1, h.fmt.toNat, operand, compare, noret || op == 13⟩

/-- ATOMIC's effect. -/
def atomicEffect (p : CF) (h : Vc0Hdr) (op : BitVec 6) (bit6 noret : Bool) (operand compare : BitVec 128) (s : State) :
    State :=
  let o := vc0Atom h op noret operand compare
  vc0Admit false p h (bit6 || !atomOk o h.addr.toNat) (vc0Enter p h (.atomic h.addr.toNat o)) s

/-- ATOMIC (R283, R284): performed at the home; an operation, width, format or alignment outside Table 12-2 is
INVALID. -/
def execAtomic (p : CF) (h : Vc0Hdr) (op : BitVec 6) (bit6 noret : Bool) (operand compare : BitVec 128) (s : State) :
    Res :=
  orHold (.atomic p h op bit6 noret operand compare) (atomicEffect p h op bit6 noret operand compare) s

/-- RELEASE's effect. -/
def releaseEffect (p : CF) (h : Vc0Hdr) (s : State) : State :=
  vc0Admit false p h (4 < h.scope.val) (vc0Enter p h (.release h.scope.val)) s

/-- RELEASE (R224). -/
def execRelease (p : CF) (h : Vc0Hdr) (s : State) : Res := orHold (.release p h) (releaseEffect p h) s

/-- ACQUIRE's effect. -/
def acquireEffect (p : CF) (h : Vc0Hdr) (s : State) : State :=
  vc0Admit false p h (4 < h.scope.val) (vc0Enter p h (.acquire h.scope.val)) s

/-- ACQUIRE (R225). -/
def execAcquire (p : CF) (h : Vc0Hdr) (s : State) : Res := orHold (.acquire p h) (acquireEffect p h) s

/-! ### Fences -/

/-- FENCE_SIGNAL's effect. -/
def coreSignalEffect (p : CF) (h : Vc0Hdr) (d : FenceData) (s : State) : State :=
  vc0Admit true p h (4 < h.scope.val || !d.rsvdZero) (vc0Named true p h (.fenceSignal d h.scope.val) (ownFence d s)) s

/-- VC0_FENCE_SIGNAL (R234, R239, R240). -/
def execVc0FenceSignal (p : CF) (h : Vc0Hdr) (d : FenceData) (s : State) : Res :=
  orHold (.vc0FenceSignal p h d) (coreSignalEffect p h d) s

/-- FENCE_WAIT's effect. -/
def coreWaitEffect (p : CF) (h : Vc0Hdr) (d : FenceData) (s : State) : State :=
  vc0Admit true p h (4 < h.scope.val || !d.rsvdZero) (vc0Named true p h (.fenceWait d h.scope.val) (ownFence d s)) s

/-- VC0_FENCE_WAIT (R235, R239, R240). -/
def execVc0FenceWait (p : CF) (h : Vc0Hdr) (d : FenceData) (s : State) : Res :=
  orHold (.vc0FenceWait p h d) (coreWaitEffect p h d) s

/-! ### Allocator calls -/

/-- ALLOC's effect: ALLOC_LOG2 and flags are checked as the command's are (R12, R141). -/
def vc0AllocEffect (p : CF) (h : Vc0Hdr) (size : W64) (al fl : Byte) (s : State) : State :=
  vc0Admit false p h (fl.toNat / 32 ≠ 0) (vc0Enter p h (.alloc size.toNat al.toNat fl.toNat)) s

/-- VC0_ALLOC (R141, R143). -/
def execVc0Alloc (p : CF) (h : Vc0Hdr) (size : W64) (al fl : Byte) (s : State) : Res :=
  orHold (.vc0Alloc p h size al fl) (vc0AllocEffect p h size al fl) s

/-- FREE's effect. -/
def vc0FreeEffect (p : CF) (h : Vc0Hdr) (object : W64) (s : State) : State :=
  vc0Admit false p h false (vc0Named false p h (.free object) (some (object, 3))) s

/-- VC0_FREE (R138). -/
def execVc0Free (p : CF) (h : Vc0Hdr) (object : W64) (s : State) : Res :=
  orHold (.vc0Free p h object) (vc0FreeEffect p h object) s

/-! ### Contributions -/

/-- REDUCE's effect. -/
def vc0ReduceEffect (p : CF) (h : Vc0Hdr) (id chunk : W32) (first : Fin 1024) (n : Fin 64) (rsvdZero : Bool)
    (e : BitVec 384) (s : State) : State :=
  vc0Admit false p h (!rsvdZero) (vc0Enter p h (.reduce id.toNat chunk.toNat first.val (n.val + 1) h.fmt.toNat e)) s

/-- VC0_REDUCE (R322): Table 10 of chapter 13; N is the number of elements minus 1. -/
def execVc0Reduce (p : CF) (h : Vc0Hdr) (id chunk : W32) (first : Fin 1024) (n : Fin 64) (rsvdZero : Bool)
    (e : BitVec 384) (s : State) : Res :=
  orHold (.vc0Reduce p h id chunk first n rsvdZero e) (vc0ReduceEffect p h id chunk first n rsvdZero e) s

/-! ### Completion reports -/

/-- A token is retired; its number is free for a later dispatch. -/
def dropToken (k : Nat) (s : State) : State :=
  modQue (fun q => { q with tokens := mdel q.tokens k, tokSlots := freeSlot k q.tokSlots }) s

/-- A token's work on its core is over: the command ends when every token has reported (R66). -/
def tokenDone (k : Nat) (t : Token) (s : State) : State :=
  let s := dropToken k s
  match mget s.que.cmds t.cmd with
  | none => s
  | some c =>
    if !c.tokens.contains k then s
    else
      let left := c.tokens.filter (· != k)
      let s := modCmd t.cmd (fun c => { c with tokens := left }) s
      if left.isEmpty then endCmd t.cmd c.status c.res0 0 s else s

/-- The core that takes over a yielded token (R363): the one that the leaving core's index now names, or another core of
the envelope. -/
def yieldTo (t : Token) (s : State) : Option Nat × State :=
  match (ctxEnv t.ctx s).bind fun e => mget s.env.envs e with
  | none => (none, s)
  | some v =>
    let now := match mget s.env.leaving t.core with
      | some (_, _, i) => v.cores[i]?
      | none => none
    match now with
    | some k => (some k, s)
    | none => choose v.cores s

/-- A yielded token's command is dispatched again with RESUME_ARG under a new token (R363). -/
def redispatch (k : Nat) (t : Token) (arg : W64) (s : State) : State :=
  let (dest, s) := yieldTo t s
  match dest, mget s.que.cmds t.cmd with
  | some core, some c => match c.body with
    | .dispatch en ar n _ items _ =>
      match takeToken { t with core := core } (dropToken k s) with
      | (some j, s) =>
        let swap (l : List Nat) : List Nat := l.map fun x => if x = k then j else x
        cfSend (core / 8) 2 (.dispatch (core % 8) j en ar items arg t.ix n.toNat)
          (modCmd t.cmd (fun c => { c with tokens := swap c.tokens }) s)
      | (none, s) => s
    | _ => dropToken k s
  | _, _ => tokenDone k t s

/-- Report's effect: a completion ends the token; YIELD moves it to another core. -/
def reportEffect (p : CF) (core : Fin 8) (token : BitVec 16) (resume : Option W64) (s : State) : State :=
  let s := cfGrant p.val 2 1 s
  match mget s.que.tokens token.toNat with
  | none => s
  | some t =>
    if t.core ≠ 8 * p.val + core.val then s
    else if t.aborted then dropToken token.toNat s
    else match resume with
    | none => tokenDone token.toNat t s
    | some a => redispatch token.toNat t a s

/-- COMPLETION_REPORT (R66, R363): `resume` is the RESUME_ARG of a YIELD. -/
def execCompletionReport (p : CF) (core : Fin 8) (token : BitVec 16) (resume : Option W64) (s : State) : Res :=
  answerAll (reportEffect p core token resume s)

/-- ABORT_TIMEOUT (R140): 150 ticks after an abort dispatch a token that has not reported is retired, its core is in error,
and ABORT_OVERDUE is set (Table 6-15). -/
def abortTimeout (k : Nat) (s : State) : State :=
  match mget s.que.tokens k with
  | none => s
  | some t =>
    if t.aborted && 150 ≤ t.abortTicks then
      dropToken k (setEvent rQUE_EVENT 3 (raise (512 + t.core) .coreError (some t.ctx) (ctxEnv t.ctx s) 0 s))
    else s

/-! ### Core errors, quiesce and reset -/

/-- Tokens held by a core. -/
def tokensOn (c : Nat) (s : State) : List (Nat × Token) := s.que.tokens.filter fun e => e.2.core == c

/-- A token of a failed core is revoked; its command completes with POISON (Table 16-6). -/
def failToken (e : Nat × Token) (s : State) : State :=
  let k := e.1
  let mine := s.que.reqs.filter fun r => match r.2.who with
    | .core _ _ _ _ t => t == k
    | _ => false
  let s := each mine (fun r s => endReq r.1 .revoked s) s
  let s := modCmd e.2.cmd (fun c => { c with status := .poison }) s
  tokenDone k e.2 s

/-- A core is reclaimed and out of service (R275, R393): CORE_ERROR for each context with a token on it. -/
def coreFail (c cause : Nat) (s : State) : State :=
  let ts := tokensOn c s
  let ctxs := (ts.map fun e => e.2.ctx).eraseDups
  let s := if ctxs.isEmpty then raise (512 + c) .coreError none (agentEnv c s) 0 s
    else each ctxs (fun x s => raise (512 + c) .coreError (some x) (ctxEnv x s) 0 s) s
  let s := { s with port := { s.port with coreOut := insNat c s.port.coreOut } }
  let s := if agentSt c s == .absent then s else killAgent c cause s
  each ts failToken s

/-- CORE_ERROR (R393): cfN_core_err of a core; a core out of service stays as it is. -/
def execCoreError (c : CoreIx) (s : State) : Res :=
  answerAll (if s.port.coreOut.contains c.val then s else coreFail c.val 1 s)

/-- ENABLE of an agent is cleared: it gets FlushRange of everything (R277). -/
def flushAgent (a : Nat) (s : State) : State :=
  cohSend a 3 8 0 0 57 [] false
    (modCoh (fun c => { c with agents := mset c.agents a { agentRec a s with st := .flushing, en := false } }) s)

/-- A leaving core advances. -/
def setLeave (c : Nat) (l : CoreLeave) (s : State) : State :=
  { s with env := { s.env with leaving := mmod s.env.leaving c fun x => (l, x.2) } }

/-- A core's cache is empty: it is reset (R363). -/
def leaveReset (c : Nat) (s : State) : State := cfSend (c / 8) 7 (.ctl (c % 8) 2) (setLeave c (.resetting 0) s)

/-- CORE_QUIESCED (R363): the leaving core's agent is disabled, which flushes its cache; a core whose agent is not
enabled is reset at once. -/
def execCoreQuiesced (c : CoreIx) (s : State) : Res :=
  answerAll (let s := cfGrant (c.val / 8) 7 1 s
  match mget s.env.leaving c.val with
  | some (.quiescing, _) =>
    if agentSt c.val s == .active then setLeave c.val (.flushing 0) (flushAgent c.val s) else leaveReset c.val s
  | _ => s)

/-- A core that missed a bound or failed leaves the pool for good (R362, R363). -/
def coreLost (c : Nat) (s : State) : State :=
  let s := coreFail c 1 s
  match mget s.env.leaving c with
  | some (_, e, _) => { s with env := { s.env with
      leaving := mdel s.env.leaving c
      envs := mmod s.env.envs e fun v => { v with coresOut := v.coresOut.filter (· != c) } } }
  | none => s

/-- CORE_RESET_REPLY (R363): the core returns to the pool at the next edge; a failed reset is a core error. -/
def execCoreResetReply (c : CoreIx) (ok : Bool) (s : State) : Res :=
  answerAll (let s := cfGrant (c.val / 8) 7 1 s
  match mget s.env.leaving c.val with
  | some (.resetting _, _) => if ok then setLeave c.val .returning s else coreLost c.val s
  | _ => s)

/-- CORE_BIST_REPLY (R20, R362): a core that fails its self-test goes out of service. -/
def execCoreBistReply (c : CoreIx) (ok : Bool) (s : State) : Res :=
  answerAll (let s := cfGrant (c.val / 8) 7 1 s
  if ok then { s with port := { s.port with coreOut := s.port.coreOut.filter (· != c.val) } }
  else raise (512 + c.val) .bistFail none none 0
    { s with port := { s.port with coreOut := insNat c.val s.port.coreOut } })

/-- CORE_OVERDUE (R362, R363): FlushDone misses 120 ticks, or the RESET reply 100 ticks: core error, event, reclaim. -/
def execCoreOverdue (c : CoreIx) (s : State) : Res :=
  answerAll (match mget s.env.leaving c.val with
  | some (.flushing n, _) => if 120 ≤ n then coreLost c.val (setEvent rENV_EVENT 4 s) else s
  | some (.resetting n, _) => if 100 ≤ n then coreLost c.val (setEvent rENV_EVENT 4 s) else s
  | _ => s)

/-- CF_CREDIT_TIMEOUT (R65, R274): the licensee's side has held a VC1, VC5 or VC6 credit for more than 6,800 cycles. The
port's error input is raised; with a VC5 or VC6 credit its agents are dead and its cores in error (Table 16-6). -/
def execCfCreditTimeout (p : CF) (vc : Fin 8) (s : State) : Res :=
  answerAll (if vc.val = 1 || vc.val = 5 || vc.val = 6 then
    let s := raise (448 + p.val) .partnerTimeout none none 0 (modCf p.val (fun c => { c with errored := true }) s)
    let l := ((List.range 8).map (8 * p.val + ·)).filter fun a => agentSt a s != .absent && agentSt a s != .dead
    if vc.val = 1 then s else each l (fun a s => coreFail a 2 s) s
  else s)

end Sys2Proof.Machine
end

