-- ==== Sys2Proof/Machine/Stall.lean ====
section
/-! DEFINITION. Register writes and the stall rule of the audit log (R414, R415). -/
namespace Sys2Proof.Machine

/-- Stalled commands that are held register writes (OBS_AUDIT_STATUS.HELD_WRITES). -/
def isHeldWrite : Instr → Bool
  | .registerWrite .. => true | .rangeWrite .. => true | .classWrite .. => true | .vecAlloc .. => true
  | .hdmMapWrite .. => true | .elect .. => true | .retire .. => true | .unitTest .. => true | .unitRetire .. => true
  | .unitReturn .. => true | .unitSubstitute .. => true
  | _ => false

/-- A manager's register write under the stall rule: `go` is its effect, which signs its record. -/
def heldWrite (key : Nat) (v : W64) (cmd : Instr) (go : State → State) (s : State) : State :=
  classCWrite isHeldWrite key v cmd go s

/-- REGISTER_WRITE (R9). -/
def execRegisterWrite (p : Arrival) (fn : Fn) (off : BitVec 24) (w : Option RegW) (s : State) : Res :=
  answer (posted p.tlp p.port.val
    (registerWrite isHeldWrite (fun _ v => .registerWrite p fn off (some (.full v))) p.port.val fn.val off.toNat w) s)

end Sys2Proof.Machine
end

