-- ==== Sys2Proof/Machine/Agents.lean ====
section
/-! DEFINITION. Rows of chapter 11: messages of agents, CXL.mem and CXL.cache of the hosts, timeouts, enabling, coherent
ranges and bias actions. -/
namespace Sys2Proof.Machine

/-! ### Messages of agents -/

/-- The header names an agent attached to the arrival port, with a MSG of Table 11-5, its reserved fields 0 and VA as its message wants it
(R260). -/
def cohHdrOk (va : Bool) (h : CohHdr) : Bool :=
  h.msgOk && h.rsvdZero && h.va == va && (match h.port with
    | some p => h.agent.toNat / 8 == p.val && h.agent.toNat < 512
    | none => isMoorAgent h.agent.toNat)

/-- A message whose header fails R260 is a violation (R274): it is discarded; the fault falls on the port's own source,
and where the header names an agent of the arrival port that agent is dead. -/
def cohBad (h : CohHdr) (s : State) : State :=
  let a := h.agent.toNat
  match h.port with
  | some p =>
    if a < 512 && a / 8 = p.val then violation a s
    else raise (448 + p.val) .envelope none none 0 (setEvent rCOH_EVENT 1 s)
  | none => if isMoorAgent a then violation a s else setEvent rCOH_EVENT 1 s

/-- Return the credit of a message's channel (R64). -/
def cohCredit (vc : Nat) (h : CohHdr) (s : State) : State :=
  match h.port with
  | some p => cfGrant p.val vc 1 s
  | none => s

/-- Line key that a physical address names: a host line, or a line of device memory. -/
def cohKey (h : CohHdr) : Nat :=
  if h.host then hostKey (h.addr.toNat % 2 ^ 56) else paLocal h.addr.toNat / 64

/-- Take a message of a channel from a live agent. -/
def cohTake (vc : Nat) (va : Bool) (h : CohHdr) (go : State → State) (s : State) : State :=
  let s := cohCredit vc h s
  if !cohHdrOk va h then cohBad h s
  else if agentSt h.agent.toNat s == .dead then s
  else go s

/-- The function of a context. -/
def fnOfCtx (c : Nat) (s : State) : Nat := match mget s.que.ctxs c with
  | some x => x.fn
  | none => 0

/-- A coherent request with VA = 1 (R261): translated under the agent's context; a generation that does not match, or an
agent that is not enabled, is refused with INVALID. -/
def cohRequest (kind : Nat) (h : CohHdr) (s : State) : State :=
  cohTake 3 true h (fun s =>
    let a := h.agent.toNat
    let r := agentRec a s
    if r.st != .active || slotGen s.que.ctxSlots r.ctx ≠ r.gen || (mget s.que.ctxs r.ctx).isNone then
      cohSend a 5 0x24 h.txn.toNat h.addr.toNat 5 [] false s
    else
      newReq { who := .block, fn := fnOfCtx r.ctx s, env := ctxEnv r.ctx s
               ident := { ctx := some r.ctx, gen := r.gen }
               op := .coh kind a h.txn.toNat h.addr.toNat 0 0 } s) s

/-- RD_SHARED (R261). -/
def execRdShared (h : CohHdr) (s : State) : Res := orHold (.rdShared h) (cohRequest 0 h) s

/-- RD_OWN (R261). -/
def execRdOwn (h : CohHdr) (s : State) : Res := orHold (.rdOwn h) (cohRequest 1 h) s

/-- UPGRADE (R261, R267). -/
def execUpgrade (h : CohHdr) (s : State) : Res := orHold (.upgrade h) (cohRequest 2 h) s

/-- WrBack and EvictClean bring a physical address and reach the home without translation (R261). -/
def cohEvict (kind : CohKind) (h : CohHdr) (s : State) : State :=
  cohTake 3 false h (fun s =>
    arrive (cohKey h) { kind := kind, agent := h.agent.toNat, txn := h.txn.toNat } s) s

/-- WR_BACK (R266). -/
def execWrBack (h : CohHdr) (s : State) : Res := orHold (.wrBack h) (cohEvict .wrBack h) s

/-- EVICT_CLEAN (R266). -/
def execEvictClean (h : CohHdr) (s : State) : Res := orHold (.evictClean h) (cohEvict .evictClean h) s

/-- A snoop response of a code (Table 11-9). -/
def cohRsp (msg : Nat) (h : CohHdr) (s : State) : State :=
  cohTake 5 false h (snoopRsp msg h.agent.toNat (cohKey h)) s

/-- RSP_I, RSP_S, RSP_I_DIRTY, RSP_S_DIRTY (R263, Table 11-9). -/
def execRspI (h : CohHdr) (s : State) : Res := answerAll (cohRsp 0x18 h s)
def execRspS (h : CohHdr) (s : State) : Res := answerAll (cohRsp 0x19 h s)
def execRspIDirty (h : CohHdr) (s : State) : Res := answerAll (cohRsp 0x1A h s)
def execRspSDirty (h : CohHdr) (s : State) : Res := answerAll (cohRsp 0x1B h s)

/-- DIRTY_DATA (R263): a line of 64 bytes and whether its check bits mark it as poison. -/
def execDirtyData (h : CohHdr) (data : List Byte) (bad : Bool) (s : State) : Res :=
  answerAll (cohTake 6 false h (dirtyData h.agent.toNat (cohKey h) (dataField 64 data) bad) s)

/-- WB_DATA (R263). -/
def execWbData (h : CohHdr) (data : List Byte) (bad : Bool) (s : State) : Res :=
  answerAll (cohTake 6 false h (wbData h.agent.toNat (cohKey h) (dataField 64 data) bad) s)

/-- CMP_ACK (R264). -/
def execCmpAck (h : CohHdr) (s : State) : Res := answerAll (cohTake 5 false h (cmpAck h.agent.toNat (cohKey h)) s)

/-- A FlushRange has ended (R277): the agent is ABSENT and holds nothing, so no entry names it as a sharer any more; a
leaving core is reset next (R363). -/
def flushDone (a : Nat) (s : State) : State :=
  if agentSt a s == .flushing then
    let s := modCoh (fun c => { c with agents := mset c.agents a { agentRec a s with st := .absent } }) s
    let s := each ((s.coh.dir.filter fun e => e.2.sharers.contains a).map (·.1)) (fun k s => setDir k (dropSharer a (dirEnt k s)) s) s
    match mget s.env.leaving a with
    | some (.flushing _, _) => leaveReset a s
    | _ => s
  else s

/-- FLUSH_DONE (R277). -/
def execFlushDone (h : CohHdr) (s : State) : Res := answerAll (cohTake 5 false h (flushDone h.agent.toNat) s)

/-! ### Timeouts -/

/-- An agent fails to answer: a core is in error and reclaimed, any other agent is dead (R274, Table 16-6). -/
def agentFail (a cause : Nat) (s : State) : State :=
  if isCoreAgent a then coreFail a cause s
  else if isHostAgent a then killAgent a cause (raise (agentSrc a) .partnerTimeout none none a s)
  else killAgent a cause s

/-- Lines that wait for a snoop response of an agent. -/
def owesSnoop (a : Nat) (s : State) : Bool :=
  s.coh.dir.any fun e => match e.2.txn with
    | some t => t.snooped.contains a
    | none => false

/-- SNP_TIMEOUT (R262, R274): a snoop that an agent still owes has gone unanswered beyond COH_CTRL.SNP_TIMEOUT. -/
def execSnpTimeout (a : Fin 1024) (s : State) : Res :=
  answerAll (if owesSnoop a.val s && !isHostAgent a.val && agentSt a.val s != .dead then agentFail a.val 3 s else s)

/-- FLUSH_TIMEOUT (R274, R277): FlushDone has not come within COH_CTRL.FLUSH_TIMEOUT ticks. -/
def execFlushTimeout (a : Fin 1024) (s : State) : Res :=
  answerAll (if agentSt a.val s == .flushing then agentFail a.val 4 s else s)

/-- BI_TIMEOUT (R272): a BISnp of a device line has gone unanswered for COH_CTRL.BI_TIMEOUT ticks. -/
def execBiTimeout (p : HP) (line : BitVec 38) (s : State) : Res :=
  answerAll (match (dirEnt line.toNat s).txn with
  | some t => if t.snooped.contains (544 + p.val) then agentFail (544 + p.val) 4 s else s
  | none => s)

/-! ### CXL.mem and CXL.cache -/

/-- Device offset of a host address under a decoder, by its base, size and interleave (R97); none outside its range. -/
def hdmOffset (d : HdmDec) (addr : Nat) : Option Nat :=
  let g := 256 * 2 ^ d.gran.val
  let y := addr - d.base.toNat
  if addr < d.base.toNat || d.size.toNat ≤ y then none else some (y / (g * 2 ^ d.ways.val) * g + y % g)

/-- Local address of a CXL.mem request at device offset x of a decoder (R97); none where it falls outside its map or
outside every coherent range (R271). -/
def hdmLocal (p dec x : Nat) (s : State) : Option Nat :=
  let v := regRaw (rEPT_HDM_MAP + 8 * (4 * p + dec)) s
  let o := fld v 32 13 * gib + x
  if !bit v 0 then none
  else match mget s.env.envs (fld v 1 8) with
  | none => none
  | some e =>
    if (e.st == .ready || e.st == .pausing || e.st == .paused) && o < e.llen * gib && inRange (e.lbase * gib + o) s then
      some (e.lbase * gib + o)
    else none

/-- A non-caching request of a host at a device line. -/
def cxlReq (p tag : Nat) (op : ReqOp) (bad : Bool) (s : State) : State :=
  newReq { who := .cxl p tag, fn := 0, env := none, ident := {}, op := op, poisoned := bad } s

/-- A MemWr that evicts a line the host holds (R271, R272): WrBack with data; where a BISnp of the line is still owed, the
data is taken at once and the BIRsp completes the snoop. -/
def cxlEvict (p tag k : Nat) (d : List Byte) (bad : Bool) (s : State) : State :=
  let a := 544 + p
  let crossed := match (dirEnt k s).txn with
    | some t => t.snooped.contains a
    | none => false
  if crossed then tell p (.cxlRsp tag 0x22 []) (mergeData k d bad s)
  else arrive k { kind := .wrBack, agent := a, txn := tag, data := d, poison := bad } s

/-- BIConflict (R272): the host's request for a line has crossed a BISnp of it, and waits at the home behind the snoop. The
acknowledge goes out behind every completion sent before it, and the snoop stays open for its BIRsp. -/
def biConflict (p tag : Nat) (s : State) : State :=
  if !cxlMemOn p s || agentSt (544 + p) s == .dead then s else tell p (.biConflictAck tag) s

/-- CXL_MEM_REQUEST's effect: the decoder is one that the host holds committed. A host whose first request comes is an active
agent. -/
def cxlMem (p dec : Nat) (d : HdmDec) (addr tag : Nat) (op : CxlOp) (s : State) : State :=
  if !cxlMemOn p s then s
  else
    let a := 544 + p
    let s := { s with ep := { s.ep with hdm := mset s.ep.hdm (4 * p + dec) d } }
    let s := if agentSt a s == .absent then
        modCoh (fun c => { c with agents := mset c.agents a { agentRec a s with st := .active, en := true } }) s else s
    if agentSt a s == .dead then s
    else match (hdmOffset d addr).bind fun x => hdmLocal p dec x s with
    | none =>
      let s := modCoh (fun c => { c with hostOutside := satAdd 32 c.hostOutside 1 }) s
      (match op with
      | .wrI _ _ => tell p (.cxlRsp tag 0x22 []) s
      | .evict _ _ => tell p (.cxlRsp tag 0x22 []) s
      | _ => tell p (.cxlRsp tag 0xFF (List.replicate 64 0)) s)
    | some l =>
      let k := l / 64
      let pa := s.spl.chip * 2 ^ 44 + k * 64
      (match op with
      | .rdA => coherentArrive k { kind := .rdOwn, agent := a, txn := tag } s
      | .rdS => coherentArrive k { kind := .rdShared, agent := a, txn := tag } s
      | .rdI => cxlReq p tag (.paRead pa 64) false s
      | .wrI d bad => cxlReq p tag (.paWrite pa (dataField 64 d)) bad s
      | .evict d bad => cxlEvict p tag k (dataField 64 d) bad s
      | .conflict => biConflict p tag s)

/-- CXL_MEM_REQUEST (R97, R271): a host address that decoder `dec` of the port decodes, with the decoder as the host has
programmed it. -/
def execCxlMemRequest (p : HP) (dec : Fin 4) (a : HdmAddr) (tag : BitVec 16) (op : CxlOp) (s : State) : Res :=
  match op with
  | .conflict => answerAll (biConflict p.val tag.toNat s)
  | _ => orHold (.cxlMemRequest p dec a tag op) (cxlMem p.val dec.val a.dec a.addr.toNat tag.toNat op) s

/-- BISNP_RESPONSE (R272): the host's BIRsp leaves it with a shared copy, or with none. -/
def execBisnpResponse (p : HP) (line : BitVec 38) (shared : Bool) (s : State) : Res :=
  answerAll (snoopRsp (if shared then 0x19 else 0x18) (544 + p.val) line.toNat s)

/-- H2D_SNOOP's effect: while the proxy waits for the host's GO and no internal holder must answer, it answers from its own
state. -/
def h2dSnoop (p : HP) (addr kind : Nat) (s : State) : State :=
  if !cxlCacheOn p.val s then s
  else
    let k := hostKey addr
    let e := dirEnt k s
    match e.txn with
    | some t =>
      if t.st == .go && e.owner.isNone && (kind ≠ 1 || (holders e s).isEmpty) then
        let s := h2dAnswer p.val k kind e s
        setDir k { dirEnt k s with txn := some t } s
      else arrive k { kind := .h2d kind, agent := 544 + p.val } s
    | none => arrive k { kind := .h2d kind, agent := 544 + p.val } s

/-- H2D_SNOOP (R273, Table 11-12): 0 SnpData, 1 SnpInv, 2 SnpCur of a host line. -/
def execH2dSnoop (p : HP) (addr : BitVec 56) (kind : Fin 3) (s : State) : Res :=
  answerAll (h2dSnoop p addr.toNat kind.val s)

/-- What a request gets when the host's GO does not give the state it needs: an agent is refused with FAULT, a request of
the block ends with POISON. -/
def goRefused (k : Nat) (r : CohReq) (s : State) : State :=
  match r.req with
  | some id => wakeAll [id] (some (.poison, 0)) s
  | none => cohSend r.agent 5 0x24 r.txn (keyAddr k) 1 [] false s

/-- HOST_GO's effect: the proxy's state and the line's data, then the waiting transaction goes on. -/
def hostGo (addr st : Nat) (d : List Byte) (s : State) : State :=
  let k := hostKey addr
  let e := dirEnt k s
  match e.txn with
  | some t =>
    if t.st != .go then s
    else
      let e' : DirEnt := { e with txn := none, hstate := st }
      let s := modCoh (fun c => { c with
        hostData := if st = 0 then mdel c.hostData k
          else mset c.hostData k (if d.isEmpty then mgetD c.hostData k (List.replicate 64 0) else dataField 64 d) }) s
      let s := setDir k e' (whenS (st = 0 || !d.isEmpty) (markHost k false) s)
      if (d2hNeed e' t.r.kind).isSome then nextOf k 64 (goRefused k t.r s) else nextOf k 64 (takeReq k t.r s)
  | none => s

/-- HOST_GO (R273): 0 I, 1 S, 2 E, 3 M for the proxy's D2H request of a line, with data where the host sends it. -/
def execHostGo (p : HP) (addr : BitVec 56) (st : Fin 4) (data : List Byte) (s : State) : Res :=
  answerAll (if cxlCacheOn p.val s then hostGo addr.toNat st.val data s else s)

/-! ### Enabling, ranges and bias -/

/-- COH_AGENT_CTL takes a value for the selected agent (R277): ENABLE from 0 to 1 makes an agent that is absent or dead
active with no lines; clearing it flushes a live one. Host agents mirror CXL enablement. -/
def agentCtl (a : Nat) (v : W64) (s : State) : State :=
  if !(isCoreAgent a || isMoorAgent a) then s
  else
    let r := agentRec a s
    let on := bit v 0
    let r' : Agent := { r with en := on, ctx := fld v 12 12, gen := fld v 32 32 }
    let put (r : Agent) (s : State) : State := modCoh (fun c => { c with agents := mset c.agents a r }) s
    if on && !r.en && (r.st == .absent || r.st == .dead) then
      put { r' with st := .active, cause := 0, swept := false } (if sweepDue a s then reclaimSweep a s else s)
    else if !on && r.en && r.st == .active then flushAgent a (put r' s)
    else put r' s

/-- AGENT_ENABLE (R277): the upper-half write of COH_AGENT_CTL takes effect for the agent that the port has selected. -/
def execAgentEnable (p : HP) (w : RegW) (s : State) : Res :=
  answerAll (match mgrTake p.val rCOH_AGENT_CTL w s with
  | (some v, s) => agentCtl ((selGet p.val rCOH_AGENT_SEL s).toNat) v s
  | (none, s) => s)

/-- First page, and pages, of a range register's value. -/
def rangeSpan (v : W64) : Nat × Nat := (fld v 21 23 * 2 ^ 21, if bit v 0 then fld v 44 20 * 2 ^ 21 else 0)

/-- Is a write of COH_RANGEn refused (R255): a page of the old range is in shared bias, or the new one overlaps another or
passes the total of 1 TiB? -/
def rangeRefused (n : Nat) (v : W64) (s : State) : Bool :=
  let old := rangeSpan (regRaw (rCOH_RANGE + 8 * n) s)
  let new := rangeSpan v
  let others := ((List.range 64).filter (· != n)).map fun i => rangeSpan (regRaw (rCOH_RANGE + 8 * i) s)
  (s.coh.shared.any fun p => old.1 ≤ p * 4096 && p * 4096 < old.1 + old.2)
    || (others.any fun o => o.1 < new.1 + new.2 && new.1 < o.1 + o.2)
    || 2 ^ 40 < (others.map (·.2)).foldl (· + ·) new.2

/-- A write of COH_RANGEn takes effect or is refused (R255). -/
def rangeDo (n : Nat) (v : W64) (s : State) : State :=
  let k := rCOH_RANGE + 8 * n
  let s := signWrite k v s
  if rangeRefused n v s then setEvent rCOH_EVENT 3 s
  else setRaw k (v &&& BitVec.ofNat 64 0xFFFFFFFFFFE00001) s

/-- RANGE_WRITE (R255): audited under the stall rule (R414). -/
def execRangeWrite (p : HP) (n : Fin 64) (w : RegW) (s : State) : Res :=
  answer (match mgrTake p.val (rCOH_RANGE + 8 * n.val) w s with
  | (some v, s) => heldWrite (rCOH_RANGE + 8 * n.val) v (.rangeWrite p n (.full v)) (rangeDo n.val v) s
  | (none, s) => s)

/-- Start a bias action (R258): CTX and GEN must name a context of the function; a start while BUSY is discarded. -/
def biasStart (fn : Nat) (v : W64) (s : State) : State :=
  let a := mgetD s.coh.acts fn {}
  if a.busy then s
  else
    let c := fld v 0 12
    let va := (regRaw (fnKey fn fCOH_BIAS_ARG) s).toNat % 2 ^ 57
    let n := fld v 13 9 + 1
    let mine := match mget s.que.ctxs c with
      | some x => x.fn == fn && slotGen s.que.ctxSlots c == fld v 32 32
      | none => false
    let act : BiasAct := { busy := true, done := 0, ctx := c, va := va, left := n, shared := bit v 12 }
    if !mine then modAct fn (fun _ => { act with busy := false, status := .staleHandle }) s
    else if va % 4096 ≠ 0 || hostHalf va then modAct fn (fun _ => { act with busy := false, status := .invalid }) s
    else biasNext fn (modAct fn (fun _ => act) s)

/-- BIAS_ACTION (R258): the upper-half write of COH_FN_BIAS_CTL. -/
def execBiasAction (p : HP) (fn : Fn) (w : RegW) (s : State) : Res :=
  answerAll (match fnTake p.val fn.val fCOH_BIAS_CTL w s with
  | (some v, s) => biasStart fn.val v s
  | (none, s) => s)

/-- BIAS_FLIP_END (R257): the flip of a page ends once no line of it has an entry; the action that asked for it goes on. -/
def execBiasFlipEnd (page : BitVec 32) (s : State) : Res :=
  answerAll (match s.coh.flips.find? fun f => f.page == page.toNat with
  | some f =>
    if (pageLines page.toNat s).isEmpty then biasStep f.fn (flipEnd page.toNat s) else s
  | none => s)

/-! ### ELECT and STEP_GO -/

/-- ELECT's effect, with its record. -/
def electDo (s : State) : State := electEffect (signWrite rTTH_CTRL 2 s)

/-- ELECT (R28): TTH_CTRL.ELECT is written 1, an audited write. -/
def execElect (p : HP) (s : State) : Res :=
  answer (if mgrOpen p.val rTTH_CTRL s then heldWrite rTTH_CTRL 2 (.elect p) electDo s else s)

/-- STEP_GO's effect: its record holds the tether before and after the step (R40). -/
def stepGoDo (s : State) : State :=
  if s.time.st == .stepPending then stepGoEffect (signC .tetherStep noEnv (stepPayload s) s) else s

/-- STEP_GO (R40): TTH_CTRL.STEP_GO is written 1; ignored outside STEP_PENDING. -/
def execStepGo (p : HP) (s : State) : Res :=
  answer (if mgrOpen p.val rTTH_CTRL s && s.time.st == .stepPending then classC (.stepGo p) stepGoDo s else s)

end Sys2Proof.Machine
end

