-- ==== Sys2Proof/Machine/MemPorts.lean ====
section
/-! DEFINITION. Memory ports: the repair journal (R76 to R78), responses (R55 to R62, R291, R292), lane repair (R294),
placement (R288), failing ports and the moves of their buckets (R295 to R297). -/
namespace Sys2Proof.Machine


/-- A start-up phase ends (R79): its tether value is kept, and PHASE is the first that has not ended; 8 after the last. -/
def endPhase (n : Nat) (s : State) : State :=
  let e := insNat n s.spl.ended
  let next := ([1, 2, 3, 4, 5, 6, 7].find? fun i => !e.contains i).getD 8
  modSpl (fun p => { p with ended := e, phaseEnd := mset p.phaseEnd n s.time.now, phase := next }) s

/-! ### The repair journal -/

/-- A LANE_ENTRY as 8 bytes (Table 4-4). -/
def laneWord (l : LaneEntry) : Nat := l.port + 2 ^ 8 * l.kind + 2 ^ 16 * l.lane + 2 ^ 28 * l.spare

/-- Bytes 0 to 31 of a journal entry; a commit marker has port 0xFF, kind 2 and bit 16 (R76). -/
def journalBody (e : JournalEntry) : List Byte :=
  let w := match e.marker with
    | some rec_ => 0xFF + 2 ^ 8 * 2 + 2 ^ 16 * b2n rec_
    | none => laneWord e.lane
  toBytes 8 e.seq ++ toBytes 8 w ++ toBytes 8 e.tick ++ toBytes 8 0

/-- The MAC of an entry, and whether it verifies. -/
def journalSigned (e : JournalEntry) : JournalEntry := { e with mac := Config.journalMac (journalBody e) % 2 ^ 256 }
def journalOk (e : JournalEntry) : Bool := e.mac == Config.journalMac (journalBody e) % 2 ^ 256

/-- An entry falls due (R78); it waits until no other Spool update runs. -/
def journalDue (lane : LaneEntry) (marker : Option Bool) (s : State) : State :=
  modSpl (fun p => { p with journalWait := p.journalWait ++ [⟨0, lane, marker, tick s, 0⟩] }) s

/-- Entries that a compaction keeps (R77): each distinct live repair whose MAC verifies, and the newest commit marker;
entries that are ignored are not carried over. -/
def journalLive (map : List LaneEntry) (l : List JournalEntry) : List JournalEntry :=
  let l := l.filter journalOk
  let reps := (l.filter fun e => e.marker.isNone && map.contains e.lane).foldl
    (fun (a : List JournalEntry) e => if a.any fun x => x.lane == e.lane then a else a ++ [e]) []
  reps ++ (l.filter fun e => e.marker.isSome).getLast?.toList

/-- Entries of a half of 512 KiB. -/
def journalHalf : Nat := 8192

/-- NVM address of entry i of a half of the journal (R76). -/
def journalAt (second : Bool) (i : Nat) : Nat := 0x1000000 + 0x80000 * b2n second + 64 * i

/-- Program an entry at a place of the journal. -/
def journalPut (second : Bool) (i : Nat) (e : JournalEntry) (s : State) : State :=
  emit (.nvm 1 (journalAt second i) (journalBody e ++ toBytes 32 e.mac)) s

/-- The full half is compacted into the other half under new sequence numbers, and erased (R77). What an interrupted
compaction has left in the other half is erased first. -/
def journalCompact (s : State) : State :=
  if s.spl.journal.length < journalHalf then s
  else
    let old := s.spl.journalSecond
    let live := (journalLive s.spl.laneMap s.spl.journal).mapIdx fun i e => journalSigned { e with seq := s.spl.journalSeq + i }
    let s := if s.spl.journalOther.isEmpty then s else emit (.nvm 0 (journalAt (!old) 0) []) s
    let s := each (live.zip (List.range live.length)) (fun e s => journalPut (!old) e.2 e.1 s) s
    let s := emit (.nvm 0 (journalAt old 0) []) s
    setEvent rSPL_EVENT 6 (modSpl (fun p => { p with
      journal := live, journalOther := [], journalSecond := !old, journalSeq := p.journalSeq + live.length }) s)

/-- JOURNAL_APPEND (R76 to R78): the first entry due is programmed, unless a commit runs. -/
def execJournalAppend (s : State) : Res :=
  answer (match s.spl.journalWait with
  | [] => s
  | e :: r =>
    if s.spl.commitBusy then s
    else
      let s := journalCompact s
      let e' := journalSigned { e with seq := s.spl.journalSeq }
      let s := journalPut s.spl.journalSecond s.spl.journal.length e' s
      modSpl (fun p => { p with journalWait := r, journal := p.journal ++ [e'], journalSeq := p.journalSeq + 1 }) s)

/-- A spare lane of a port that no repair uses. -/
def spareLane (n : Nat) (s : State) : Option Nat :=
  let m := s.spl.laneMap.filter fun e => e.port == n
  ((m.filter fun e => e.kind == 1).map (·.spare)).find? fun x => !(m.any fun e => e.kind == 0 && e.spare == x)

/-- Take a spare for a failed lane: the repair stands at once and its journal entry falls due. -/
def repairLane (n lane : Nat) (s : State) : Bool × State :=
  match spareLane n s with
  | none => (false, s)
  | some x =>
    let e : LaneEntry := ⟨n, 0, lane, x⟩
    let s := modSpl (fun p => { p with laneMap := p.laneMap ++ [e] }) s
    (true, journalDue e none (modMp n (fun m => { m with repaired := satAdd 8 m.repaired 1 }) s))

/-- Send the full repair map of a port, then TRAIN_START (R59). -/
def trainStart (n payload : Nat) (s : State) : State :=
  let m := s.spl.laneMap.filter fun e => e.port == n && e.kind == 0
  let s := each m (fun e s => emit (.mpSideband n 2 (e.lane * 4096 + e.spare)) s) s
  emit (.mpSideband n 1 payload) (modMp n (fun m => { m with st := .training, failLanes := [] }) s)

/-- Send QUIESCE to a port, or RESUME (R59). Under QUIESCE the waiting requests of memory outside every envelope go over the
narrow path (R292). -/
def mpQuiet (n : Nat) (on : Bool) (s : State) : State :=
  let s := emit (.mpSideband n (if on then 3 else 4) 0) (modMp n (fun m => { m with quiet := on }) s)
  let w := (mport n s).waiting.filter fun r => on && r.kslot == 0
  if w.isEmpty then s
  else nrIssue n 16 (modMp n (fun m => { m with
    waiting := m.waiting.filter fun r => r.kslot != 0, narrowWait := m.narrowWait ++ w.flatMap nrWords }) s)

/-! ### Placement (R288) -/

/-- Granules of a port's capacity. -/
def capGran (g : Nat) : Nat := g * 4194304

/-- Buckets that a placement gives a port. -/
def bucketsOn (n : Nat) (m : Map Bucket) : List Nat := (m.filter fun e => e.2.port == n).map (·.1)

/-- The in-service port with the fewest buckets, lowest number first. -/
def fewest (ps : List Nat) (asg : List (Nat × Nat)) : Nat :=
  let cnt (p : Nat) : Nat := (asg.filter fun a => a.2 == p).length
  match ps with
  | [] => 0
  | p :: r => r.foldl (fun a b => if cnt b < cnt a then b else a) p

/-- Assign the 256 buckets to ports: the table's, then those of absent ports. -/
def assignBuckets (ps : List Nat) (table : List Nat) : List (Nat × Nat) :=
  let own := (List.range 256).filterMap fun b =>
    let p := table.getD b 0
    if ps.contains p then some (b, p) else none
  ((List.range 256).filter fun b => !ps.contains (table.getD b 0)).foldl
    (fun a b => a ++ [(b, fewest ps a)]) own

/-- The extent in GiB: E × k_n is at most C_n for each in-service port. -/
def placeExtent (caps : List (Nat × Nat)) (asg : List (Nat × Nat)) : Nat :=
  (caps.filterMap fun c =>
    let k := (asg.filter fun a => a.2 == c.1).length
    if k = 0 then none else some (capGran c.2 / k / 16384)).foldl min 16384

/-- Blocks of an extent in GiB. -/
def extBlocks (g : Nat) : Nat := g * 16384

/-- Place every bucket: slot s of its port has base s × E; its home slice is its byte of the table (R280, R288). -/
def placeAll (caps : List (Nat × Nat)) (table : List Nat) : Map Bucket × Nat :=
  let ps := caps.map (·.1)
  if ps.isEmpty then ([], 0)
  else
    let asg := assignBuckets ps table
    let e := placeExtent caps asg
    let put (a : Map Bucket × List Nat) (x : Nat × Nat) : Map Bucket × List Nat :=
      let slot := (a.2.filter (· == x.2)).length
      (mset a.1 x.1 { port := x.2, base := slot * extBlocks e, slice := table.getD x.1 0 }, a.2 ++ [x.2])
    ((asg.foldl put ([], [])).1, e)

/-- First free granule of a port, and its free granules, under a placement and an extent in GiB. -/
def firstFree (n e : Nat) (m : Map Bucket) : Nat :=
  ((m.filter fun x => x.2.port == n).map fun x => x.2.base + extBlocks e).foldl max 0
def freeGran (n e : Nat) (m : Map Bucket) (s : State) : Nat := capGran (mport n s).gib - firstFree n e m

/-- Ports in service. -/
def mpInService (s : State) : List Nat := (List.range 72).filter fun n => (mport n s).st == .inService

/-- The ballast-backed port with the most free granules, lowest number first. -/
def backedPort (but e : Nat) (m : Map Bucket) (s : State) : Option Nat :=
  let l := (mpInService s).filter fun n => n != but && 0 < e && extBlocks e ≤ freeGran n e m s
  match l with
  | [] => none
  | p :: r => some (r.foldl (fun a b => if freeGran a e m s < freeGran b e m s then b else a) p)

/-- Targets for a port's buckets in increasing order (R296), at an extent in GiB; none when one cannot be placed. -/
def planMoves (n e : Nat) (m : Map Bucket) (s : State) : Option (List BMove) :=
  ((bucketsOn n m).foldl (fun (a : Option (List BMove × Map Bucket)) b =>
    match a with
    | none => none
    | some (l, m) => match backedPort n e m s with
      | none => none
      | some p =>
        let base := firstFree p e m
        some (l ++ [⟨b, p, base⟩], mmod m b fun x => { x with port := p, base := base })) (some ([], m))).map (·.1)

/-- The placement once the moves that wait have been made. -/
def afterMoves (s : State) : Map Bucket :=
  s.rsvr.moves.foldl (fun m v => mmod m v.bucket fun x => { x with port := v.port, base := v.base }) s.rsvr.buckets

/-- The largest extent in GiB, at most e, at which a port's buckets can all be placed (R297). -/
def shrunkTo (n : Nat) (m : Map Bucket) (s : State) : Nat → Option (Nat × List BMove)
  | 0 => none
  | e + 1 => match planMoves n (e + 1) m s with
    | some l => some (e + 1, l)
    | none => shrunkTo n m s e

/-- The port is marked shrinkable. -/
def shrinkable (n : Nat) (s : State) : Bool := s.spl.img.shrinkable / 2 ^ n % 2 == 1

/-- The check of R289, made at start-up, when a port begins to fail and after each change of placement: could the ballast-backed ports absorb the fullest non-shrinkable port? -/
def checkBacked (s : State) : State :=
  let m := afterMoves s
  let l := (mpInService s).filter fun n => !shrinkable n s
  match l with
  | [] => s
  | p :: r =>
    let w := r.foldl (fun a b => if (bucketsOn a m).length < (bucketsOn b m).length then b else a) p
    match planMoves w s.rsvr.extent m s with
    | some _ => s
    | none => setEvent rMPT_EVENT 5 (raise (224 + w) .advisory none none 0 s)

/-- Publish the bucket table (R63): its epoch, and for a changed table the next one, with a tick 4 ahead. -/
def publishIlv (changed : Bool) (s : State) : State :=
  let ep := if changed then (s.port.ilvEpoch + 1) % 65536 else s.port.ilvEpoch
  let table := (List.range 256).map fun b => (bucket b s).port
  let s := { s with port := { s.port with ilvEpoch := ep, ilvTicks := 0 } }
  emit (.ilv table ep (tick s + 4)) s

/-- ILV_PUBLISH (R63): again after 1,024 ticks with the epoch unchanged. -/
def execIlvPublish (s : State) : Res :=
  answer (if 1024 ≤ s.port.ilvTicks && s.spl.ended.contains 3 then publishIlv false s else s)

/-! ### Failing ports -/

/-- Buckets wait to be moved, one after another; the movers begin with the first (R296). -/
def addMoves (l : List BMove) (s : State) : State :=
  let s := if s.rsvr.moves.isEmpty && !l.isEmpty then startJob bucketJob s else s
  modRsvr (fun q => { q with moves := q.moves ++ l }) s

/-- A port is failing (R295): event, targets for its buckets (R296), and where they cannot all be placed a map-out of a
shrinkable port or a level-4 fault (R297). -/
def failPort (n : Nat) (s : State) : State :=
  let st := (mport n s).st
  if st == .failing || st == .mappedOut || st == .outOfService || st == .untrained then s
  else
    let s := modMp n (fun m => { m with st := .failing }) s
    let s := setEvent rMPT_EVENT 1 (raise (224 + n) .portFailing none none 0 s)
    let m := afterMoves s
    match planMoves n s.rsvr.extent m s with
    | some l => checkBacked (addMoves l s)
    | none =>
      if shrinkable n s then
        match shrunkTo n m s s.rsvr.extent with
        | some (e, l) =>
          checkBacked (modRsvr (fun q => { q with lowerTo := some e }) (addMoves l (modMp n (fun m => { m with mapOut := true }) s)))
        | none => raise (224 + n) .fatalState none none 0 s
      else raise (224 + n) .fatalState none none 0 s

/-- The policy checker accepts a change of the bucket table (R19) that lets no two buckets meet: the place lies within
its port, and no other bucket of the port reaches into it. -/
def policyBucket (v : BMove) (s : State) : Bool :=
  let n := extBlocks (s.rsvr.lowerTo.getD s.rsvr.extent)
  v.base + n ≤ capGran (mport v.port s).gib
    && (s.rsvr.buckets.all fun x => x.1 == v.bucket || x.2.port ≠ v.port || x.2.base + n ≤ v.base || v.base + n ≤ x.2.base)

/-- BUCKET_COPY_DONE (R296): the movers are through with the last block of the moving bucket (log 51): the table is
published, writes still go to both ports until 2 ticks after its tick, and the next bucket moves. A lowered extent takes
effect with the first. -/
def execBucketCopyDone (s : State) : Res :=
  answerAll (match s.rsvr.moves with
  | [] => s
  | v :: r =>
    if !policyBucket v s then
      auditO .policyRefused 0 0 noEnv true [BitVec.ofNat 64 (v.bucket + 2 ^ 8 * v.port + 2 ^ 32 * v.base), BitVec.ofNat 64 (statusCode .invalid)] s
    else
    let old := bucket v.bucket s
    let s := if r.isEmpty then dropJob bucketJob s else startJob bucketJob (dropJob bucketJob s)
    let s := modRsvr (fun q => { q with
      moves := r
      buckets := mset q.buckets v.bucket { old with port := v.port, base := v.base }
      dual := q.dual ++ [(v.bucket, old.port, old.base, 6)]
      lowerIn := if q.lowerTo.isSome && q.lowerIn.isNone then some 4 else q.lowerIn }) s
    publishIlv true (checkBacked s))

/-- A block of an allocator below a limit, cut where it crosses it. -/
def blockBelow (lim : Nat) (b : Nat × Nat) : List (Nat × Nat) :=
  if b.2 + 2 ^ b.1 ≤ lim then [b] else if lim ≤ b.2 then [] else cutBlocks 64 b.2 (lim - b.2)

/-- The lowered extent takes effect (R297): free lists lose what lies above it, and each envelope that reaches above it
gets a level-3 fault. -/
def lowerExtent (e : Nat) (s : State) : State :=
  let s := modRsvr (fun q => { q with extent := e, lowerTo := none, lowerIn := none }) s
  let s := checkBacked (setEvent rMPT_EVENT 4 (setEvent rMPT_EVENT 3 s))
  each s.env.envs (fun x s =>
    let v := x.2
    if v.lbase + v.llen ≤ e then s
    else
      let lim := (e - v.lbase) * gib
      raise 224 .envelope none (some x.1) 0
        (modEnv x.1 (fun v => { v with blocks := (v.blocks.map (blockBelow lim)).flatten }) s)) s

/-- The edge's work of the memory ports: spares for failed lanes (R294), dual writes, the lowered extent, and the quiesce
of ports whose buckets have all moved (R296). -/
def mpEdge (s : State) : State :=
  let s := each (List.range 72) (fun n s =>
    let m := mport n s
    match m.laneDue with
    | [] => s
    | l :: r =>
      if m.st == .inService then
        let (ok, s) := repairLane n l (modMp n (fun m => { m with laneDue := r }) s)
        if ok then mpQuiet n true (modMp n (fun m => { m with st := .quiescing }) s) else failPort n s
      else s) s
  let s := modRsvr (fun q => { q with
    dual := (q.dual.map fun d => (d.1, d.2.1, d.2.2.1, d.2.2.2 - 1)).filter fun d => d.2.2.2 ≠ 0
    lowerIn := q.lowerIn.map (· - 1) }) s
  let s := match s.rsvr.lowerIn, s.rsvr.lowerTo with
    | some 0, some e => lowerExtent e s
    | _, _ => s
  let s := each (List.range 72) (fun n s =>
    let m := mport n s
    if m.st == .failing && !m.leaving && (bucketsOn n s.rsvr.buckets).isEmpty && !(s.rsvr.dual.any fun d => d.2.1 == n) then
      mpQuiet n true (modMp n (fun m => { m with leaving := true }) s)
    else s) s
  { s with port := { s.port with ilvTicks := s.port.ilvTicks + 1 } }

/-! ### Rows of chapter 3 -/

/-- MP_REQ_CREDIT (R54): one request credit, at most 255. -/
def execMpReqCredit (p : MP) (s : State) : Res :=
  answer (mpIssue p.val 1 (modMp p.val (fun m => { m with reqCred := min 255 (m.reqCred + 1) }) s))

/-- MP_WD_CREDIT (R54): one write-data credit, at most 255. -/
def execMpWdCredit (p : MP) (s : State) : Res :=
  answer (mpIssue p.val 1 (modMp p.val (fun m => { m with wdCred := min 255 (m.wdCred + 1) }) s))

/-- The local address of a granule of a port (R285, R287), through the bucket that is placed there, or that moves there
or has moved away (R296). -/
def granLocal (n gran : Nat) (s : State) : Option Nat :=
  let here (b : Nat × Nat × Nat) : Bool := b.2.1 == n && b.2.2 ≤ gran && gran < b.2.2 + extBlocks s.rsvr.extent
  let moving := (s.rsvr.moves.take 1).map (fun m => (m.bucket, m.port, m.base)) ++ s.rsvr.dual.map fun d => (d.1, d.2.1, d.2.2.1)
  match (s.rsvr.buckets.map (fun x => (x.1, x.2.port, x.2.base)) ++ moving).find? here with
  | some (b, _, base) =>
    let blk := (gran - base) * 65536
    some (blk + Nat.xor b (bucketOf blk s) * 256)
  | none => none

/-- The key slot of a request holds a key (R62). -/
def slotLoaded (k : Nat) (s : State) : Bool := s.env.loaded.contains k

/-- The envelope that owns a key slot (R353). -/
def slotOwner (k : Nat) : Option Nat := if k = 0 then none else some (k - 1)

/-- An uncorrectable word at a port (R291, R295): counted; UE_LIMIT of them within 1,000,000 ticks make it failing. A
request that names a slot without a key raises nothing (R62). -/
def mpUe (n k : Nat) (s : State) : State :=
  if slotLoaded k s then
    let now := tick s
    let ts := ((mport n s).ueTicks.filter fun t => now < t + 1000000) ++ [now]
    let s := modMp n (fun m => { m with ue := satAdd 16 m.ue 1, ueTicks := ts }) s
    let s := raise (224 + n) .poisoned none (slotOwner k) 0 s
    if max 1 (regFld rMPT_CTRL 8 8 s) ≤ ts.length then failPort n s else s
  else s

/-- A request that named a slot without a key has ended: it is counted once, against the slot's owner (R62). -/
def unkeyed (k : Nat) (s : State) : State := if slotLoaded k s then s else countRefused (slotOwner k) s

/-- A corrected word at a port (R291, R384): counted, and a corrected error of the port. -/
def mpCe (n : Nat) (s : State) : State :=
  raise (224 + n) .corrected none none 0 (modMp n (fun m => { m with ce := satAdd 16 m.ce 1 }) s)

/-- Re-read the words of a sector that came poisoned over the narrow path (R292). -/
def salvage (n gran sector k : Nat) (s : State) : State :=
  let ws := nrWords ⟨false, gran, 2 ^ sector, k, [], []⟩
  let ws := ws.map fun r => { r with fill := false }
  nrIssue n 16 (modMp n (fun m => { m with narrowWait := m.narrowWait ++ ws }) s)

/-- A sector that has been written since its read was issued: its line is dirty, or its write waits behind the read (R55). -/
def newerSector (n gran l sec : Nat) (s : State) : Bool :=
  (match mget s.rsvr.lines (l / 64 + sec) with
    | some x => x.dirty
    | none => false)
  || (mport n s).waiting.any fun r => r.write && r.gran == gran && r.smask / 2 ^ sec % 2 == 1

/-- One word of a read beat (R57, R291), at its local address; `newer` says that what the slice has is newer. -/
def mpWord (n k a : Nat) (newer : Bool) (w : WordIn) (s : State) : State :=
  let put (d : W64) (s : State) : State :=
    if newer || s.rsvr.poison.contains (a / 8) then s else modRsvr (fun q => { q with mem := cellsSet q.mem a (toBytes 8 d.toNat) }) s
  match w with
  | .good d => put d s
  | .corrected d =>
    let s := mpCe n (put d s)
    modRsvr (fun q => { q with lines := mmod q.lines (a / 64) fun l => { l with dirty := true } }) s
  | .poison => mpUe n k (if newer then s else addPoison [a / 8] s)

/-- A sector of read data arrives. -/
def mpData (n : Nat) (o : MpOpen) (sec : Nat) (ws : List WordIn) (s : State) : State :=
  let g := o.req.gran
  let s := match granLocal n g s with
    | some l =>
      let idx := (List.range 8).zip (ws ++ List.replicate 8 .poison)
      let newer := newerSector n g l sec s
      each (idx.take 8) (fun x s => mpWord n o.req.kslot (l + 64 * sec + 8 * x.1) newer x.2 s) s
    | none => s
  if ws.any (fun w => w == .poison) && slotLoaded o.req.kslot s then salvage n g sec o.req.kslot s else s

/-- Start the next operation of a key port (R60): one at a time, and a zeroise only once no request open or waiting at
the port names its slot. -/
def keyIssue (n : Nat) (s : State) : State :=
  let m := mport n s
  let names (k : KeyOp) (slot : Nat) : Bool := k.op = 2 || (k.op = 1 && slot = k.slot)
  match m.keyBusy, m.keyWait with
  | none, k :: r =>
    if m.opened.any (fun o => names k o.req.kslot) || m.waiting.any (fun q => names k q.kslot)
      || (m.narrow ++ m.narrowWait).any (fun q => names k q.kslot) then s
    else emit (.mpKey n k) (modMp n (fun m => { m with keyBusy := some k, keyWait := r }) s)
  | _, _ => s

/-- Hand an operation to a key port. -/
def keySend (n : Nat) (k : KeyOp) (s : State) : State :=
  keyIssue n (modMp n (fun m => { m with keyWait := m.keyWait ++ [k] }) s)

/-- A request leaves the port's table; what waited for its granule may issue, on the narrow path first (R55, R292), and so
may a zeroise (R60). -/
def mpClose (n tag : Nat) (s : State) : State :=
  keyIssue n (mpIssue n 4 (nrIssue n 16 (modMp n (fun m => { m with opened := m.opened.filter fun o => o.tag != tag }) s)))

/-- MP_RESPONSE's effect: a response for no open request, or a beat out of sector order, is discarded. An
ERROR leaves the words that are missing as poison, and a port under migration is read again over the narrow path (R292).
Requests that wait for the data of a read are tried again (R290). -/
def mpResponse (n tag : Nat) (b : MpBeat) (s : State) : State :=
  match (mport n s).opened.find? fun o => o.tag == tag with
  | none => s
  | some o => match b with
    | .data sec ws poison =>
      if o.req.write || o.left.head? != some sec.val then s
      else
        let s := mpData n o sec.val (ws.map fun c => codeIn c poison) s
        let left := o.left.drop 1
        kickWaiting (if left.isEmpty then mpClose n tag (unkeyed o.req.kslot s)
          else modMp n (fun m => { m with opened := m.opened.map fun x => if x.tag == tag then { x with left := left } else x }) s)
    | .writeDone => if o.req.write then mpClose n tag s else s
    | .error =>
      let s := match granLocal n o.req.gran s with
        | some l => if slotLoaded o.req.kslot s then
            let bad := o.left.filter fun i => !newerSector n o.req.gran l i s
            let s := addPoison ((bad.map fun i => wordsOf (l + 64 * i) 64).flatten) s
            if (mport n s).st == .failing then each bad (fun i s => salvage n o.req.gran i o.req.kslot s) s else s
          else s
        | none => s
      kickWaiting (mpClose n tag (unkeyed o.req.kslot (mpUe n o.req.kslot s)))

/-- MP_RESPONSE (R55 to R57, R62, R291). -/
def execMpResponse (p : MP) (tag : BitVec 9) (b : MpBeat) (s : State) : Res := answerAll (mpResponse p.val tag.toNat b s)

/-- MP_TIMEOUT (R56, R58, R295): a request of the wide path, or of the narrow path, is still open 6,800 cycles after it was
accepted. -/
def execMpTimeout (p : MP) (tag : MpTag) (s : State) : Res :=
  let m := mport p.val s
  let still := 
    if tag.narrow then m.narrow.any fun r => r.tag == tag.tag.toNat else m.opened.any fun o => o.tag == tag.tag.toNat
  answerAll (if still then failPort p.val (raise (224 + p.val) .partnerTimeout none none tag.tag.toNat s) else s)

/-- A write of a word is on the narrow path. -/
def nrWriting (n w : Nat) (s : State) : Bool := ((mport n s).narrow ++ (mport n s).narrowWait).any fun r => r.write && r.word == w

/-- NARROW_RESPONSE (R57, R58, R292, R293): a clean salvaged word replaces its poison; a word of a fill is taken as one of
the wide path is; the manager's request completes. Requests that wait for the granule are tried again. A word of a
salvage that the code cannot correct has been counted when the wide path brought it. -/
def narrowDone (n tag : Nat) (w : WordIn) (s : State) : State :=
  match (mport n s).narrow.find? fun r => r.tag == tag with
  | none => s
  | some r =>
    let s := modMp n (fun m => { m with narrow := m.narrow.filter fun x => x.tag != tag }) s
    let s := keyIssue n (mpIssue n 4 (nrIssue n 16 s))
    let s := if r.fill then s else match w with
      | .good _ => s
      | .corrected _ => if r.write then s else mpCe n s
      | .poison => if r.who && !r.write then unkeyed r.kslot (mpUe n r.kslot s) else s
    let val := match w with
      | .good d => some d
      | .corrected d => some d
      | .poison => none
    if r.who then
      let s := modRsvr (fun q => { q with nrBusy := false, nrStatus := statusCode (if val.isSome then .ok else .poison) }) s
      match val with
      | some d => if r.write then s else setRaw rMPT_NR_DATA d s
      | none => s
    else
      let s := match val, granLocal n (r.word / 32) s with
        | v, some l =>
          let a := l + r.word % 32 * 8
          if r.fill then mpWord n r.kslot a (newerSector n (r.word / 32) l (r.word / 8 % 4) s || nrWriting n r.word s) w s
          else match v with
          | some d => if !r.write && s.rsvr.poison.contains (a / 8) then memPut a (toBytes 8 d.toNat) s else s
          | none => s
        | _, none => s
      kickWaiting s

/-- NARROW_RESPONSE: a word with its check bits and mpN_nr_rpoison. -/
def execNarrowResponse (p : MP) (tag : Fin 16) (w : NrBeat) (s : State) : Res :=
  answerAll (narrowDone p.val tag.val (codeIn w.w w.poison) s)

/-- NARROW_GO (R293): a request through MPT_NR_CTL for a word outside every envelope, which a word of no bucket is too;
any other completes with RIGHTS and does not reach the port. A dirty copy of the granule goes to the port first
(R292, log 145). -/
def narrowGo (p : Nat) (write : Bool) (s : State) : State :=
  let n := (selGet p rMPT_SEL s).toNat
  let w := (regRaw rMPT_NR_ADDR s).toNat
  let s := setRaw rMPT_NR_CTL (if write then 1 else 0) s
  if s.rsvr.nrBusy || 72 ≤ n then s
  else
    let inside := match granLocal n (w / 32) s with
      | some l => (ownerEnv l s).isSome
      | none => false
    if inside then modRsvr (fun q => { q with nrStatus := statusCode .rights }) s
    else
      let d := regRaw rMPT_NR_DATA s
      let s := modRsvr (fun q => { q with nrBusy := true }) s
      let s := match granLocal n (w / 32) s with
        | some l =>
          let s := if granDirty (l / 64) s then writeBack (l / 64) s else s
          if write then memPut (l + w % 32 * 8) (toBytes 8 d.toNat) s else s
        | none => s
      nrIssue n 1 (modMp n (fun m => { m with narrowWait := m.narrowWait ++ [⟨0, write, w, 0, if write then d else 0, true, false, false⟩] }) s)

/-- NARROW_GO: MPT_NR_CTL is written with GO 1; `write` is its WRITE bit. -/
def execNarrowGo (p : HP) (write : Bool) (s : State) : Res :=
  answer (if mgrOpen p.val rMPT_NR_CTL s then narrowGo p.val write s else s)

/-- Training in service has ended (R294): a pass resumes the port, anything else makes it failing. -/
def trainEnd (n : Nat) (pass : Bool) (g : Nat) (s : State) : State :=
  if (mport n s).st != .training then s
  else if pass && g ≠ 0 then
    let s := mpQuiet n false (modMp n (fun m => { m with st := .inService, gib := g }) s)
    mpIssue n 512 (setEvent rMPT_EVENT 0 s)
  else failPort n s

/-- TRAIN_DONE (R59, R294): pass, capacity in GiB and the number of lanes still failing. -/
def execTrainDone (p : MP) (pass : Bool) (gib_ : BitVec 11) (failing : BitVec 12) (s : State) : Res :=
  answer (trainEnd p.val (pass && failing == 0) gib_.toNat s)

/-- TRAIN_TIMEOUT (R82, R294): TRAIN_DONE has not come within TRAIN_TIMEOUT_MS. -/
def execTrainTimeout (p : MP) (s : State) : Res := answer (trainEnd p.val false 0 s)

/-- LANE_FAIL (R294): in service the lane is repaired from the next edge on; during training it is noted. -/
def execLaneFail (p : MP) (lane : BitVec 12) (s : State) : Res :=
  let l := lane.toNat
  answer (modMp p.val (fun m =>
    if m.st == .inService || m.st == .quiescing || m.st == .quiesced then { m with laneDue := m.laneDue ++ [l] }
    else { m with failLanes := insNat l m.failLanes }) s)

/-- CTRL_ERROR (R59, R295): the controller's code is the port's error, which makes it failing. -/
def execCtrlError (p : MP) (code : BitVec 16) (s : State) : Res :=
  answer (failPort p.val (raise (224 + p.val) .partnerTimeout none none code.toNat s))

/-- RETIRE's effect: MPT_CTRL takes its value, and RETIRE declares the selected port failing (R295). -/
def retireDo (p : Nat) (v : W32) (s : State) : State :=
  let w : W64 := BitVec.ofNat 64 v.toNat
  let s := signWrite rMPT_CTRL w s
  let s := setRaw rMPT_CTRL (w &&& 0xFF00) s
  let n := (selGet p rMPT_SEL s).toNat
  if bit w 0 && n < 72 then failPort n s else s

/-- RETIRE (R295): MPT_CTRL is written, an audited write. -/
def execRetire (p : HP) (v : W32) (s : State) : Res :=
  answer (if mgrOpen p.val rMPT_CTRL s then
    heldWrite rMPT_CTRL (BitVec.ofNat 64 v.toNat) (.retire p v) (retireDo p.val v) s else s)

end Sys2Proof.Machine
end

