-- ==== Sys2Proof/Machine/HostLink.lean ====
section
/-! DEFINITION. Host ports coming and going: the manager group (R99), usability (R98), loss of a port with replay (R208 to
R211), completion timeouts (R210), link and power events (R80, R91, R108 to R110, R206). -/
namespace Sys2Proof.Machine

/-- Change the endpoint's part. -/
def modEp (f : EndState → EndState) (s : State) : State := { s with ep := f s.ep }

/-- Functions that have a record at a port. -/
def fnsAt (p : Nat) (s : State) : List Nat := (s.ep.insts.filter fun e => e.1 % 4 == p).map (·.1 / 4)

/-- Contexts of a function. -/
def ctxsOfFn (fn : Nat) (s : State) : List Nat := (s.que.ctxs.filter fun e => e.2.fn == fn).map (·.1)

/-- Function for whose work a publication waits. -/
def pubFn (a : PubAct) (s : State) : Nat :=
  match a with
  | .record c => (match mget s.que.cmds c with
    | some x => cmdFn x s
    | none => 0)
  | .signal c => (match mget s.que.cmds c with
    | some x => cmdFn x s
    | none => 0)
  | .fire fn _ => fn
  | .vc0 i => (match mget s.que.reqs i with
    | some r => r.fn
    | none => 0)
  | .auditTail _ => 0
  | .mirror n => (match mget s.que.fences n with
    | some f => (match mget s.que.ctxs f.ctx with
      | some x => x.fn
      | none => 0)
    | none => 0)

/-! ### Replay (R208) -/

/-- The replay port of a function. -/
def replayPort (fn : Nat) (s : State) : Option Nat :=
  (fnGroup fn s).find? fun p => (hport p s).st == .up && usable fn p s

/-- Send what the replay port's buffer holds room for; outside the allowance and charged to no class. -/
def pumpReplay (lost fn : Nat) : Nat → State → State
  | 0, s => s
  | n + 1, s =>
    match s.ep.replays.find? fun r => r.lost == lost && r.fn == fn with
    | none => s
    | some r => match r.entries with
      | [] => s
      | e :: l =>
        if 2 ^ 20 < replayBytes r.port s + e.bytes then s
        else
          let cut (y : Replay) : Replay := if y.lost == lost && y.fn == fn then { y with entries := l } else y
          let s := modEp (fun x => { x with replays := x.replays.map cut }) s
          pumpReplay lost fn n (count 7 3 lost e.bytes (issueNow r.port ⟨0, fn, e.ctx, e.msg, e.bytes / 64, e.announces⟩ s))

/-- Does anything wait for the replay of a function from a port? -/
def awaitsReplay (lost fn : Nat) (s : State) : Bool :=
  s.ep.pubs.any (fun p => p.need.any fun n => n.1 == lostKey lost fn)
    || s.que.ctxs.any (fun c => (mget c.2.wrote (lostKey lost fn)).isSome)
    || s.tr.invals.any (fun v => v.fl.any fun n => n.1 == lostKey lost fn)
    || s.env.envs.any fun e => (e.2.pauseNeed.getD []).any fun n => n.1 == lostKey lost fn

/-- Start the replay of a function's entries from a port that was lost: its buckets there follow to the replay port.
`all` says that everything in the port's tables is left from before the loss. -/
def startReplay (all : Bool) (lost fn : Nat) (s : State) : State :=
  if s.ep.replays.any fun r => r.lost == lost && r.fn == fn then s
  else match replayPort fn s with
  | none => s
  | some r =>
    let h := hport lost s
    let mine (e : RepEntry) : Bool := e.fn == fn && (all || e.seq < h.upSeq)
    let es := h.replay.filter mine
    let ns := h.nps.filter fun n => all && n.fn == fn
    let bs := if all then heldBuckets fn lost s else []
    if es.isEmpty && ns.isEmpty && bs.isEmpty && !awaitsReplay lost fn s then s
    else
      let s := modPort lost (fun h => { h with
        replay := h.replay.filter fun e => !mine e
        nps := h.nps.filter fun n => !(all && n.fn == fn)
        replays := if es.isEmpty then h.replays else satAdd 16 h.replays 1 }) s
      let s := if es.isEmpty then s else setEvent rDPA_EVENT (8 + lost) s
      let s := modFunc fn (fun f => { f with route := bs.foldl (fun m b => mset m b r) f.route }) s
      let keep := ns.filter fun n => match n.purpose with
        | .flush _ => false
        | _ => true
      let rp : Replay := { lost := lost, fn := fn, port := r, entries := es, buckets := bs, nps := keep, coverSeq := 0 }
      let s := modEp (fun x => { x with replays := x.replays ++ [rp] }) s
      pumpReplay lost fn (es.length + 1) s

/-- A non-posted request goes out again on a port under a new tag, after a replay (R208) or a completion timeout
(R210). -/
def resendNp (p : Nat) (again : Bool) (n : NpReq) (s : State) : State :=
  let t := npTag p s
  let n' : NpReq := { n with tag := t, resent := again }
  let s := modPort p (fun h => { h with nps := h.nps ++ [n'] }) s
  issueNow p ⟨0, n.fn, n.ctx, .read n.fn n.pasid t n.addr n.len, 1, none⟩ s

/-- Change what waits for flushes: publications, contexts' marks, invalidations, pauses. The function whose work waits is
given beside a port and the sequence number that must be covered there. -/
def mapNeeds (f : Nat → Nat × Nat → Nat × Nat) (s : State) : State :=
  let pub (u : Pub) : Pub := { u with need := u.need.map (f (pubFn u.act s)) }
  let move (c : Ctx) (m : Map Nat) (e : Nat × Nat) : Map Nat :=
    let x := f c.fn e
    mset m x.1 (max x.2 (mgetD m x.1 0))
  let ctx (c : Ctx) : Ctx := { c with wrote := c.wrote.foldl (move c) [] }
  let env (v : Env) : Env := { v with pauseNeed := v.pauseNeed.map fun l => l.map (f 0) }
  let s := modQue (fun q => { q with ctxs := mmap (fun _ c => ctx c) q.ctxs }) (modEp (fun x => { x with pubs := x.pubs.map pub }) s)
  let s := modTr (fun t => { t with invals := t.invals.map fun v => { v with fl := v.fl.map (f v.fn) } }) s
  { s with env := { s.env with envs := mmap (fun _ v => env v) s.env.envs } }

/-- What waited for the flush of a lost port waits for a flush elsewhere: behind the replay, or behind that of another lost
port. -/
def coverLost (lost fn r seq : Nat) (s : State) : State :=
  mapNeeds (fun _ n => if n.1 == lostKey lost fn then (r, seq) else n) s

/-- REPLAY_COMPLETE's effect: the requests that were outstanding go out again, and one flush stands in for every
release that waited on the lost port. -/
def replayEnd (lost fn : Nat) (s : State) : State :=
  match s.ep.replays.find? fun r => r.lost == lost && r.fn == fn with
  | none => s
  | some r =>
    if r.coverSeq ≠ 0 || !r.entries.isEmpty then s
    else
      let s := each r.nps (resendNp r.port false) s
      let n := (hport r.port s).seq
      let mark (y : Replay) : Replay := if y.lost == lost && y.fn == fn then { y with nps := [], coverSeq := n } else y
      let s := modEp (fun x => { x with replays := x.replays.map mark }) s
      let s := coverLost lost fn r.port n s
      if n ≤ (hport r.port s).covered then s else flushWork r.port fn s

/-- REPLAY_COMPLETE (R208). -/
def execReplayComplete (lost : HP) (fn : Fn) (s : State) : Res :=
  answerAll (kickWaiting (prgSendAll (replayEnd lost.val fn.val s)))

/-- Replays that a completed flush covers are over: their buckets are spread over the usable ports (R180, R208). -/
def replaysCovered (p : Nat) (s : State) : State :=
  let isOver := s.ep.replays.filter fun r => r.port == p && r.coverSeq ≠ 0 && r.coverSeq ≤ (hport p s).covered
  each isOver (fun r s =>
    let s := modEp (fun x => { x with replays := x.replays.filter fun y => !(y.lost == r.lost && y.fn == r.fn) }) s
    let dest := dealBuckets r.buckets (usablePorts r.fn s) 0 []
    let s := each r.buckets (fun b s =>
      let d := mgetD dest b r.port
      if d = r.port || (usablePorts r.fn s).isEmpty then s else moveBucket r.fn b r.port d s) s
    reroute r.fn s) s

/-! ### Usability (R98) -/

/-- The instances of a function have changed: routes, replays that can now run, parked traffic, pending messages, and
the end of a host-loss wait (R91, R98, R180). -/
def fnChanged (fn : Nat) (s : State) : State :=
  let s := reroute fn s
  let s := each (List.range 4) (fun p s => startReplay ((hport p s).st != .up) p fn s) s
  match primary fn s with
  | none => s
  | some _ =>
    let mine := s.ep.parked.filter fun e => e.fn == fn
    let s := modEp (fun x => { x with parked := x.parked.filter fun e => e.fn != fn }) s
    let s := each mine resendU (modFunc fn (fun f => { f with waking := false }) s)
    let s := each (s.ep.msixPending.filter fun k => k / 2048 == fn) (fun k s => sendMsix fn (k % 2048) s) s
    { s with spl := { s.spl with hostLoss := mdel s.spl.hostLoss fn } }

/-- Every function with an instance on a port is looked at again. -/
def portChanged (p : Nat) (s : State) : State := kickWaiting (each (insNat 0 (fnsAt p s)) fnChanged s)

/-- The manager group is fixed from a port (R99); the physical function and its contexts follow. -/
def setMgr (p : Nat) (s : State) : State :=
  modEp (fun x => { x with mgr := (List.range 4).filter fun q => sameGroup p q s }) s

/-- The physical function's record at a port. -/
def putInst (fn p : Nat) (s : State) : State :=
  if instAt fn p s then s else modEp (fun x => { x with insts := mset x.insts (4 * fn + p) {} }) s

/-- A port carries traffic: it is UP, the physical function has its instance there, and the manager group is fixed where
phase 5 ended without one (R99). -/
def portUp (p : Nat) (s : State) : State :=
  let s := modPort p (fun h => { h with st := .up, upSeq := h.seq, idle := 0, lowTicks := 0 }) (putInst 0 p s)
  let s := if s.ep.mgr.isEmpty && (s.spl.ended.contains 5 || (s.spl.recovery && 100000 ≤ s.spl.recoveryTicks))
    then setMgr p s else s
  portChanged p (each (insNat 0 (fnsAt p s)) (fun fn s => startReplay true p fn s) s)

/-! ### Loss of a port (R208 to R211) -/

/-- A replay whose own port is lost joins what that port leaves: its unsent entries and its reads go to the port's
tables, and the replay of that port stands for it (R208). -/
def absorbReplay (p : Nat) (r : Replay) (s : State) : State :=
  let s := modEp (fun x => { x with replays := x.replays.filter fun y => !(y.lost == r.lost && y.fn == r.fn) }) s
  let s := each r.entries (fun e s => modPort p (fun h => { h with
    seq := h.seq + 1, replay := h.replay ++ [{ e with seq := h.seq }] }) s) s
  let s := each r.nps (fun n s => modPort p (fun h => { h with nps := h.nps ++ [{ n with tag := npTag p s }] }) s) s
  coverLost r.lost r.fn (lostKey p r.fn) 1 s

/-- Host-bound work on its way through a lost port: translation requests start again, page requests and flushes go out
again elsewhere, reads of the host window have nobody to answer. -/
def dropPort (p : Nat) (s : State) : State :=
  let s := each (s.ep.replays.filter fun r => r.port == p) (absorbReplay p) s
  let gone := s.tr.ats.filter fun a => a.port == p
  let prg (g : Prg) : Prg := if g.port == p && g.out ≠ 0 then { g with out := 0 } else g
  let dead := (s.tr.invals.filter fun v => v.port == p).map (·.filt)
  let filt (f : FiltEnt) : FiltEnt := if dead.contains f.id then { f with hold := false } else f
  let s := modTr (fun t => { t with
    ats := t.ats.filter fun a => a.port != p
    prgs := t.prgs.map prg
    filter := t.filter.map filt
    invals := t.invals.filter fun v => v.port != p }) s
  let s := filtRelease (wakeAll (gone.flatMap fun a => a.waiters.map (·.2)) none s)
  let s := modEp (fun x => { x with
    winReads := x.winReads.filter fun w => w.port != p
    moves := x.moves.filter fun m => m.src != p && m.dst != p }) s
  let s := modQue (fun q => { q with ctxs := mmap (fun _ c => { c with lastAddr := mdel c.lastAddr p }) q.ctxs }) s
  let done := (hport p s).covered
  mapNeeds (fun fn n => if n.1 == p && done < n.2 then (lostKey p fn, 1) else n) s

/-- Contexts whose function has no port left that is UP enter HOST_PATH_LOST, and the wait of R91 begins (R211). -/
def pathLoss (fn : Nat) (s : State) : State :=
  let g := fnGroup fn s
  if g.isEmpty || g.any (fun p => (hport p s).st == .up) || (ctxsOfFn fn s).isEmpty then s
  else
    let s := each (ctxsOfFn fn s) hostLost s
    if (mget s.spl.hostLoss fn).isSome then s
    else { s with spl := { s.spl with hostLoss := mset s.spl.hostLoss fn 0 } }

/-- A port becomes DOWN or SUSPECT: nothing more is issued on it, its functions replay on other ports, and a host
agent behind it is dead (R208, R211, R274). -/
def portLost (p : Nat) (st : PathSt) (s : State) : State :=
  if (hport p s).st == .down then s
  else
    let s := if st == .down && agentSt (544 + p) s != .absent then killAgent (544 + p) 6 s else s
    if (hport p s).st == .suspect then modPort p (fun h => { h with st := st }) s
    else
      let w := (hport p s).uq.filter fun e => e.rank ≠ 0 && (match e.msg with
        | .atsReq .. => false
        | .prg .. => false
        | .invalCpl .. => false
        | _ => true)
      let s := dropPort p (modPort p (fun h => { h with st := st, uq := [] }) s)
      let fns := insNat 0 (fnsAt p s)
      let s := each fns pathLoss s
      let s := each fns (fun fn s => startReplay true p fn s) s
      let gone (e : UqEntry) (s : State) : Bool := match e.ctx with
        | some c => (match mget s.que.ctxs c with
          | some x => x.st == .hostPathLost
          | none => true)
        | none => false
      let s := each w (fun e s => if gone e s then s else resendU e s) s
      kickWaiting (each fns reroute s)

/-- An arrangement of lane groups (R51): width code, lane groups, and whether it is presented through lane reversal. -/
structure Arrangement where
  width : Nat
  groups : List Nat
  reversed : Bool
  deriving DecidableEq, Repr

/-- The arrangements of R51, widest first. -/
def arrangements : List Arrangement :=
  [⟨0, [0, 1, 2, 3], false⟩, ⟨1, [0, 1], false⟩, ⟨1, [2, 3], true⟩, ⟨2, [0], false⟩, ⟨2, [3], true⟩]

/-- The first arrangement no wider than a width code whose lane groups are all in service (R51). -/
def arrangement (width : Nat) (out : List Nat) : Option Arrangement :=
  arrangements.find? fun a => width ≤ a.width && a.groups.all fun g => !out.contains g

/-- A port's lanes are set to an arrangement and train. -/
def trainAt (p : Nat) (a : Arrangement) (s : State) : State :=
  emit (.host p (.train a.groups a.reversed)) (modPort p (fun h => { h with groups := a.groups, reversed := a.reversed }) s)

/-- The widest width code that a port may train at: HP_WIDTH once it has taken effect (R80, R89). -/
def widthLimit (p : Nat) (s : State) : Nat := if (hport p s).limited then (portCfg p s).width else 0

/-- A port starts link training, at the widest width its limits and lane groups allow (R51, R80); a port with no qualifying
arrangement stays out of service. -/
def startTraining (p : Nat) (s : State) : State :=
  match arrangement (widthLimit p s) (hport p s).laneOut with
  | some a => trainAt p a (modPort p (fun h => { h with link := 1 }) s)
  | none => modPort p (fun h => { h with link := 0 }) s

/-- A port's link has finished training, as a working or a diagnostic one (R95). -/
def trained (p : Nat) (s : State) : Bool := 2 ≤ (hport p s).link

/-- The link of a port goes down (R208): event, a level-0 Weir event, and the port trains again (R91). -/
def linkDown (p : Nat) (s : State) : State :=
  let s := if trained p s then raise (32 + p) .linkEvent none none 0 (setEvent rEPT_EVENT p s) else s
  portLost p .down (startTraining p (modPort p (fun h => { h with lstate := .l0 }) s))

/-- The PCIe-visible state of the functions on a port returns to its reset values (Table 3-3). Virtual functions are no
longer enabled there. -/
def resetInsts (p : Nat) (s : State) : State :=
  let clear (k : Nat) (i : Inst) : Inst := if k % 4 = p then { i with cfg := [], pmeStatus := false } else i
  modEp (fun x => { x with
    insts := mmap clear (x.insts.filter fun e => e.1 % 4 != p || e.1 / 4 = 0)
    pmeOut := x.pmeOut.filter fun k => k % 4 != p }) s

/-- DL_DOWN (R208). -/
def execDlDown (p : HP) (s : State) : Res :=
  answerAll (if trained p.val s then linkDown p.val s else s)

/-- HOT_RESET (R208, R91): the port's functions return to their configuration reset values (log 21). -/
def execHotReset (p : HP) (s : State) : Res :=
  answerAll (if trained p.val s then
    resetInsts p.val (linkDown p.val (auditO .reset 4 0 noEnv false [BitVec.ofNat 64 p.val] s)) else s)

/-- LINK_RECOVERY (R206, R210): Recovery loses nothing and sets RETRAINED; a SUSPECT port returns to service. -/
def execLinkRecovery (p : HP) (s : State) : Res :=
  answerAll (if linkUp p.val s then
    let s := setEvent rEPT_EVENT (4 + p.val) s
    if (hport p.val s).st == .suspect then portUp p.val s else s
  else s)

/-- PERST's effect (Tables 3-3 and 5-4, R108, R116): the port is DOWN until its deassertion, its functions' visible
state is reset, IDE streams and keys are cleared; a physical function in D3hot enters D3cold. -/
def perst (p : Nat) (s : State) : State :=
  let hot := instAt 0 p s && (cfgDw 0 p 0x11 s).toNat % 4 == 3
  let pme := cfgDw 0 p 0x11 s
  let s := if trained p s then raise (32 + p) .linkEvent none none 0 (setEvent rEPT_EVENT p s) else s
  let s := portLost p .down (modPort p (fun h => { h with
    perst := true, link := 0, lstate := .l2, ideRun := [], ideSecure := true, ideKeys := [], spdm := false
    limited := s.spl.ended.contains 2 && !s.spl.recovery }) s)
  let s := modCoh (fun c => { c with cxlOff := c.cxlOff.filter (· != p) }) (resetInsts p s)
  let s := modEp (fun x => { x with hdm := x.hdm.filter fun e => e.1 / 4 != p }) s
  if hot then modEp (fun x => { x with insts := mmod x.insts p fun i => { i with cold := true, cfg := mset i.cfg 0x11 pme } }) s
  else s

/-- PERST (R46, R208). -/
def execPerst (p : HP) (s : State) : Res :=
  answerAll (if (hport p.val s).perst then s
    else perst p.val (auditO .reset 4 0 noEnv false [BitVec.ofNat 64 p.val] s))

/-- PERST_DEASSERT (R80, R108, R109): the port trains; D3cold ends with configuration space at its reset values, and
hpN_wake_n is released once it has been low for 100 µs. -/
def execPerstDeassert (p : HP) (s : State) : Res :=
  answerAll (if !(hport p.val s).perst then s
    else
      let s := modPort p.val (fun h => { h with perst := false, wakeLow := h.wakeLow && h.wakeHold != 0, lstate := .l0 }) s
      let s := modEp (fun x => { x with insts := mmod x.insts p.val fun i => if i.cold then {} else i }) s
      if s.spl.ended.contains 1 && (s.spl.img.hpEn / 2 ^ p.val % 2 == 1 || !s.spl.ended.contains 2) then
        startTraining p.val s
      else s)

/-! ### Completion timeouts and flushes -/

/-- A flush's completion covers every entry issued before it (R203, R207); what waited for it goes on. -/
def flushDoneAt (p upTo : Nat) (s : State) : State :=
  let s := modPort p (fun h => { h with
    covered := max h.covered upTo, replay := h.replay.filter fun e => upTo ≤ e.seq || e.seq < h.upSeq }) s
  let s := replaysCovered p s
  let s := each (s.ep.replays.filter fun r => r.port == p) (fun r s => pumpReplay r.lost r.fn 16384 s) s
  kickWaiting (drainU p 4096 s)

/-- Take an outstanding request of a port out of its tag table. -/
def takeNp (p tag : Nat) (s : State) : Option NpReq × State :=
  ((hport p s).nps.find? fun n => n.tag == tag, modPort p (fun h => { h with nps := h.nps.filter fun n => n.tag != tag }) s)

/-- The generation that a tag records is current (R115). -/
def npFresh (n : NpReq) (s : State) : Bool :=
  n.fnGen == (func n.fn s).gen && (match n.ctx with
    | some c => slotGen s.que.ctxSlots c == n.ctxGen
    | none => true)

/-- Late completions are counted (R115). -/
def lateCompletion (s : State) : State := modEp (fun x => { x with lateCpl := satAdd 32 x.lateCpl 1 }) s

/-- FLUSH_COMPLETION (R207). One of a stale generation is counted and covers nothing (R115); a further flush follows at the
next edge for what still waits. -/
def execFlushCompletion (p : HP) (tag : BitVec 14) (s : State) : Res :=
  answerAll (match takeNp p.val tag.toNat s with
    | (none, _) => s
    | (some n, s') => match n.purpose with
      | .flush u => if npFresh n s' then flushDoneAt p.val u s' else lateCompletion s'
      | _ => s)

/-- BUCKET_MOVE (R201): a bucket leaves a port once a flush there has covered its requests. -/
def bucketMove (fn b : Nat) (s : State) : State :=
  match s.ep.moves.find? fun m => m.fn == fn && m.bucket == b with
  | none => s
  | some m =>
    if (hport m.src s).covered < m.need then s
    else
      let s := modEp (fun x => { x with moves := x.moves.filter fun y => !(y.fn == fn && y.bucket == b) }) s
      kickWaiting (modFunc fn (fun f => { f with route := mset f.route b m.dst }) s)

/-- BUCKET_MOVE. -/
def execBucketMove (fn : Fn) (b : Fin 64) (s : State) : Res := answerAll (bucketMove fn.val b.val s)

/-! ### Link power and width (R109, R110) -/

/-- Units per tick of a port (Table 8-3): 4,000 at 128 GT/s x16, in proportion at other widths and rates. -/
def portUnits (lanes rate : Nat) : Nat := 4000 * lanes / 16 / 2 ^ (6 - min 6 rate)

/-- ASPM_L1_ENTRY (R110): L1 is enabled, the port has been idle for 64 ticks, and no non-posted request is outstanding. -/
def execAspmL1Entry (p : HP) (s : State) : Res :=
  let h := hport p.val s
  answer (if linkUp p.val s && h.lstate == .l0 && 64 ≤ h.idle && h.nps.isEmpty && h.uq.isEmpty && cfgBit 0 p.val 0x18 1 s
    then emit (.host p.val .enterL1) (modPort p.val (fun h => { h with lstate := .l1 }) s) else s)

/-- L0P_REQUEST (R110): narrowing to x8, or from x8 to x4, after 1,024 ticks below 40 % of that width's rate; a return
to full width when the queued traffic of a tick exceeds 60 % of the current width's rate. -/
def execL0pRequest (p : HP) (s : State) : Res :=
  let h := hport p.val s
  let now := lanesOf h.width
  answer (if !linkUp p.val s || h.lstate == .l1 then s
    else if h.lstate == .l0p && portUnits now h.rate * 60 / 100 < h.queued then
      emit (.host p.val (.l0p (lanesOf h.trained))) (modPort p.val (fun h => { h with width := h.trained, lstate := .l0, lowTicks := 0 }) s)
    else if 1024 ≤ h.lowTicks && 4 < now then
      emit (.host p.val (.l0p (now / 2))) (modPort p.val (fun h => { h with width := h.width + 1, lstate := .l0p, lowTicks := 0 }) s)
    else s)

/-- HOST_L0P_REQUEST (R110): every request of the host is granted; order and credit stay as they are. -/
def execHostL0pRequest (p : HP) (w : Fin 3) (s : State) : Res :=
  answer (if linkUp p.val s then
    emit (.host p.val (.l0pGrant (lanesOf w.val))) (modPort p.val (fun h => { h with
      width := max w.val h.trained, lstate := if w.val ≤ h.trained then .l0 else .l0p, lowTicks := 0 }) (exitL1 p.val s))
  else s)

/-- PME_RESEND (R109): a PME that PME_Status still shows is sent again. -/
def execPmeResend (fn : Fn) (p : HP) (s : State) : Res :=
  answer (if (mgetD s.ep.insts (4 * fn.val + p.val) {}).pmeStatus && linkUp p.val s then
    tell p.val (.pme fn.val) s else s)

end Sys2Proof.Machine
end

