-- ==== Sys2Proof/Machine/HostCfg.lean ====
section
/-! DEFINITION. What a host does to a function through configuration space and its BARs: configuration requests (R100),
virtual functions (R114), function-level reset (R111 to R113), power states (R108), PRI Enable (R164), the MSI-X table
(R106), DOE and IDE (R116 to R118), vector counts (R105), HDM maps (R97), the admin queue's start (R125). -/
namespace Sys2Proof.Machine

/-- What waits on a port for a function whose instance there is no longer usable goes another way, or parks (R98). -/
def instIdle (fn p : Nat) (s : State) : State :=
  if usable fn p s then s
  else
    let mine (e : UqEntry) : Bool := e.fn == fn && e.rank ≠ 0
    let w := (hport p s).uq.filter mine
    each w resendU (modPort p (fun h => { h with uq := h.uq.filter fun e => !mine e }) s)

/-- The instance of a function on a port has changed. -/
def instChanged (fn p : Nat) (s : State) : State := kickWaiting (fnChanged fn (instIdle fn p s))

/-- Change a configuration double word. -/
def setCfg (fn p dw : Nat) (v : W32) (s : State) : State :=
  modEp (fun x => { x with insts := mmod x.insts (4 * fn + p) fun i => { i with cfg := mset i.cfg dw v } }) s

/-! ### Virtual functions (R101, R114) -/

/-- Virtual functions that VF Enable and NumVFs give a port. -/
def vfCount (p : Nat) (s : State) : Nat :=
  if cfgBit 0 p 0xC2 0 s then min 256 (min (cfgIdentity s).numVfs ((cfgDw 0 p 0xC4 s).toNat % 65536)) else 0

/-- The records of virtual functions on a port follow VF Enable and NumVFs: those beyond cease to exist. -/
def vfApply (p : Nat) (s : State) : State :=
  let n := vfCount p s
  let had := (fnsAt p s).filter (· ≠ 0)
  let s := modEp (fun x => { x with insts := x.insts.filter fun e => e.1 % 4 != p || e.1 / 4 ≤ n }) s
  let s := each (List.range n) (fun i s => putInst (i + 1) p s) s
  let seen := (had ++ (List.range n).map (· + 1)).foldl (fun l f => insNat f l) []
  kickWaiting (each seen (fun f s => fnChanged f (instIdle f p s)) s)

/-- A function resets, and a port's instance is the one that received the reset: configuration writes to it wait (R112). -/
def cfgHeld (fn p : Nat) (s : State) : Bool := (func fn s).flrBusy && (func fn s).flrPort == p

/-- Hold a configuration write until the reset completes; `told` says that its completion is due then. -/
def holdCfg (fn p : Nat) (told : Bool) (r : CfgReq) (s : State) : State :=
  modFunc fn (fun f => { f with heldCfg := f.heldCfg ++ [⟨p, told, r⟩] }) s

/-- VF_ENABLE_CHANGE's effect. -/
def vfEnable (p : Nat) (on : Bool) (num : Nat) (s : State) : State :=
  let c := cfgDw 0 p 0xC2 s
  if !instAt 0 p s || !linkUp p s then s
  else if cfgHeld 0 p s then
    holdCfg 0 p false (.write 0xC2 1 (if on then 1 else 0)) (holdCfg 0 p false (.write 0xC4 3 (BitVec.ofNat 32 num)) s)
  else
    vfApply p (setCfg 0 p 0xC2 (if on then c ||| 1 else c &&& ~~~1) (setCfg 0 p 0xC4 (BitVec.ofNat 32 num) s))

/-- VF_ENABLE_CHANGE (R101, R114): VF Enable and NumVFs of the physical function at a port are written. -/
def execVfEnableChange (p : HP) (on : Bool) (num : BitVec 16) (s : State) : Res :=
  answerAll (vfEnable p.val on num.toNat s)

/-! ### PRI Enable and power states -/

/-- PRI_ENABLE_WRITE's effect (R164): the stop of PRI ends at the first write that sets PRI Enable after one that
cleared it. -/
def priEnable (fn p : Nat) (on : Bool) (s : State) : State :=
  let s := setCfg fn p 0xD3 (if on then 1 else 0) s
  let s := modFunc fn (fun f => if !f.priStopped then f
    else if on && f.priCleared then { f with priStopped := false, priCleared := false }
    else if on then f else { f with priCleared := true }) s
  if on then prgSendAll s else s

/-- PRI_ENABLE_WRITE. -/
def execPriEnableWrite (fn : Fn) (p : HP) (on : Bool) (s : State) : Res :=
  answerAll (if !instAt fn.val p.val s || !linkUp p.val s then s
    else if cfgHeld fn.val p.val s then holdCfg fn.val p.val false (.write 0xD3 1 (if on then 1 else 0)) s
    else priEnable fn.val p.val on s)

/-- A write of the power state of an instance (R108): D0 or D3hot; other values are no state of Table 5-4. -/
def powerState (fn p v : Nat) (s : State) : State :=
  if v ≠ 0 && v ≠ 3 then s
  else
    let c := cfgDw fn p 0x11 s
    instChanged fn p (setCfg fn p 0x11 ((c &&& ~~~3) ||| BitVec.ofNat 32 v) s)

/-- POWER_STATE_CHANGE (R108). -/
def execPowerStateChange (fn : Fn) (p : HP) (hot : Bool) (s : State) : Res :=
  let v := if hot then 3 else 0
  answerAll (if !instAt fn.val p.val s || !linkUp p.val s || (mgetD s.ep.insts (4 * fn.val + p.val) {}).cold then s
    else if cfgHeld fn.val p.val s then holdCfg fn.val p.val false (.write 0x11 1 (BitVec.ofNat 32 v)) s
    else powerState fn.val p.val v s)

/-! ### Function-level reset (R111 to R113) -/

/-- Bytes that a host-window read or AtomicOp returns. -/
def winLen (w : WinRead) (s : State) : Nat :=
  match mget s.que.reqs w.id with
  | some r => (match r.op with
    | .load _ n => n
    | .atomic _ o => o.width
    | _ => 0)
  | none => 0

/-- Host-window reads of a function in flight complete with zero data when it resets (R104, R112). -/
def winReadsEnd (fn : Nat) (s : State) : State :=
  let mine := s.ep.winReads.filter fun w => w.fn == fn
  each mine (fun w s => cplRead w.port fn w.tag w.attr (List.replicate (winLen w s) 0) s)
    (modEp (fun x => { x with winReads := x.winReads.filter fun w => w.fn != fn }) s)

/-- Cycle 0 of a function-level reset: generations rise, admission stops, and what the function has waiting at the
ports is discarded. A second one during a reset starts nothing. -/
def flrStart (fn p : Nat) (s : State) : State :=
  if (func fn s).flrBusy then s
  else
    let s := auditO .reset 4 fn ((func fn s).env.getD noEnv) false [BitVec.ofNat 64 fn] s
    let s := dropLanding fn (winReadsEnd fn s)
    let s := modFunc fn (fun f => { f with
      gen := (f.gen + 1) % 65536, flrBusy := true, flrPort := p, winActive := false }) s
    let s := each (ctxsOfFn fn s) (fun c s => destroyCtx c none s) s
    let s := each ((s.que.queues.filter fun e => e.2.ctx.isNone && e.2.fn == fn).map (·.1)) dropQueue s
    let port (h : HostPort) : HostPort := { h with
      uq := h.uq.filter fun e => e.fn != fn, replay := h.replay.filter fun e => e.fn != fn }
    let s := modEp (fun x => { x with
      ports := mmap (fun _ h => port h) x.ports
      parked := x.parked.filter fun e => e.fn != fn
      replays := x.replays.filter fun r => r.fn != fn
      moves := x.moves.filter fun m => m.fn != fn }) s
    if fn = 0 then vfApply p (setCfg 0 p 0xC2 0 s) else s

/-- FUNCTION_LEVEL_RESET (R111, R112): Initiate FLR is written through an instance. -/
def execFunctionLevelReset (fn : Fn) (p : HP) (s : State) : Res :=
  answerAll (if instAt fn.val p.val s && linkUp p.val s && s.spl.ended.contains 5 then flrStart fn.val p.val s else s)

/-- A configuration write with its effects. -/
def cfgWrite (fn p dw : Nat) (be : BitVec 4) (v : W32) (s : State) : State :=
  let m := BitVec.ofNat 32 (ofBytes ((List.range 4).map fun i => if be.toNat / 2 ^ i % 2 == 1 then 0xFF else 0))
  let w := (cfgDw fn p dw s &&& ~~~m) ||| (v &&& m)
  let old := cfgDw fn p dw s
  if dw = 0x11 then
    let s := if (v &&& m).toNat / 2 ^ 15 % 2 = 1 then
        modEp (fun x => { x with
          insts := mmod x.insts (4 * fn + p) fun i => { i with pmeStatus := false }
          pmeOut := x.pmeOut.filter (· != 4 * fn + p) }) s else s
    let s := setCfg fn p dw ((w &&& ~~~3) ||| (old &&& 3)) s
    powerState fn p (w.toNat % 4) s
  else if dw = 0xD3 && m.toNat % 2 = 1 then priEnable fn p (w.toNat % 2 = 1) s
  else
    let s := setCfg fn p dw (w &&& cfgMask fn dw) s
    if dw = 1 then instChanged fn p s
    else if dw = 0x2C then instChanged fn p s
    else if fn = 0 && (dw = 0xC2 || dw = 0xC4) then vfApply p (portChanged p s)
    else if dw = 0x16 && (v &&& m).toNat / 2 ^ 15 % 2 = 1 then flrStart fn p s
    else s

/-- The value a configuration read returns: status bits beside the written ones. While the instance resets it is the
value after the reset (R112). -/
def cfgRead (fn p dw : Nat) (s : State) : W32 :=
  let f := func fn s
  if cfgHeld fn p s then cfgReset fn p dw s
  else
    let v := cfgDw fn p dw s
    if dw = 0x11 && (mgetD s.ep.insts (4 * fn + p) {}).pmeStatus then v ||| 0x8000
    else if dw = 0x16 && ((hport p s).nps.any fun n => n.fn == fn && npFresh n s) then v ||| 0x200000
    else if dw = 0xD3 && f.priStopped then v ||| 0x10000
    else v

/-- CONFIG_REQUEST's effect (R80, R95, R100, R112): Request Retry Status before phase 5 ends; a diagnostic link and
recovery posture show the physical function only. -/
def configReq (p fn : Nat) (r : CfgReq) (s : State) : State :=
  let h := hport p s
  if (h.link ≠ 2 && h.link ≠ 3) || (mgetD s.ep.insts (4 * fn + p) {}).cold then s
  else if !s.spl.recovery && !s.spl.ended.contains 5 then
    tell p (.cfgRetry fn) s
  else if !instAt fn p s || (h.link = 3 && fn ≠ 0) then tell p (.unsupported fn 0 0) s
  else match r with
  | .read dw => tell p (.cfgCpl fn (cfgRead fn p dw.val s)) s
  | .write dw be v =>
    if cfgHeld fn p s then holdCfg fn p true r s
    else cfgWrite fn p dw.val be v (tell p (.cfgCpl fn 0) s)

/-- A configuration write held during a reset is applied. -/
def heldReq (fn : Nat) (e : HeldCfg) (s : State) : State :=
  if e.told then configReq e.port fn e.req s
  else match e.req with
  | .write dw be v => if instAt fn e.port s then cfgWrite fn e.port dw.val be v s else s
  | .read _ => s

/-- CONFIG_REQUEST. -/
def execConfigRequest (p : HP) (fn : Fn) (r : CfgReq) (s : State) : Res := answerAll (configReq p.val fn.val r s)

/-- A register returns to its reset value. -/
def regReset (key : Nat) (s : State) : State := { s with reg := { s.reg with val := mdel s.reg.val key } }

/-- FLR_COMPLETE's effect (R112, Table 5-5): once every context of the function is gone. -/
def flrDone (fn : Nat) (s : State) : State :=
  let f := func fn s
  if !f.flrBusy || !(ctxsOfFn fn s).isEmpty then s
  else
    let s := modTr (fun t => { t with prgs := t.prgs.filter fun g => g.fn != fn }) s
    let s := modQue (fun q => { q with rills := q.rills.filter fun e => !(rillOf fn s).contains e.1 }) s
    let s := modEp (fun x => { x with
      msix := x.msix.filter fun e => e.1 / 2048 != fn
      msixPending := x.msixPending.filter fun k => k / 2048 != fn
      mods := x.mods.filter fun e => e.1 / 2048 != fn
      insts := mmod x.insts (4 * fn + f.flrPort) fun i => { i with cfg := [], pmeStatus := false } }) s
    let s := each [fQUE_ADMIN_RING, fQUE_ADMIN_CPL, fQUE_ADMIN_CFG, fQUE_ADMIN_CTRL] (fun r s => regReset (fnKey fn r) s) s
    let mod (k : Nat) : Bool := fnKey fn fSYN_MOD ≤ k && k < fnKey fn fSYN_MOD + 8 * 2048
    let s := { s with reg := { s.reg with val := s.reg.val.filter (fun e => !mod e.1), next := s.reg.next.filter fun e => !mod e.1 } }
    let s := modFunc fn (fun f => { f with flrBusy := false, heldCfg := [], adminErr := false }) s
    let s := each ((List.range 4).filter fun q => instAt fn q s && linkUp q s) (fun q s => tell q (.frs fn) s) s
    let s := setEvent rEPT_EVENT 16 s
    let s := each f.heldCfg (heldReq fn) s
    fnChanged fn s

/-- FLR_COMPLETE (R113). -/
def execFlrComplete (fn : Fn) (s : State) : Res := answerAll (flrDone fn.val s)

/-! ### MSI-X table (R106) -/

/-- Write one double word of a table entry: 0 and 1 the address, 2 the data, 3 Vector Control. -/
def msixPut (dw : Nat) (v : W32) (e : MsixEntry) : MsixEntry :=
  if dw = 0 then { e with addr := BitVec.ofNat 64 (e.addr.toNat / 2 ^ 32 * 2 ^ 32 + v.toNat) }
  else if dw = 1 then { e with addr := BitVec.ofNat 64 (e.addr.toNat % 2 ^ 32 + v.toNat * 2 ^ 32) }
  else if dw = 2 then { e with data := v }
  else { e with masked := v.toNat % 2 = 1 }

/-- MSIX_TABLE_WRITE (R105, R106): beyond the function's count it is discarded; an unmask sends what is pending. -/
def msixWrite (p fn vec dw : Nat) (v : W32) (s : State) : State :=
  if !fnOpen p fn s || (func fn s).vectors ≤ vec then s
  else
    let k := vecKey fn vec
    let s := modEp (fun x => { x with msix := mset x.msix k (msixPut dw v (mgetD x.msix k {})) }) s
    if s.ep.msixPending.contains k && !(mgetD s.ep.msix k {}).masked then sendMsix fn vec s else s

/-- MSIX_TABLE_WRITE: a 32-bit write of double word `dw` of an entry. -/
def execMsixTableWrite (p : Arrival) (fn : Fn) (vec : Fin 2048) (dw : Fin 4) (v : W32) (s : State) : Res :=
  answerAll (posted p.tlp p.port.val (msixWrite p.port.val fn.val vec.val dw.val v) s)

/-! ### Vector counts and HDM maps -/

/-- Vectors that virtual functions hold of the pool. -/
def vecUsed (s : State) : Nat :=
  ((s.ep.funcs.filter fun e => e.1 ≠ 0 && (e.2.env.isSome || e.2.vectors ≠ 1)).map (·.2.vectors)).foldl (· + ·) 0

/-- VEC_ALLOC's effect (R105). -/
def vecAllocDo (p : Nat) (v : W32) (s : State) : State :=
  let w : W64 := BitVec.ofNat 64 v.toNat
  let s := signWrite rEPT_VEC_ALLOC w s
  let fn := (selGet p rEPT_FUNC_SEL s).toNat
  let n := v.toNat % 4096
  let en := (List.range 4).any fun q => instAt fn q s && instMsixEn fn q s
  let others := vecUsed s - (if (func fn s).env.isSome || (func fn s).vectors ≠ 1 then (func fn s).vectors else 0)
  if fn = 0 || 256 < fn || n = 0 || 2048 < n || en || 65536 < 2048 + others + n then
    modEp (fun x => { x with vecRefused := true }) s
  else
    let keep (k : Nat) : Bool := k / 2048 ≠ fn || k % 2048 < n
    modFunc fn (fun f => { f with vectors := n }) (modEp (fun x => { x with
      vecRefused := false
      msix := x.msix.filter fun e => keep e.1
      msixPending := x.msixPending.filter keep
      mods := x.mods.filter fun e => keep e.1 }) s)

/-- VEC_ALLOC (R105): EPT_VEC_ALLOC is written, for the function that the port has selected; audited (R414). -/
def execVecAlloc (p : HP) (v : W32) (s : State) : Res :=
  answer (if mgrOpen p.val rEPT_VEC_ALLOC s then
    heldWrite rEPT_VEC_ALLOC (BitVec.ofNat 64 v.toNat) (.vecAlloc p v) (vecAllocDo p.val v) s else s)

/-- HDM_MAP_WRITE's effect (R97): while the host holds the decoder committed, a change of ENV or OFFSET_GIB of a valid
map is discarded; otherwise the value takes effect at the next edge. -/
def hdmDo (n : Nat) (v : W64) (s : State) : State :=
  let k := rEPT_HDM_MAP + 8 * n
  let s := signWrite k v s
  let old := regRaw k s
  let same := fld old 1 8 == fld v 1 8 && fld old 32 13 == fld v 32 13
  let v := v &&& 0x00001FFF000001FF
  if (mget s.ep.hdm n).isSome && bit old 0 && !same then setEvent rEPT_EVENT 18 s
  else modEp (fun x => { x with hdmNext := mset x.hdmNext n v }) (regTook k v s)

/-- HDM_MAP_WRITE (R97), audited (R414). -/
def execHdmMapWrite (p : HP) (n : Fin 16) (w : RegW) (s : State) : Res :=
  answer (match mgrOffer p.val (rEPT_HDM_MAP + 8 * n.val) w s with
  | (some v, s) => heldWrite (rEPT_HDM_MAP + 8 * n.val) v (.hdmMapWrite p n (.full v)) (hdmDo n.val v) s
  | (none, s) => s)

/-- HDM maps written in the tick take effect at the edge. -/
def hdmEdge (s : State) : State :=
  let l := s.ep.hdmNext
  each l (fun e s => setRaw (rEPT_HDM_MAP + 8 * e.1) e.2 s) (modEp (fun x => { x with hdmNext := [] }) s)

/-! ### DOE and IDE (R116 to R118) -/

/-- An SPDM exchange sets a session up, or ends it (log 23). -/
def spdmSession (p : Nat) (o : Option Bool) (s : State) : State := modPort p (fun h => { h with spdm := o.getD h.spdm }) s

/-- DOE_REQUEST's effect: discovery lists Discovery, SPDM, secured SPDM; an SPDM answer is stood for by the identity
digest (log 23). IDE_KM programs keys, starts and stops streams, inside an SPDM session. -/
def doe (p : Nat) (r : DoeReq) (s : State) : State :=
  if (hport p s).link ≠ 2 || !instAt 0 p s then s
  else match r with
  | .discovery i => tell p (.doe (if i < 3 then [1, i, if i = 2 then 0 else i + 1] else [0xFFFF])) s
  | .spdm _ o => tell p (.doe [0x12, Config.identityDigest]) (spdmSession p o s)
  | .securedSpdm _ o => tell p (.doe [0x12, Config.identityDigest]) (spdmSession p o s)
  | .ideKeyProg st k => if !(hport p s).spdm then s
    else tell p (.doe [3]) (auditO .keyEvent 4 0 noEnv false [BitVec.ofNat 64 st.val, 3, 0]
      (modPort p (fun h => { h with ideKeys := mset h.ideKeys st.val k }) s))
  | .ideGo st =>
    if (hport p s).spdm && (mget (hport p s).ideKeys st.val).isSome then
      tell p (.doe [5]) (portChanged p (
        let s := modPort p (fun h => { h with ideRun := insNat st.val h.ideRun, ideSecure := true }) s
        if (hport p s).st == .up || !linkUp p s then s else portUp p s))
    else s
  | .ideStop st => if !(hport p s).spdm then s
    else tell p (.doe [5]) (portChanged p (modPort p (fun h => { h with
      ideKeys := mdel h.ideKeys st.val, ideRun := h.ideRun.filter (· != st.val) }) s))
  | .other _ _ => s

/-- DOE_REQUEST (R116): through the physical function only. -/
def execDoeRequest (p : HP) (r : DoeReq) (s : State) : Res := answerAll (doe p.val r s)

/-- IDE_INTEGRITY_FAILURE (R118, R208): a level-2 fault of the port, the stream goes insecure, and the port is DOWN for
traffic until a new stream stands. -/
def execIdeIntegrityFailure (p : HP) (s : State) : Res :=
  answerAll (if ideUp p.val s then
    let s := setEvent rEPT_EVENT (12 + p.val) (raise (32 + p.val) .ideFail none none 0 s)
    portLost p.val .down (modPort p.val (fun h => { h with ideSecure := false, ideRun := [], ideKeys := [] }) s)
  else s)

/-! ### The admin queue (R125) -/

/-- ADMIN_ENABLE's effect: refused where a ring is not 4 KiB-aligned or K is outside 4 to 12. The admin queue takes a slot
of the queue pool, doorbell index 0, and fetches at most 64 commands per tick (R130). -/
def adminEnable (fn : Nat) (s : State) : State :=
  let ring := regRaw (fnKey fn fQUE_ADMIN_RING) s
  let cpl := regRaw (fnKey fn fQUE_ADMIN_CPL) s
  let k := regFld (fnKey fn fQUE_ADMIN_CFG) 0 5 s
  if bit (regRaw (fnKey fn fQUE_ADMIN_CTRL) s) 0 then s
  else if fld ring 0 12 ≠ 0 || fld cpl 0 12 ≠ 0 || k < 4 || 12 < k then
    modFunc fn (fun f => { f with adminErr := true }) s
  else
    let vec := regFld (fnKey fn fQUE_ADMIN_CFG) 16 11 s
    let s := each ((s.que.queues.filter fun e => e.2.ctx.isNone && e.2.fn == fn).map (·.1)) dropQueue s
    match takeSlot 65536 s.que.queSlots with
    | none => modFunc fn (fun f => { f with adminErr := true }) s
    | some (i, sl) =>
      let q : Queue := { ctx := none, fn := fn, ring := ring.toNat, cpl := cpl.toNat, k := k, fetchMax := 64, vector := vec, db := 0 }
      let s := modQue (fun x => { x with queSlots := sl, queues := mset x.queues i q }) s
      modFunc fn (fun f => { f with adminErr := false }) (setRaw (fnKey fn fQUE_ADMIN_CTRL) 1 s)

/-- ADMIN_ENABLE (R125): QUE_ADMIN_CTRL.ENABLE is written 1 through a function's page. -/
def execAdminEnable (p : HP) (fn : Fn) (s : State) : Res :=
  answerAll (if fnOpen p.val fn.val s then adminEnable fn.val s else s)

end Sys2Proof.Machine
end

