-- ==== Sys2Proof/Machine/HostIn.lean ====
section
/-! DEFINITION. What hosts send to the block's memory and tables: doorbells (R128, R129), Rill writes (R134), the host
window (R183 to R186), the placement aperture (R187 to R190), ATS and PRI traffic (R163 to R169). -/
namespace Sys2Proof.Machine

/-! ### Doorbells -/

/-- The value with which a doorbell write takes effect, if it does (R11): a missing lower half is the TAIL or CHEAD last
recorded. -/
def doorbellTake (p key last : Nat) (w : RegW) (s : State) : Option W64 × State :=
  let hk := 4 * key + p
  match w with
  | .full v => (some v, s)
  | .lower v => (none, { s with reg := { s.reg with half := mset s.reg.half hk v } })
  | .upper u =>
    let lo := match mget s.reg.half hk with
      | some h => h.toNat
      | none => last
    (some (BitVec.ofNat 64 (lo + u.toNat * 2 ^ 32)), { s with reg := { s.reg with half := mdel s.reg.half hk } })

/-- A doorbell write under R11, where the function's BARs are open; during a function-level reset it is discarded. -/
def doorbell (p fn slot which last : Nat) (w : RegW) (s : State) : State :=
  if !fnOpen p fn s then s
  else match doorbellTake p (doorbellKey fn slot which) last w s with
  | (some v, s) => land p fn (.ring fn slot which v) s
  | (none, s) => s

/-- SUBMIT_DOORBELL (R128, R129). -/
def execSubmitDoorbell (p : Arrival) (fn : Fn) (slot : Fin 32768) (w : RegW) (s : State) : Res :=
  let last := match slotQueue fn.val slot.val s with
    | some (_, q) => q.tail
    | none => 0
  answerAll (posted p.tlp p.port.val (doorbell p.port.val fn.val slot.val 0 last w) s)

/-- COMPLETION_DOORBELL (R129). -/
def execCompletionDoorbell (p : Arrival) (fn : Fn) (slot : Fin 32768) (w : RegW) (s : State) : Res :=
  let last := match slotQueue fn.val slot.val s with
    | some (_, q) => q.chead
    | none => 0
  answerAll (posted p.tlp p.port.val (doorbell p.port.val fn.val slot.val 1 last w) s)

/-! ### Rill -/

/-- A write to a Rill window reaches the function (R134). -/
def rillWrite (p fn slot off : Nat) (d : List Byte) (s : State) : State :=
  if fn = 0 || !fnOpen p fn s then s else land p fn (.rill fn slot off d) s

/-- RILL_WRITE (R134). -/
def execRillWrite (p : Arrival) (fn : Fn) (slot : Fin 1024) (off : BitVec 12) (data : List Byte) (s : State) : Res :=
  orHold (.rillWrite p fn slot off data) (posted p.tlp p.port.val (rillWrite p.port.val fn.val slot.val off.toNat data)) s

/-! ### The host window (R183 to R186) -/

/-- Size of a function's host window (Table 5-3). -/
def winSize (fn : Nat) : Nat := if fn = 0 then 2 ^ 29 else 2 ^ 26

/-- WINDOW_SLIDE's effect (R183): with ENABLE the four checks, and the new window or ERROR; without it the window is
disabled. A warm that runs stops; WARM starts one (R186). -/
def slide (fn : Nat) (v : W64) (s : State) : State :=
  let s := setRaw (fnKey fn fDPA_WIN_CTL) (v &&& 0xFFFFFFFF00003FFF) s
  let base := fld (regRaw (fnKey fn fDPA_WIN_BASE) s) 0 57
  let c := fld v 0 12
  let ok := (match mget s.que.ctxs c with
    | some x => x.fn == fn && x.st == .active
    | none => false) && slotGen s.que.ctxSlots c == fld v 32 32 && base < 2 ^ 56 && base % winSize fn == 0
  if !bit v 12 then modFunc fn (fun f => { f with winActive := false, winError := false, warm := none }) s
  else if ok then modFunc fn (fun f => { f with
    winActive := true, winError := false, winBase := base, winCtx := c, winGen := fld v 32 32
    warm := if bit v 13 then some 0 else none }) s
  else modFunc fn (fun f => { f with winActive := false, winError := true, warm := none }) s

/-- WINDOW_SLIDE (R183): the upper half of DPA_WIN_CTL is written. -/
def execWindowSlide (p : HP) (fn : Fn) (w : RegW) (s : State) : Res :=
  answerAll (match fnTake p.val fn.val fDPA_WIN_CTL w s with
  | (some v, s) => slide fn.val v s
  | (none, s) => s)

/-- A function's window request in its context's default class (log 24). -/
def winReq (p fn tag off : Nat) (read : Bool) (op : Nat → ReqOp) (s : State) : Req :=
  let f := func fn s
  { who := .window p fn tag read, fn := fn, env := ctxEnv f.winCtx s
    ident := { ctx := some f.winCtx, gen := f.winGen, cls := (match mget s.que.ctxs f.winCtx with
      | some x => x.defCls
      | none => 0) }
    op := op (f.winBase + off) }

/-- An access while the window is disabled is counted (R184). -/
def winDropped (fn : Nat) (s : State) : State := modFunc fn (fun f => { f with winDropped := satAdd 16 f.winDropped 1 }) s

/-- HOST_WINDOW_READ's effect (R104, R184, R185): n bytes at an offset. -/
def windowRead (p fn off n tag : Nat) (attr : BitVec 3) (s : State) : State :=
  if !readArrives p fn s || winSize fn < off + n then s
  else if !fnOpen p fn s then cplRead p fn tag attr (List.replicate n 0) s
  else if !(func fn s).winActive then cplRead p fn tag attr (List.replicate n 0) (winDropped fn s)
  else
    let id := s.que.nextReq
    newReq (winReq p fn tag off true (fun va => .load va n) s)
      (modEp (fun x => { x with winReads := x.winReads ++ [⟨id, p, fn, tag, attr⟩] }) s)

/-- HOST_WINDOW_READ: `len` is the number of bytes less 1. -/
def execHostWindowRead (p : Arrival) (fn : Fn) (off : BitVec 29) (len : Fin 4096) (tag : BitVec 14) (s : State) : Res :=
  answerAll (nonPosted p.tlp p.port.val fn.val tag.toNat (windowRead p.port.val fn.val off.toNat (len.val + 1) tag.toNat p.tlp.attr) s)

/-- HOST_WINDOW_WRITE's effect (R184). -/
def windowWrite (p fn off : Nat) (d : List Byte) (s : State) : State :=
  if !fnOpen p fn s || winSize fn < off + d.length || d.isEmpty then s
  else if !(func fn s).winActive then winDropped fn s
  else newReq (winReq p fn 0 off false (fun va => .store va d) s) (count 7 1 p d.length s)

/-- HOST_WINDOW_WRITE. -/
def execHostWindowWrite (p : Arrival) (fn : Fn) (off : BitVec 29) (data : List Byte) (s : State) : Res :=
  orHold (.hostWindowWrite p fn off data) (posted p.tlp p.port.val (windowWrite p.port.val fn.val off.toNat data)) s

/-- A host's AtomicOp (R94, R283): FetchAdd, Swap and CAS of 4 or 8 bytes, CAS also of 16. -/
def hostAtom (kind w : Nat) (x y : BitVec 128) : AtomOp :=
  { aop := if kind = 0 then 2 else if kind = 1 then 0 else 1
    width := if w = 0 then 4 else if w = 1 then 8 else 16
    fmt := 0, operand := x, compare := y, noret := false }

/-- HOST_WINDOW_ATOMIC's effect (R184): an operation outside Table 5-1, and any while the function's BARs are not open,
is Unsupported Request; while the window is disabled it is discarded, and a completion of zeros ends it (log 25). -/
def windowAtomic (p fn off kind w : Nat) (x y : BitVec 128) (tag : Nat) (attr : BitVec 3) (s : State) : State :=
  let o := hostAtom kind w x y
  if !readArrives p fn s || winSize fn < off + o.width then s
  else if !fnOpen p fn s || (w = 2 && kind ≠ 2) || 3 ≤ w then tell p (.unsupported fn tag attr) s
  else if !(func fn s).winActive then cplRead p fn tag attr (List.replicate o.width 0) (winDropped fn s)
  else
    let id := s.que.nextReq
    newReq (winReq p fn tag off true (fun va => .atomic va o) s)
      (modEp (fun z => { z with winReads := z.winReads ++ [⟨id, p, fn, tag, attr⟩] }) s)

/-- HOST_WINDOW_ATOMIC: kind 0 FetchAdd, 1 Swap, 2 CAS; width code 0, 1, 2 for 4, 8, 16 bytes. -/
def execHostWindowAtomic (p : Arrival) (fn : Fn) (off : BitVec 29) (kind width : Fin 3) (operand compare : BitVec 128)
    (tag : BitVec 14) (s : State) : Res :=
  orHold (.hostWindowAtomic p fn off kind width operand compare tag)
    (nonPosted p.tlp p.port.val fn.val tag.toNat
      (windowAtomic p.port.val fn.val off.toNat kind.val width.val operand compare tag.toNat p.tlp.attr)) s

/-- WINDOW_READ_LATE's effect (R185): 3,230 cycles after its arrival the read completes with EP; its data is discarded. -/
def windowLate (p fn tag : Nat) (s : State) : State :=
  match s.ep.winReads.find? fun w => w.port == p && w.fn == fn && w.tag == tag with
  | none => s
  | some w =>
    let n := winLen w s
    let s := modEp (fun x => { x with winReads := x.winReads.filter fun y => y.id != w.id }) s
    let s := modFunc fn (fun f => { f with winLate := satAdd 16 f.winLate 1 }) s
    tell p (.cpl fn tag (List.replicate n 0) true w.attr) s

/-- WINDOW_READ_LATE. -/
def execWindowReadLate (p : HP) (fn : Fn) (tag : BitVec 14) (s : State) : Res :=
  answerAll (windowLate p.val fn.val tag.toNat s)

/-! ### The placement aperture (R187 to R190) -/

/-- PLACEMENT_WRITE's effect: the checks of Table 8-1 in order; the last is the translation of the write itself. -/
def placeWrite (p off : Nat) (pasid : Option Nat) (d : List Byte) (s : State) : State :=
  let w := off / 2 ^ 20
  let hit := s.que.regions.find? fun e => e.2.win ≤ w && w < e.2.win + e.2.nwin
  if !barOpen p 0 s || s.spl.recovery || d.isEmpty then s
  else if !mgrPort p s then plcRefused p (hit.bind fun e => ctxEnv e.2.ctx s) s
  else
    match hit with
    | none => plcRefused p none s
    | some (i, r) =>
      let env := ctxEnv r.ctx s
      let o := off - r.win * 2 ^ 20
      if pasid ≠ some r.key || r.len < o + d.length then plcRefused p env s
      else match mget s.que.objs r.obj, mget s.que.ctxs r.ctx with
      | some ob, some x =>
        newReq { who := .inbound p, fn := x.fn, env := env
                 ident := { ctx := some r.ctx, gen := slotGen s.que.ctxSlots r.ctx, cls := x.defCls }
                 op := .place (objVa ob s + r.off + o) d i } (count 7 1 p d.length s)
      | _, _ => plcRefused p env s

/-- PLACEMENT_WRITE. -/
def execPlacementWrite (p : Arrival) (off : BitVec 36) (pasid : Option (BitVec 20)) (data : List Byte) (s : State) : Res :=
  orHold (.placementWrite p off pasid data) (posted p.tlp p.port.val (placeWrite p.port.val off.toNat (pasid.map (·.toNat)) data)) s

/-- PLACEMENT_READ (R190): a read completes with zero data, an AtomicOp with Unsupported Request. -/
def execPlacementRead (p : Arrival) (len : Fin 4096) (atomic : Bool) (tag : BitVec 14) (s : State) : Res :=
  answer (nonPosted p.tlp p.port.val 0 tag.toNat (fun s =>
    if !readArrives p.port.val 0 s then s
    else if atomic then tell p.port.val (.unsupported 0 tag.toNat p.tlp.attr) s
    else cplRead p.port.val 0 tag.toNat p.tlp.attr (List.replicate (len.val + 1) 0) s) s)

/-! ### ATS and PRI (R163 to R169) -/

/-- ATS_COMPLETION (R163). -/
def execAtsCompletion (p : HP) (tag : BitVec 14) (r : AtsRes) (s : State) : Res := answerAll (atsDone p.val tag.toNat r s)

/-- A request's host pages meet an invalidated range. -/
def reqTouches (r : Req) (pasid lo len : Nat) (s : State) : Bool :=
  (match r.ident.ctx with
  | some c => (match mget s.que.ctxs c with
    | some x => x.pasid == pasid
    | none => false)
  | none => false) && (readSpans r.op ++ writeSpans r.op ++ atomSpans r.op).any fun x =>
    x.1 < 2 ^ 56 + lo + len && 2 ^ 56 + lo < x.1 + x.2

/-- Reads under an invalidated range whose data is outstanding, on a port or in a replay. -/
def invalReads (pasid lo len : Nat) (s : State) : List (Nat × Nat) :=
  let ns := (List.range 4).flatMap (fun q => (hport q s).nps) ++ s.ep.replays.flatMap (·.nps)
  ns.filterMap fun n => match n.purpose with
    | .access id off => (match mget s.que.reqs id with
      | some r => if reqTouches r pasid lo len s then some (id, off) else none
      | none => none)
    | _ => none

/-- ATS_INVALIDATE_REQUEST's effect (R169): the filter entry, then the reads under the range that the completion must
wait for. A request without a PASID matches nothing. -/
def invalidate (p fn : Nat) (pasid : Option Nat) (lo len itag : Nat) (s : State) : State :=
  if !instAt fn p s || !linkUp p s || (s.tr.invals.any fun v => v.port == p && v.itag == itag) then s
  else match pasid with
  | none => modTr (fun t => { t with
      invals := t.invals ++ [⟨p, fn, itag, 2 ^ 20, t.nextFilt, [], true, []⟩], nextFilt := t.nextFilt + 1 }) s
  | some a =>
    let i := s.tr.nextFilt
    let (_, s) := filtAdd false (.host a lo len) true true s
    let s := modTr (fun t => { t with nextFilt := max t.nextFilt (i + 1) }) s
    modTr (fun t => { t with invals := t.invals ++ [⟨p, fn, itag, a, i, invalReads a lo len s, false, []⟩] }) s

/-- ATS_INVALIDATE_REQUEST (R169): host page and number of pages. -/
def execAtsInvalidateRequest (p : Arrival) (fn : Fn) (pasid : Option (BitVec 20)) (page : BitVec 52) (pages : BitVec 52)
    (itag : Fin 32) (s : State) : Res :=
  answerAll (posted p.tlp p.port.val (invalidate p.port.val fn.val (pasid.map (·.toNat)) (page.toNat * 4096) (pages.toNat * 4096) itag.val) s)

/-- INVALIDATE_COMPLETION's effect: nothing is waited for any more; the filter entry is released. -/
def invalDone (p itag : Nat) (s : State) : State :=
  match s.tr.invals.find? fun v => v.port == p && v.itag == itag with
  | none => s
  | some v =>
    if !v.flushed || !needMet v.fl s then s
    else
      let free (f : FiltEnt) : FiltEnt := if f.id = v.filt then { f with hold := false } else f
      let s := modTr (fun t => { t with
        invals := t.invals.filter fun x => !(x.port == p && x.itag == itag), filter := t.filter.map free }) s
      sendU p ⟨1, v.fn, none, .invalCpl v.fn itag, 1, none⟩ (filtRelease s)

/-- INVALIDATE_COMPLETION (R169). -/
def execInvalidateCompletion (p : HP) (itag : Fin 32) (s : State) : Res := answerAll (invalDone p.val itag.val s)

/-- PRG_SEND (R164): waiting groups go as the limits allow. -/
def execPrgSend (s : State) : Res := answerAll (prgSendAll s)

/-- PRG_RESPONSE (R164): a group of a function, by its index, is answered. -/
def execPrgResponse (p : Arrival) (fn : Fn) (idx : BitVec 9) (r : PrgRes) (s : State) : Res :=
  answerAll (posted p.tlp p.port.val (fun s =>
    if linkUp p.port.val s && instAt fn.val p.port.val s then prgSendAll (prgDone fn.val idx.toNat r s) else s) s)

/-- PRI_TIMEOUT's effect (R165). -/
def priTimeout (fn idx : Nat) (s : State) : State :=
  match s.tr.prgs.find? fun g => g.fn == fn && g.index % 512 == idx && g.out ≠ 0 with
  | none => s
  | some g =>
    if g.ticks < (regRaw rTRN_PRI_TIMEOUT s).toNat then s
    else
      let s := modTr (fun t => { t with prgs := t.prgs.filter fun x => x.index != g.index }) s
      prgSendAll (setEvent rTRN_EVENT 3 (prgFails g 12 s))

/-- PRI_TIMEOUT (R165): a group has been unanswered for TRN_PRI_TIMEOUT ticks. -/
def execPriTimeout (fn : Fn) (idx : BitVec 9) (s : State) : Res := answerAll (priTimeout fn.val idx.toNat s)

end Sys2Proof.Machine
end

