-- ==== Sys2Proof/Machine/CmdRows.lean ====
section
/-! DEFINITION. Commands as they arrive from their rings (R126 to R133), the ends of aborts, destructions and
quarantines (R138 to R140), fills (R153, R155), class descriptors and admission (R196 to R199), fence actions (R244 to
R247), waits, mirrors and moderation. -/
namespace Sys2Proof.Machine

/-! ### What a command row brings -/

/-- Queue, header and body of a command that comes from a ring (Table 6-4); none for every other row, and for a NOP row
with an opcode that is another row's (log 27). -/
def commandOf : Instr → Option (Nat × CmdHdr × CmdBody)
  | .nop q h op => if op = 0 then some (q.toNat, h, .nop)
    else if op.toNat ≤ 11 || (0x40 ≤ op.toNat && op.toNat ≤ 0x4D) then none else some (q.toNat, h, .unknown op)
  | .dispatch q h en ar n first items a => some (q.toNat, h, .dispatch en ar n first items a)
  | .copy q h src dst len a b => some (q.toNat, h, .copy src dst len a b)
  | .fill q h dst len pat a => some (q.toNat, h, .fill dst len pat a)
  | .inlineWrite q h dst len a d => some (q.toNat, h, .inlineWrite dst len a d)
  | .convert q h src dst n a b r f k => some (q.toNat, h, .convert src dst n a b r f k)
  | .reduce q h src dst n a op m r p => some (q.toNat, h, .reduce src dst n a op m r p)
  | .fenceSignal q h f v => some (q.toNat, h, .fenceSignal f v)
  | .fenceWait q h f v t => some (q.toNat, h, .fenceWait f v t)
  | .alloc q h n a f => some (q.toNat, h, .alloc n a f)
  | .free q h o => some (q.toNat, h, .free o)
  | .query q h a b => some (q.toNat, h, .query a b)
  | .ctxCreate q h p r d => some (q.toNat, h, .ctxCreate p r d)
  | .ctxDestroy q h c => some (q.toNat, h, .ctxDestroy c)
  | .ctxResume q h c => some (q.toNat, h, .ctxResume c)
  | .ctxReclaim q h i => some (q.toNat, h, .ctxReclaim i)
  | .queueCreate q h c r l k f v p => some (q.toNat, h, .queueCreate c r l k f v p)
  | .queueDestroy q h x => some (q.toNat, h, .queueDestroy x)
  | .queueStop q h x => some (q.toNat, h, .queueStop x)
  | .queueStart q h x => some (q.toNat, h, .queueStart x)
  | .fenceCreate q h c i sc m => some (q.toNat, h, .fenceCreate c i sc m)
  | .fenceDestroy q h f => some (q.toNat, h, .fenceDestroy f)
  | .regionRegister q h o off len r => some (q.toNat, h, .regionRegister o off len r)
  | .regionRevoke q h r => some (q.toNat, h, .regionRevoke r)
  | .rillBind q h sl core c => some (q.toNat, h, .rillBind sl core c)
  | .rillUnbind q h sl => some (q.toNat, h, .rillUnbind sl)
  | _ => none

/-- Ring entries of a command (R132). -/
def entriesOf (h : CmdHdr) (b : CmdBody) : Nat := if isInline b then 1 + h.ext.val else 1

/-- The header of a command with what its fetches have brought as poison (R130): of its own entry, and of its extension
entries. -/
def hdrWith (l : List Fetched) (h : CmdHdr) : CmdHdr :=
  { h with
    poisonBody := h.poisonBody || (l.take 1).any (·.badBody) || (l.drop 1).any fun e => e.badHdr || e.badBody || e.badSig
    poisonSig := h.poisonSig || (l.take 1).any (·.badSig) }

/-- A command as its fetch brings it, at HEAD of its queue. -/
def cmdOf (q : Nat) (k : Queue) (h : CmdHdr) (b : CmdBody) (s : State) : Cmd :=
  { queue := q, pos := k.head, body := b, hdr := hdrWith (k.entries.take (entriesOf h b)) h
    ctxGen := (match k.ctx with
      | some x => slotGen s.que.ctxSlots x
      | none => (func k.fn s).gen) }

/-- The first n entries of a queue have arrived. -/
def arrived (n : Nat) (k : Queue) : Bool := n ≤ k.entries.length && (k.entries.take n).all (·.here)

/-- HEAD passes n entries; extension entries that were counted against FETCH_MAX are not (R130). -/
def passEntries (n : Nat) (k : Queue) : Queue :=
  { k with head := (k.head + n) % 2 ^ 32, entries := k.entries.drop n, wait := 0
           left := k.left + (((k.entries.take n).drop 1).filter (·.paid)).length }

/-- HEAD passes a command's entries and the command is in the table. -/
def enterCmd (q : Nat) (k : Queue) (h : CmdHdr) (b : CmdBody) (c : Cmd) (s : State) : State :=
  { s with que := { s.que with
    queues := mset s.que.queues q (passEntries (entriesOf h b) k)
    cmds := mset s.que.cmds s.que.nextCmd c, nextCmd := s.que.nextCmd + 1 } }

/-- The command as it starts, with its deadline count (R37), and the state with it in the table. -/
def startedCmd (q : Nat) (k : Queue) (h : CmdHdr) (b : CmdBody) (s : State) : Cmd :=
  { cmdOf q k h b s with st := .running, dlLeft := h.deadline.toNat }
def started (q : Nat) (k : Queue) (h : CmdHdr) (b : CmdBody) (s : State) : State := enterCmd q k h b (startedCmd q k h b s) s

/-- A command that arrives for a queue starts at once (R126, R130, R131): its entries are all the queue has fetched,
they have arrived without poison, no doorbell of the queue waits for service, the queue runs and has no other command,
nothing of the command is poison, and it passes the checks of admission. Trace is off. -/
abbrev startsAtOnce (q : Nat) (k : Queue) (h : CmdHdr) (b : CmdBody) (s : State) : Prop :=
  mget s.que.queues q = some k ∧ k.entries.length = entriesOf h b ∧
  (∀ e ∈ k.entries, e.here = true ∧ e.badHdr = false ∧ e.badBody = false ∧ e.badSig = false) ∧
  s.que.rung.contains q = false ∧ queueRuns k s = true ∧
  (∀ e ∈ s.que.cmds, e.2.queue ≠ q) ∧ h.poisonBody = false ∧ h.poisonSig = false ∧ regFld rOBS_TRACE_CTL 0 1 s = 0 ∧
  admitCheck (cmdOf q k h b s) (started q k h b s) = none

/-! ### Arrival of a command -/

/-- A command has been taken up: what may start does, and a queue with a recorded doorbell fetches on. -/
def afterEntry (q : Nat) (s : State) : State :=
  let s := headCheck q (advance q 64 s)
  if s.que.rung.contains q then fetchMore q s else s

/-- A fetched descriptor is taken up at HEAD (R130, R132). An INLINE_WRITE waits there until TAIL covers its extension
entries and all of them have arrived; what had been fetched behind it before TAIL covered them is fetched again (log
26). HEAD passes all its entries. -/
def arriveCmd (q : Nat) (h : CmdHdr) (b : CmdBody) (s : State) : State :=
  match mget s.que.queues q with
  | none => s
  | some k =>
    let n := entriesOf h b
    if !arrived 1 k || (k.entries.take 1).any (·.badHdr) then s
    else if arrived n k then afterEntry q (enterCmd q k h b (cmdOf q k h b s) s)
    else if dist32 k.upTo k.head < n then modQueue q (fun k => { keepEntries 1 k with wait := n }) s
    else fetchMore q (modQueue q (fun k => { k with wait := n }) s)

/-- NOP (R133). An opcode that Table 6-4 does not list comes the same way and completes with INVALID_OP (R126); one that it
lists is another row's command (log 27). -/
def execNop (q : BitVec 16) (h : CmdHdr) (op : Byte) (s : State) : Res :=
  answerAll (if op = 0 then arriveCmd q.toNat h .nop s
    else if op.toNat ≤ 11 || (0x40 ≤ op.toNat && op.toNat ≤ 0x4D) then s
    else arriveCmd q.toNat h (.unknown op) s)

/-- DISPATCH (R66, R214). -/
def execDispatch (q : BitVec 16) (h : CmdHdr) (entry args : W64) (cores first : BitVec 16) (items : W32) (arg0 : W64)
    (s : State) : Res :=
  answerAll (arriveCmd q.toNat h (.dispatch entry args cores first items arg0) s)

/-- COPY (R193). -/
def execCopy (q : BitVec 16) (h : CmdHdr) (src dst len : W64) (srcHint dstHint : Byte) (s : State) : Res :=
  answerAll (arriveCmd q.toNat h (.copy src dst len srcHint dstHint) s)

/-- FILL (R192). -/
def execFill (q : BitVec 16) (h : CmdHdr) (dst len pattern : W64) (hint : Byte) (s : State) : Res :=
  answerAll (arriveCmd q.toNat h (.fill dst len pattern hint) s)

/-- INLINE_WRITE (R132). -/
def execInlineWrite (q : BitVec 16) (h : CmdHdr) (dst : W64) (len : BitVec 16) (hint : Byte) (data : List Byte) (s : State) :
    Res :=
  answerAll (arriveCmd q.toNat h (.inlineWrite dst len hint data) s)

/-- CONVERT (R302). -/
def execConvert (q : BitVec 16) (h : CmdHdr) (src dst : W64) (count : W32) (srcFmt dstFmt round flags : Byte) (srKey : W64)
    (s : State) : Res :=
  answerAll (arriveCmd q.toNat h (.convert src dst count srcFmt dstFmt round flags srKey) s)

/-- REDUCE (R316). -/
def execReduce (q : BitVec 16) (h : CmdHdr) (src dst : W64) (count : W32) (fmt op mode rsvd : Byte) (plan : W64) (s : State) :
    Res :=
  answerAll (arriveCmd q.toNat h (.reduce src dst count fmt op mode rsvd plan) s)

/-- FENCE_SIGNAL (R234). -/
def execFenceSignal (q : BitVec 16) (h : CmdHdr) (fence value : W64) (s : State) : Res :=
  answerAll (arriveCmd q.toNat h (.fenceSignal fence value) s)

/-- FENCE_WAIT (R235). -/
def execFenceWait (q : BitVec 16) (h : CmdHdr) (fence target : W64) (timeout : W32) (s : State) : Res :=
  answerAll (arriveCmd q.toNat h (.fenceWait fence target timeout) s)

/-- ALLOC (R141). -/
def execAlloc (q : BitVec 16) (h : CmdHdr) (size : W64) (alignLog2 flags : Byte) (s : State) : Res :=
  answerAll (arriveCmd q.toNat h (.alloc size alignLog2 flags) s)

/-- FREE (R138). -/
def execFree (q : BitVec 16) (h : CmdHdr) (object : W64) (s : State) : Res :=
  answerAll (arriveCmd q.toNat h (.free object) s)

/-- QUERY (R144, R404). -/
def execQuery (q : BitVec 16) (h : CmdHdr) (item index : BitVec 16) (s : State) : Res :=
  answerAll (arriveCmd q.toNat h (.query item index) s)

/-- CTX_CREATE (R150, R424). -/
def execCtxCreate (q : BitVec 16) (h : CmdHdr) (pasid : W32) (ptRoot : W64) (defClass : Byte) (s : State) : Res :=
  answerAll (arriveCmd q.toNat h (.ctxCreate pasid ptRoot defClass) s)

/-- CTX_DESTROY (R139). -/
def execCtxDestroy (q : BitVec 16) (h : CmdHdr) (ctx : W64) (s : State) : Res :=
  answerAll (arriveCmd q.toNat h (.ctxDestroy ctx) s)

/-- CTX_RESUME (R422). -/
def execCtxResume (q : BitVec 16) (h : CmdHdr) (ctx : W64) (s : State) : Res :=
  answerAll (arriveCmd q.toNat h (.ctxResume ctx) s)

/-- CTX_RECLAIM (R136). -/
def execCtxReclaim (q : BitVec 16) (h : CmdHdr) (index : BitVec 16) (s : State) : Res :=
  answerAll (arriveCmd q.toNat h (.ctxReclaim index) s)

/-- QUEUE_CREATE (R127, R128). -/
def execQueueCreate (q : BitVec 16) (h : CmdHdr) (ctx ring cpl : W64) (k fetchMaxLog2 : Byte) (vector : BitVec 16) (prio : Byte)
    (s : State) : Res :=
  answerAll (arriveCmd q.toNat h (.queueCreate ctx ring cpl k fetchMaxLog2 vector prio) s)

/-- QUEUE_DESTROY (R137). -/
def execQueueDestroy (q : BitVec 16) (h : CmdHdr) (queue : W64) (s : State) : Res :=
  answerAll (arriveCmd q.toNat h (.queueDestroy queue) s)

/-- QUEUE_STOP (R137). -/
def execQueueStop (q : BitVec 16) (h : CmdHdr) (queue : W64) (s : State) : Res :=
  answerAll (arriveCmd q.toNat h (.queueStop queue) s)

/-- QUEUE_START (R137). -/
def execQueueStart (q : BitVec 16) (h : CmdHdr) (queue : W64) (s : State) : Res :=
  answerAll (arriveCmd q.toNat h (.queueStart queue) s)

/-- FENCE_CREATE (R233). -/
def execFenceCreate (q : BitVec 16) (h : CmdHdr) (ctx initial : W64) (scope mode : Byte) (s : State) : Res :=
  answerAll (arriveCmd q.toNat h (.fenceCreate ctx initial scope mode) s)

/-- FENCE_DESTROY (R233). -/
def execFenceDestroy (q : BitVec 16) (h : CmdHdr) (fence : W64) (s : State) : Res :=
  answerAll (arriveCmd q.toNat h (.fenceDestroy fence) s)

/-- REGION_REGISTER (R187, R188). -/
def execRegionRegister (q : BitVec 16) (h : CmdHdr) (object offset len : W64) (rights : Byte) (s : State) : Res :=
  answerAll (arriveCmd q.toNat h (.regionRegister object offset len rights) s)

/-- REGION_REVOKE (R190). -/
def execRegionRevoke (q : BitVec 16) (h : CmdHdr) (region : W64) (s : State) : Res :=
  answerAll (arriveCmd q.toNat h (.regionRevoke region) s)

/-- RILL_BIND (R135). -/
def execRillBind (q : BitVec 16) (h : CmdHdr) (slot core : BitVec 16) (ctx : W64) (s : State) : Res :=
  answerAll (arriveCmd q.toNat h (.rillBind slot core ctx) s)

/-- RILL_UNBIND (R135). -/
def execRillUnbind (q : BitVec 16) (h : CmdHdr) (slot : BitVec 16) (s : State) : Res :=
  answerAll (arriveCmd q.toNat h (.rillUnbind slot) s)

/-! ### Ends of aborts, destructions and quarantines -/

/-- ABORT_TIMEOUT (R140). -/
def execAbortTimeout (token : BitVec 16) (s : State) : Res := answerAll (abortTimeout token.toNat s)

/-- DESTRUCTION_END's effect (R139, Table 6-11): once no token of the context is left. A CTX_DESTROY reports its counts. -/
def destructionEnd (c : Nat) (s : State) : State :=
  match mget s.que.ctxs c with
  | none => s
  | some x =>
    if x.st != .destroying || !(tokensOf c s).isEmpty then s
    else
      let ((n, m, dest), s) := endDestroy c s
      match dest with
      | some id => endCmd id .ok n m (modCmd id (fun k => { k with effTick := some x.destroyAt }) s)
      | none => s

/-- DESTRUCTION_END (R139). -/
def execDestructionEnd (c : Fin 4096) (s : State) : Res := answerAll (destructionEnd c.val s)

/-- QUARANTINE_END (R138). -/
def execQuarantineEnd (i : BitVec 24) (s : State) : Res := answerAll (quarantineEnd i.toNat s)

/-- WALK_COMPLETE (R153): a walk for a page of 4 KiB of a context ends. -/
def execWalkComplete (c : Fin 4096) (page : BitVec 45) (s : State) : Res := answerAll (walkDone c.val page.toNat s)

/-- PEER_MAP_FILL (R155): a peer-map read for a page of 1 GiB of a context ends. -/
def execPeerMapFill (c : Fin 4096) (page : BitVec 27) (s : State) : Res := answerAll (peerDone c.val page.toNat s)

/-! ### Service classes -/

/-- Sum of the guaranteed credits of a kind of resource (0 host, 1 fabric, 2 memory) over the classes, with class n
holding a value (R197). -/
def guaranteed (kind n : Nat) (v : W64) (s : State) : Nat :=
  ((List.range 16).map fun c =>
    let w := if c = n then v else mgetD s.ep.classNext c (regRaw (rDPA_CLASS + 8 * c) s)
    if bit w (38 + kind) then fld w (12 * kind) (if kind = 2 then 11 else 12) else 0).foldl (· + ·) 0

/-- A descriptor that R197 or R198 refuses. -/
def classBad (n : Nat) (v : W64) (s : State) : Bool :=
  let h := fld v 0 12
  let f := fld v 12 12
  let m := fld v 24 11
  (1 ≤ h && h ≤ 63) || 4000 < h || 3125 < f || 1700 < m || ((h = 0 || f = 0 || m = 0) && !bit v 41)
    || 3840 < guaranteed 0 n v s || 3000 < guaranteed 1 n v s || 1632 < guaranteed 2 n v s

/-- CLASS_WRITE's effect: taken for the next edge, or refused (R194, R198). -/
def classDo (n : Nat) (v : W64) (s : State) : State :=
  let s := signWrite (rDPA_CLASS + 8 * n) v s
  if classBad n v s then modEp (fun x => { x with classRefused := true }) s
  else modEp (fun x => { x with classRefused := false, classNext := mset x.classNext n (v &&& 0x7FFFFFFFFFF) }) s

/-- CLASS_WRITE (R198), audited (R414). -/
def execClassWrite (p : HP) (n : Cls) (w : RegW) (s : State) : Res :=
  answer (match mgrTake p.val (rDPA_CLASS + 8 * n.val) w s with
  | (some v, s) => heldWrite (rDPA_CLASS + 8 * n.val) v (.classWrite p n (.full v)) (classDo n.val v) s
  | (none, s) => s)

/-- Descriptors written in the tick take effect at the edge. -/
def classEdge (s : State) : State :=
  let l := s.ep.classNext
  each l (fun e s => setRaw (rDPA_CLASS + 8 * e.1) e.2 s) (modEp (fun x => { x with classNext := [] }) s)

/-- PIECE_ADMISSION (R196): the arbiter of a resource admits the first waiting request of the class that it chooses; `late`
says that the tick has reached cycle 850. -/
def execPieceAdmission (res : Fin 108) (late : Bool) (s : State) : Res := answerAll (if frozen s then s else admitOne res.val late s)

/-- The vector of guarantee and deadline misses, at most once per tick (R197). -/
def dpaVector (s : State) : State :=
  if s.ep.vecThisTick then s
  else fire 0 (regFld rDPA_CTRL 0 11 s) (modEp (fun x => { x with vecThisTick := true }) s)

/-- A miss of a class is counted, traced and reported (R199). -/
def missed (i : Ident) (fn : Nat) (env : Option Nat) (s : State) : State :=
  let s := modEp (fun x => { x with dlmiss := mupd x.dlmiss i.cls 0 fun n => satAdd 32 n 1 }) s
  let s := trace 0x0B i env 8 (BitVec.ofNat 64 i.deadline) (countFn fn 12 1 s)
  if bit (regRaw (rDPA_CLASS + 8 * i.cls) s) 42 then dpaVector (setEvent rDPA_EVENT 1 s) else s

/-- DEADLINE_MISS's effect (R37, R199): the count of a command, or of a request, has reached 0 before its end. Every
request and piece of a command counts the command's deadline from its own admission, and the command itself from its own
(log 28). -/
def deadlineMiss (cmd : Bool) (id : Nat) (s : State) : State :=
  if cmd then
    match mget s.que.cmds id with
    | some c =>
      if c.hdr.deadline = 0 || c.dlLeft ≠ 0 || c.dlMiss || c.st == .queued then s
      else missed (cmdIdent c s) (cmdFn c s) (cmdEnv c s) (modCmd id (fun c => { c with dlMiss := true }) s)
    | none => s
  else match mget s.que.reqs id with
  | some r =>
    if r.ident.deadline = 0 || r.dlLeft ≠ 0 || r.dlMissed then s
    else missed r.ident r.fn r.env (modReq id (fun r => { r with dlMissed := true }) s)
  | none => s

/-- DEADLINE_MISS (R199). -/
def execDeadlineMiss (cmd : Bool) (id : Nat) (s : State) : Res := answer (deadlineMiss cmd id s)

/-! ### Fence actions (R244 to R247) -/

/-- A write of SYN_FN_HANDLE whose action is `op`: while an action runs it is discarded, which OVERRUN shows; the handle is
checked, then the action runs on its fence. A write under another OP is another row's command (log 27). -/
def fenceAct (p fn : Nat) (w : RegW) (op : Nat → Bool) (go : Nat → Fence → State → State) (s : State) : State :=
  match fnTake p fn fSYN_HANDLE w s with
  | (none, s) => s
  | (some v, s) =>
    if (mget s.que.actBusy fn).isSome then modQue (fun q => { q with actOverrun := insNat fn q.actOverrun }) s
    else if !op (regFld (fnKey fn fSYN_ACTION) 0 3 s) then s
    else
      let s := modQue (fun q => { q with actOverrun := q.actOverrun.filter (· != fn) }) s
      let h := handleOf v
      if h.type ≠ 4 || h.rsvd ≠ 0 then actResult fn .invalid 0 0 s
      else match mget s.que.fences h.index with
      | none => actResult fn .staleHandle 0 0 s
      | some f =>
        if slotGen s.que.fenSlots h.index ≠ h.gen || (match mget s.que.ctxs f.ctx with
            | some x => x.fn != fn
            | none => true) then actResult fn .staleHandle 0 0 s
        else go h.index f s

/-- The result of an action on a fence: VALUE and STATE after it. -/
def actDone (fn n : Nat) (st : Status) (s : State) : State :=
  match mget s.que.fences n with
  | some f => actResult fn st f.value (fenceCode f.st) s
  | none => actResult fn st 0 0 s

/-- FENCE_READ (R245). OP codes 6 and 7 give INVALID (Table 10-9). -/
def execFenceRead (p : HP) (fn : Fn) (w : RegW) (s : State) : Res :=
  answerAll (fenceAct p.val fn.val w (fun o => o = 0 || 6 ≤ o) (fun n _ s =>
    actDone fn.val n (if regFld (fnKey fn.val fSYN_ACTION) 0 3 s = 0 then .ok else .invalid) s) s)

/-- FENCE_RESET (R238). -/
def execFenceReset (p : HP) (fn : Fn) (w : RegW) (s : State) : Res :=
  answerAll (fenceAct p.val fn.val w (· = 1) (fun n _ s =>
    let r := fenceReset n (regRaw (fnKey fn.val fSYN_ARG) s) s
    actDone fn.val n r.1 r.2) s)

/-- SET_MIRROR's effect: a misaligned address is INVALID; otherwise the current VALUE is written there, and the action ends
with the status of that write's translation (R246). -/
def setMirror (fn n : Nat) (s : State) : State :=
  let va := fld (regRaw (fnKey fn fSYN_ARG) s) 0 57
  if va % 8 ≠ 0 then actDone fn n .invalid s
  else mirrorWrite n (modFence n (fun f => { f with mirror := some va })
    (modQue (fun q => { q with actBusy := mset q.actBusy fn (n, va) }) s))

/-- SET_MIRROR (R246). -/
def execSetMirror (p : HP) (fn : Fn) (w : RegW) (s : State) : Res :=
  answerAll (fenceAct p.val fn.val w (· = 2) (fun n _ s => setMirror fn.val n s) s)

/-- CLEAR_MIRROR (R246). -/
def execClearMirror (p : HP) (fn : Fn) (w : RegW) (s : State) : Res :=
  answerAll (fenceAct p.val fn.val w (· = 3) (fun n _ s =>
    actDone fn.val n .ok (modFence n (fun f => { f with mirror := none, mirrorAgain := false }) s)) s)

/-- ARM (R247). -/
def execArm (p : HP) (fn : Fn) (w : RegW) (s : State) : Res :=
  answerAll (fenceAct p.val fn.val w (· = 4) (fun n _ s =>
    let r := fenceArm n (regFld (fnKey fn.val fSYN_ACTION) 16 11 s) (regRaw (fnKey fn.val fSYN_ARG) s)
      (func fn.val s).vectors s
    actDone fn.val n r.1 r.2) s)

/-- DISARM (R247). -/
def execDisarm (p : HP) (fn : Fn) (w : RegW) (s : State) : Res :=
  answerAll (fenceAct p.val fn.val w (· = 5) (fun n _ s =>
    actDone fn.val n .ok (modFence n (fun f => { f with armed := false, armDue := false, armNext := false }) s)) s)

/-- FENCE_TIMEOUT's effect (R236): a wait whose count is 0 returns the fence's VALUE. -/
def fenceTimeout (i : Nat) (s : State) : State :=
  match mget s.que.waits i with
  | some w =>
    if w.left = some 0 then endWait i .fenceTimeout (match mget s.que.fences w.fence with
      | some f => f.value
      | none => 0) s
    else s
  | none => s

/-- FENCE_TIMEOUT (R236). -/
def execFenceTimeout (i : Nat) (s : State) : Res := answerAll (fenceTimeout i s)

/-- MIRROR_WRITE_ACCEPTED (R246): of the mirror write in flight of a fence. -/
def execMirrorWriteAccepted (n : Fin 16384) (s : State) : Res :=
  answerAll (match mget s.que.fences n.val with
    | some f => if f.mirrorSent then mirrorDone n.val .ok s else s
    | none => s)

/-- MODERATION_DELAY's effect (R250): the DELAY-th edge after the first firing has come. -/
def moderationDelay (fn vec : Nat) (s : State) : State :=
  match mget s.ep.mods (vecKey fn vec) with
  | none => s
  | some m =>
    let d := regFld (fnKey fn (fSYN_MOD + 8 * vec)) 8 12 s
    if d = 0 || m.firings = 0 || m.ticks < d then s
    else sendMsix fn vec (modEp (fun x => { x with mods := mdel x.mods (vecKey fn vec) }) s)

/-- MODERATION_DELAY (R250). -/
def execModerationDelay (fn : Fn) (vec : Fin 2048) (s : State) : Res := answerAll (moderationDelay fn.val vec.val s)

/-! ### Reductions -/

/-- CHUNK_SEND (R319): a chunk of a REDUCE command is sent, or at the root rounded. -/
def execChunkSend (id k : Nat) (s : State) : Res := answerAll (chunkSend id k s)

/-- CHUNK_LATE_TIMEOUT (R319). -/
def execChunkLateTimeout (id k : Nat) (s : State) : Res := answerAll (chunkLate id k s)

end Sys2Proof.Machine
end

