-- ==== Sys2Proof/Machine/FabRows.lean ====
section
/-! DEFINITION. The rows of the fabric (chapter 14): frames, bring-up and retraining, peers, handshakes, packets. -/
namespace Sys2Proof.Machine

/-! ### The link layer -/

/-- FSEQ a is at or before FSEQ b, in 32-bit serial order. -/
def seqLe (a b : Nat) : Bool := dist32 b a < 2 ^ 31

/-- Credits that a frame's header returns, per channel (R338). -/
def takeCredits (l : Nat) (c : List Nat) (s : State) : State :=
  modLink l (fun k => { k with cred := (List.range 4).foldl (fun m v => mset m v (mgetD m v 0 + c.getD v 0)) k.cred }) s

/-- A FACK frees the frames it covers (R332). -/
def takeFack (l f : Nat) (s : State) : State :=
  modLink l (fun k => { k with replay := k.replay.filter fun e => !seqLe e.1 f }) s

/-- A NAK: what the replay buffer holds goes out again from FACK + 1; the third NAK for one FSEQ retrains the link (R332,
R333). -/
def takeNak (l f : Nat) (s : State) : State :=
  let want := (f + 1) % 2 ^ 32
  let k := flink l s
  let n := if k.nakFor.1 = want then k.nakFor.2 + 1 else 1
  let s := modLink l (fun k => { k with naks := satAdd 16 k.naks 1, nakFor := (want, n) }) s
  if 3 ≤ n then flRetrain l s else emitAll (k.replay.map fun e => .fabric l e.1 e.2) s

/-- FRAME (R329, R332, R338): a bad frame is counted and draws a NAK; a good one that is IDLE or the next of its sequence
brings credits, FACK and NAK, and any other is discarded whole. What it carries is told by the rows of its packets (log 30).
-/
def execFrame (l : FL) (f : FrameIn) (s : State) : Res :=
  let l := l.val
  answerAll (if (flink l s).st != .up then s
  else if !f.good then
    let s := count 6 2 l 1 (modLink l (fun k => { k with frameErr := satAdd 16 k.frameErr 1 }) s)
    emit (.fabricIdle l (fackOf (flink l s)) true 0 0) s
  else
    let s := modLink l (fun k => { k with fec := satAdd 32 k.fec f.corrected }) s
    if !f.idle && f.fseq.toNat ≠ (flink l s).rxSeq then s
    else
    let s := takeCredits l f.credits s
    let s := match f.fack with
      | some a => takeFack l a.toNat s
      | none => s
    let s := if !f.idle then
        modLink l (fun k => { k with rxSeq := (k.rxSeq + 1) % 2 ^ 32, rxAny := true }) s
      else s
    let s := match f.nak, f.fack with
      | true, some a => takeNak l a.toNat s
      | true, none => takeNak l (2 ^ 32 - 1) s
      | false, _ => s
    flPump l 4096 s)

/-- LINK_RETRAIN (R333): a FACK or a good frame has been missing for 1 µs, or a lane has failed. -/
def execLinkRetrain (l : FL) (s : State) : Res := answerAll (flRetrain l.val s)

/-- A link goes out of service, and its paths move away (R334, R349). -/
def flStop (l : Nat) (s : State) : State :=
  if (flink l s).st == .out then s else pathsOff l (flOut l s)

/-- RETRAIN_TIMEOUT (R334): a retrain has not completed within RETRAIN_TICKS. -/
def execRetrainTimeout (l : FL) (s : State) : Res :=
  answerAll (if (flink l.val s).st == .retraining && regFld rFLK_CTRL 16 12 s ≤ (flink l.val s).ticks then flStop l.val s else s)

/-- LANE_ERROR (R330): `bad` names the lanes that are not sound. An 8-lane link goes on with the first of lanes 0–3 and 4–7
whose lanes are all sound, or leaves service. -/
def execLaneError (l : FL) (bad : BitVec 8) (s : State) : Res :=
  let k := flink l.val s
  let low := bad.toNat % 16 == 0
  let high := bad.toNat / 16 == 0
  answerAll (if k.mask ≠ 0xFF || bad = 0 || (k.st != .up && k.st != .retraining) then s
  else if !low && !high then flStop l.val s
  else
    let s := modLink l.val (fun k => { k with mask := if low then 0x0F else 0xF0 }) s
    if k.st == .up then flRetrain l.val s else flTrain l.val .retraining s)

/-- Credits that the block grants with LINK_INIT on VC0 to VC3 (R338). -/
def ownGrant : List Nat := [64, 256, 1024, 2048]

/-- FL_TRAIN_DONE (R331, Table 14-3 steps 2 to 4): the latencies are latched, the frame boundary is found, and LINK_INIT goes
out. -/
def execFlTrainDone (l : FL) (txlat rxlat : BitVec 16) (s : State) : Res :=
  let k := flink l.val s
  answer (if k.st == .training || (k.st == .retraining && !k.locked) then
    let s := modLink l.val (fun k => { k with
      txlat := txlat.toNat, rxlat := rxlat.toNat, locked := true
      st := if k.st == .training then .initialising else k.st }) s
    emit (.fabric l.val 0 (.linkInit (s.spl.img.planes.getD l.val 0) k.mask ownGrant)) s
  else s)

/-- BRING_UP_TIMEOUT (R331): a step of bring-up has exceeded its bound. -/
def execBringUpTimeout (l : FL) (s : State) : Res :=
  let st := (flink l.val s).st
  answerAll (if st == .training || st == .initialising then flStop l.val s else s)

/-- FLK_RESTORE (R330, R334): bring-up of every link whose bit is written 1 starts again from step 1, for links of FL_EN. -/
def execFlkRestore (p : HP) (v : W32) (s : State) : Res :=
  answerAll (if mgrOpen p.val rFLK_RESTORE s then
    each ((bitsOf 32 v.toNat).filter fun l => (flEnabled s).contains l) (fun l s =>
      let up := flUp l s
      let s := flBringUp l s
      if up then pathsOff l s else s) s
  else s)

/-- This chip's HELLO to a chip on a link (Table 14-5); none at level 4 (Table 16-3). -/
def helloTo (l dst : Nat) (claim : Bool) (s : State) : State :=
  if s.weir.fatal then s
  else flSend l 0 1 (.hello dst s.spl.chip s.spl.img.domainId s.time.refQuality (rootCapable s) s.spl.img.rootPriority
    (flink l s).plane s.time.hops claim) s

/-- Chips of a link's plane but this one. -/
def chipsOn (l : Nat) (s : State) : List Nat := (mgetD s.fab.announced l []).filter (· != s.spl.chip)

/-- Lanes that both ends of a link name; the own ones where they share none. -/
def sharedLanes (own other : Nat) : Nat := if Nat.land own other = 0 then own else Nat.land own other

/-- LINK_INIT (R331, R338): the plane must equal PLANE, or the link is held out of service; else it is up, with the credits
that the switch grants. -/
def execLinkInit (l : FL) (plane : BitVec 5) (mask : BitVec 8) (credits : List Nat) (s : State) : Res :=
  let k := flink l.val s
  answerAll (if k.st == .initialising || (k.st == .retraining && k.locked) then
    if plane.toNat ≠ s.spl.img.planes.getD l.val 0 then
      setEvent rFLK_EVENT 2 (modLink l.val (fun k => { k with st := .out, locked := false }) s)
    else
      let c := (List.range 4).foldl (fun m v => mset m v (credits.getD v 0)) []
      let s := modLink l.val (fun k => { k with
        st := .up, locked := false, plane := plane.toNat, mask := sharedLanes k.mask mask.toNat, cred := c, grant := c, txSeq := 0, rxSeq := 0 }) s
      let s := each (chipsOn l.val s) (fun c s => helloTo l.val c false s) s
      pathsOn s
  else s)

/-- FABRIC_CREDIT_TIMEOUT (R338): the switch has held a VC0 to VC2 credit for more than 6,800 cycles. -/
def execFabricCreditTimeout (l : FL) (s : State) : Res :=
  answerAll (if flUp l.val s then flRetrain l.val (setEvent rFLK_EVENT 6 s) else s)

/-! ### Peers -/

/-- A chip that leaves the domain takes no further part in elections (R28). -/
def dropClaim (c : Nat) (s : State) : State :=
  modTime (fun t => { t with claims := t.claims.filter fun x => x.chip != c }) s

/-- What is under way to a peer ends, and the session's keys and sequences are gone (R350). -/
def peerDrop (c : Nat) (s : State) : State :=
  let p := fpeer c s
  let s := each (p.asked.map (·.2.2)) pktFail s
  let s := each (p.waiting.map (·.body)) pktFail s
  modFab (fun b => { b with peers := mdel b.peers c }) (redPeerLost c s)

/-- A peer is LOST (Table 4-9, R350), unless it takes part in a sluice stop that holds (R396). -/
def peerLost (c : Nat) (s : State) : State :=
  let st := peerSt c s
  if !(st == .seen || st == .active) || (frozen s && s.sluice.takingPart.contains c) then s
  else
    let s := dropClaim c (modPeer c (fun p => { p with st := .lost, wasLost := true }) s)
    if st != .active then s
    else
      let named := (s.env.envs.filter fun e => (mget e.2.peers c).isSome).map (·.1)
      let s := each named (fun e s => raise 417 .envelope none (some e) c s) (peerDrop c s)
      setEvent rFLK_EVENT 8 s

/-- First 32 bytes of a digest as payload words. -/
def digestWords (d : Nat) : List W64 := (List.range 4).map fun i => BitVec.ofNat 64 (d / 2 ^ (64 * i))

/-- Two digests claim one chip number (Table 4-9, R93). -/
def peerConflict (c d : Nat) (s : State) : State :=
  let s := modPeer c (fun p => { p with st := .conflict }) (peerDrop c s)
  auditO .peer 0 0 noEnv false ([BitVec.ofNat 64 c, 1] ++ digestWords d) (setEvent rSPL_EVENT 5 s)

/-- A free value below a bound, for what the spec gives no source of (log 7). -/
def freeBelow (n : Nat) (s : State) : Nat × State := (Config.choice s.free % n, { s with free := s.free + 1 })

/-- Sessions may be established: phase 6 has begun (Table 14-3, step 6), and packets other than VC0 are sent. -/
def sessionsOpen (s : State) : Bool := s.spl.ended.contains 4 && !fabQuiet s

/-- After a hello between the two: the chip with the lower number starts the handshake (R340). -/
def helloAnswer (l c : Nat) (s : State) : State :=
  if peerSt c s != .seen then s
  else
    let s := helloTo l c false s
    if sessionsOpen s && s.spl.chip < c && (fpeer c s).sess == .closed && (fpeer c s).retryIn.isNone then startSession c s else s

/-- A chip named in an announcement or a hello has an entry, as SEEN where it had none (Table 4-9). HOPS of an entry has no
source in the spec: a free value (log 7). -/
def peerEnter (c : Nat) (s : State) : State :=
  match mget s.spl.peers c with
  | some _ => s
  | none =>
    let (h, s) := freeBelow 8 s
    modSpl (fun p => { p with peers := mset p.peers c { st := .seen, hops := h } }) s

/-- A HELLO of this domain updates its sender's entry (Table 4-9). -/
def helloTake (l c digest : Nat) (root : Bool) (s : State) : State :=
  let s := modSpl (fun p => { p with foreign := p.foreign.filter (· != c) }) (peerEnter c s)
  let p := mgetD s.spl.peers c {}
  if p.st == .conflict then s
  else if p.digest.isSome && p.digest ≠ some digest then peerConflict c digest s
  else
    let mask := ofBits (insNat l (bitsOf 32 p.linkMask))
    let s := modPeer c (fun p => { p with
      st := if p.st == .active then .active else .seen
      digest := some digest, linkMask := mask, rootCapable := root, lastSeen := tick s, silent := 0 }) s
    helloAnswer l c (if p.linkMask = mask then s else pathsOn s)

/-- A chip is announced on a link: it is SEEN where it was ABSENT (Table 4-9), unless its hello has carried another domain
(R92; log 128). -/
def chipThere (l c : Nat) (s : State) : State :=
  let s := if s.spl.foreign.contains c then s else peerEnter c s
  modPeer c (fun p => { p with linkMask := ofBits (insNat l (bitsOf 32 p.linkMask)) }) s

/-- A hello of another domain is counted and ignored; a chip known from announcements alone is entered no longer (R92; log
128). -/
def foreignHello (c : Nat) (s : State) : State :=
  let known := (mget s.spl.peers c).any fun p => p.digest.isNone
  modSpl (fun p => { p with
    otherDomain := satAdd 32 p.otherDomain 1, foreign := insNat c p.foreign
    peers := if known then mdel p.peers c else p.peers }) s

/-- HELLO (R92, R93, R340): hellos of other domains are counted and ignored, as are those of a plane excluded from use; a
claim joins the election (R28). -/
def execHello (l : FL) (digest : BitVec 384) (chip : Chip) (domain : BitVec 16) (quality : Fin 4) (root : Bool)
    (priority : Byte) (claim : Bool) (s : State) : Res :=
  answerAll (if !flUp l.val s then s
  else
    let s := flReturn l.val 0 1 s
    if domain.toNat ≠ s.spl.img.domainId then foreignHello chip.val s
    else if s.spl.planesExcluded.contains (flink l.val s).plane || chip.val = s.spl.chip then s
    else
      let others := s.time.claims.filter fun c => c.chip != chip.val
      let s := if root || claim then
          modTime (fun t => { t with claims := others ++ [⟨quality.val, priority.toNat, chip.val⟩] }) s
        else modTime (fun t => { t with claims := others }) s
      helloTake l.val chip.val digest.toNat root s)

/-- HELLO_SEND (R340): a HELLO to each chip of the link's plane. -/
def execHelloSend (l : FL) (s : State) : Res :=
  answer (if flUp l.val s then each (chipsOn l.val s) (fun c s => helloTo l.val c false s) s else s)

/-- A chip is no longer announced on a link: a peer absent from every plane that reached it is LOST (Table 4-9). -/
def chipGone (l c : Nat) (s : State) : State :=
  let p := mgetD s.spl.peers c {}
  let mask := ofBits ((bitsOf 32 p.linkMask).filter (· != l))
  if p.linkMask = mask then s
  else
    let s := modPeer c (fun p => { p with linkMask := mask }) s
    if mask = 0 then peerLost c s else s

/-- A plane is excluded from use (R92): its links reach no chip any more. -/
def excludePlane (l plane : Nat) (s : State) : State :=
  let s := setEvent rSPL_EVENT 4 (modSpl (fun p => { p with planesExcluded := insNat plane p.planesExcluded }) s)
  let ls := ((s.fab.links.filter fun e => e.2.plane = plane).map (·.1)).filter (· != l)
  let s := modFab (fun b => { b with announced := mset (ls.foldl (fun m k => mset m k []) b.announced) l [] }) s
  each (l :: ls) (fun k s => each (mkeys s.spl.peers) (chipGone k) s) s

/-- ANNOUNCE (R92, R93, R340): the number assigned, which a chip without one takes from its lowest link in service; a plane
that assigns another is excluded; chips that are new get a HELLO at once, chips that have gone leave their masks. -/
def execAnnounce (l : FL) (chip : Chip) (plane : BitVec 5) (chips : List Chip) (s : State) : Res :=
  answerAll (if !flUp l.val s then s
  else
    let s := flReturn l.val 0 16 s
    let s := if s.spl.chip = 0xFFFF && (linksUp s).head? == some l.val then modSpl (fun p => { p with chip := chip.val }) s else s
    if s.spl.chip = 0xFFFF then
      modFab (fun b => { b with announced := mset b.announced l.val (chips.map (·.val)) }) s
    else if s.spl.chip ≠ chip.val then
      if s.spl.planesExcluded.contains plane.toNat then s
      else pathsOn (excludePlane l.val plane.toNat s)
    else if s.spl.planesExcluded.contains plane.toNat then s
    else
      let was := chipsOn l.val s
      let s := modFab (fun b => { b with announced := mset b.announced l.val (chips.map (·.val)) }) s
      let now := chipsOn l.val s
      let s := each (now.filter fun c => !was.contains c) (fun c s => helloTo l.val c false s) s
      let s := each now (chipThere l.val) s
      pathsOn (each ((mkeys s.spl.peers).filter fun c => !now.contains c) (chipGone l.val) s))

/-- PEER_LOST_TIMEOUT (R93): no hello and no acknowledged packet for PEER_LOST_TICKS. -/
def execPeerLostTimeout (c : Chip) (s : State) : Res :=
  answerAll (if s.spl.img.peerLostTicks ≤ (mgetD s.spl.peers c.val {}).silent then peerLost c.val s else s)

/-- PEER_REMOVAL (R93): the manager's removal returns an entry to ABSENT. -/
def execPeerRemoval (c : Chip) (s : State) : Res :=
  answerAll (modSpl (fun p => { p with peers := mdel p.peers c.val })
    (dropClaim c.val (if peerSt c.val s == .active then peerDrop c.val s else s)))

/-! ### Handshakes -/

/-- A handshake fails (R342): the peer stays as it was, the failure is counted, and it is tried again after HELLO_PERIOD
ticks. -/
def sessFail (c : Nat) (s : State) : State :=
  let n := if s.spl.ended.contains 6 then 0 else 1
  let s := modFab (fun b => { b with authFail := satAdd 32 b.authFail 1, failed := b.failed + n }) s
  setEvent rFLK_EVENT 5 (modFpeer c (fun p => { p with sess := .closed, retryIn := some s.spl.img.helloPeriod }) s)

/-- The checks of a handshake message: the chain and the signature verify (`ok`), and the leaf's digest is the one of the
peer's HELLO. -/
def sessVerified (c digest : Nat) (ok : Bool) (s : State) : Bool := ok && (mgetD s.spl.peers c {}).digest == some digest

/-- A handshake is complete on this side (R342, R345, Table 4-9): its secret stands in the key store; a first one makes the
peer ACTIVE with sequences from 0, a later one flips KEPOCH at the next edge, and its counters start at 0. -/
def sessUp (c : Nat) (s : State) : State :=
  let k := Config.keyMaterial s.free
  let s := { s with free := s.free + 1 }
  if (fpeer c s).live then
    setEvent rFLK_EVENT 7 (modFpeer c (fun p => { p with
      sess := .established, flip := true, rekeyTicks := 0, retryIn := none, newSecret := k
      rctr := p.rctr.filter fun e => e.1 % 2 == b2n p.kepoch }) s)
  else
    let old := mgetD s.spl.peers c {}
    let n := if s.spl.ended.contains 6 then 0 else 1
    let s := modFab (fun b => { b with
      opened := b.opened + n, peers := mset b.peers c { sess := .established, live := true, secret := k } }) s
    let s := modPeer c (fun p => { p with st := .active, wasLost := false, silent := 0 }) s
    let s := whenS old.wasLost (auditO .peer 0 0 noEnv false ([BitVec.ofNat 64 c, 0] ++ digestWords (old.digest.getD 0))) s
    match pathFor c s with
    | some l => takePath c l s
    | none => s

/-- A handshake message from a peer that the table knows as SEEN or ACTIVE, on a link that is up. -/
def sessTake (l c slots : Nat) (go : State → State) (s : State) : State :=
  if !flUp l s then s
  else
    let s := flReturn l 1 slots s
    if sessionsOpen s && (peerSt c s == .seen || peerSt c s == .active) then go s else s

/-- SESSION_INIT (R342): answered with REPLY; where both have sent one, the chip with the lower number goes on as the
initiator (R340). -/
def execSessionInit (l : FL) (src : Chip) (s : State) : Res :=
  answerAll (sessTake l.val src.val 4 (fun s =>
    if (fpeer src.val s).sess == .initSent && s.spl.chip < src.val then s
    else sessSend src.val (.session src.val 2) 60 (modFpeer src.val (fun p => { p with sess := .replySent }) s)) s)

/-- SESSION_REPLY (R342): verified; FINISH goes out. -/
def execSessionReply (l : FL) (src : Chip) (digest : BitVec 384) (ok : Bool) (s : State) : Res :=
  let c := src.val
  answerAll (sessTake l.val c 60 (fun s =>
    if (fpeer c s).sess != .initSent then s
    else if !sessVerified c digest.toNat ok s then sessFail c s
    else sessSend c (.session c 3) 60 (modFpeer c (fun p => { p with sess := .finishSent }) s)) s)

/-- SESSION_FINISH (R342): verified; DONE goes out and the session stands. -/
def execSessionFinish (l : FL) (src : Chip) (digest : BitVec 384) (ok : Bool) (s : State) : Res :=
  let c := src.val
  answerAll (sessTake l.val c 60 (fun s =>
    if (fpeer c s).sess != .replySent then s
    else if !sessVerified c digest.toNat ok s then sessFail c s
    else sessUp c (sessSend c (.session c 4) 1 s)) s)

/-- SESSION_DONE (R342, R345): the initiator's side stands. -/
def execSessionDone (l : FL) (src : Chip) (s : State) : Res :=
  answerAll (sessTake l.val src.val 1 (fun s =>
    if (fpeer src.val s).sess == .finishSent then sessUp src.val s else s) s)

/-- REKEY (R345): a packet counter has reached 2^40, or REKEY_TICKS have passed since the last handshake. -/
def execRekey (c : Chip) (s : State) : Res :=
  let p := fpeer c.val s
  let due := (p.ctr ++ p.rctr).any (fun e => 2 ^ 40 ≤ e.2) || regFld rFLK_CTRL 32 32 s ≤ p.rekeyTicks
  answerAll (if peerSt c.val s == .active && p.live && p.sess == .established && due then startSession c.val s else s)

/-! ### Packets -/

/-- A packet falls before the cut of a sluice stop (R396, R400): at or before its peer's mark; without a mark, first sent
before T by its STICK, and for a stop of this chip alone arriving before the capture ends. -/
def beforeCut (vc : Nat) (h : PktHdr) (s : State) : Bool :=
  let byTick := 64 ≤ (h.stick.toNat + 128 - s.sluice.tickT % 128) % 128
  match mget s.sluice.marks h.src.val with
  | some (a, b, c) =>
    let m := if vc = 1 then a else if vc = 2 then b else c
    (m + 2 ^ 20 - h.eseq.toNat) % 2 ^ 20 < 2 ^ 19
  | none => byTick && (s.sluice.domain || s.sluice.st == .capturing)

/-- A packet is taken now, or held unacknowledged until the resume (R396). -/
def pktOrHold (vc : Nat) (h : PktHdr) (cmd : Instr) (eff : State → State) (s : State) : Res :=
  if frozen s && !beforeCut vc h s then answer (holdCmd cmd s) else answerAll (eff s)

/-- A failed remote check is counted against the envelope (R156). -/
def remoteRefused (env : Option Nat) (s : State) : State :=
  match env with
  | some e => modEnv e (fun v => { v with refused := v.refused + 1 }) s
  | none => s

/-- Envelope and function of a packet. -/
def pktEnv (h : PktHdr) (s : State) : Option Nat × Nat :=
  match envOfTag h.tag.toNat s with
  | some e => (some e, (mget s.env.envs e).map (·.vf) |>.getD 0)
  | none => (none, 0)

/-- The block's request for a packet that has passed its check. -/
def pktReq (h : PktHdr) (op : ReqOp) (s : State) : Req :=
  { who := .remote h.src.val h.eseq.toNat h.cls.val, fn := (pktEnv h s).2, env := (pktEnv h s).1,
    ident := { cls := h.cls.val }, op := op }

/-- FABRIC_WRITE's effect: a write without data slots carries a poisoned line (R387); a write that fails the remote
check is discarded and answered with RIGHTS, which stands for its acknowledgement. -/
def fabWriteEff (h : PktHdr) (pa : BitVec 57) (data : List Byte) (s : State) : State :=
  fabAccept 3 (ceilDiv data.length 64) true h (fun s =>
    let (env, _) := pktEnv h s
    let c := h.src.val
    let bad := data.isEmpty
    let d := if bad then List.replicate 64 0 else data
    let a := if bad then pa.toNat / 64 * 64 else pa.toNat
    if remoteCheck env (paLocal a) d.length 1 s then newReq { pktReq h (.paWrite a d) s with poisoned := bad } s
    else
      let s := modFpeer c (fun p => { p with pend := p.pend.erase h.eseq.toNat }) (remoteRefused env s)
      fabPut c h.cls.val env (.aresp h.eseq.toNat none .rights) s) s

/-- FABRIC_WRITE (R156, R348). -/
def execFabricWrite (h : PktHdr) (pa : BitVec 57) (data : List Byte) (s : State) : Res :=
  pktOrHold 3 h (.fabricWrite h pa data) (fabWriteEff h pa data) s

/-- FABRIC_READ's effect: `n` is the number of slots minus 1; a read that fails the check is answered with RIGHTS. -/
def fabReadEff (h : PktHdr) (pa : BitVec 57) (n : Fin 64) (s : State) : State :=
  fabAccept 3 0 false h (fun s =>
    let (env, _) := pktEnv h s
    let len := min (64 * (n.val + 1)) (4096 - pa.toNat % 4096)
    if remoteCheck env (paLocal pa.toNat) len 0 s then newReq (pktReq h (.paRead pa.toNat len) s) s
    else fabPut h.src.val h.cls.val env (.rdata h.eseq.toNat [] .rights) (remoteRefused env s)) s

/-- FABRIC_READ (R156, R335). -/
def execFabricRead (h : PktHdr) (pa : BitVec 57) (n : Fin 64) (s : State) : Res :=
  pktOrHold 3 h (.fabricRead h pa n) (fabReadEff h pa n) s

/-- FABRIC_ATOMIC's effect. -/
def fabAtomicEff (h : PktHdr) (pa : BitVec 57) (o : AtomOp) (s : State) : State :=
  fabAccept 3 1 true h (fun s =>
    let (env, _) := pktEnv h s
    let c := h.src.val
    let no (st : Status) (s : State) : State :=
      fabTaken c h.eseq.toNat (fabPut c h.cls.val env (.aresp h.eseq.toNat none st) s)
    if !remoteCheck env (paLocal pa.toNat) (atomSpan o) 2 s then no .rights (remoteRefused env s)
    else if !atomOk o pa.toNat then no .invalid s
    else newReq (pktReq h (.paAtomic pa.toNat o) s) s) s

/-- FABRIC_ATOMIC (R156, R348). -/
def execFabricAtomic (h : PktHdr) (pa : BitVec 57) (o : AtomOp) (s : State) : Res :=
  pktOrHold 3 h (.fabricAtomic h pa o) (fabAtomicEff h pa o) s

/-- FENCE_OP's effect: the handle is checked against the requester's envelope; a signal is applied, a wait registered. -/
def fenceOpEff (h : PktHdr) (signal : Bool) (d : FenceData) (scope : Fin 8) (core : CoreIx) (engine : Fin 4) (s : State) : State :=
  fabAccept 1 1 false h (fun s =>
    let (env, fn) := pktEnv h s
    let c := h.src.val
    let done (st : Status) (v : W64) (s : State) : State := fabPut c h.cls.val env (.fenceDone h.eseq.toNat v st) s
    match env, checkHandle d.handle 4 fn env s with
    | none, _ => done .invalid 0 s
    | some _, .fail st => done st 0 s
    | some e, .slot n =>
      if signal then
        let ((st, v), s) := fenceSignal n d.value ⟨c, core.val, engine.val, scope.val⟩ { cls := h.cls.val } s
        done st v s
      else
        let left := if d.timeout = 0 then none else some d.timeout.toNat
        fenceWait { fence := n, target := d.value, who := .remote c h.eseq.toNat e h.cls.val, ident := { cls := h.cls.val },
                    env := some e, scope := scope.val, core := core.val,
                    engine := engine.val, left := left, registered := true } s) s

/-- FENCE_OP (R240). -/
def execFenceOp (h : PktHdr) (signal : Bool) (d : FenceData) (scope : Fin 8) (core : CoreIx) (engine : Fin 4) (s : State) : Res :=
  pktOrHold 1 h (.fenceOp h signal d scope core engine) (fenceOpEff h signal d scope core engine) s

/-- The request that a response's ESEQ names, taken from the list of those that wait for one. -/
def askedTake (c vc eseq : Nat) (s : State) : Option Pkt × State :=
  match (fpeer c s).asked.find? fun e => e.1 == vc && e.2.1 == eseq with
  | some e => (some e.2.2, modFpeer c (fun p => { p with asked := p.asked.erase e }) s)
  | none => (none, s)

/-- A request that its home has refused ends with the status (R156), counted against the envelope. -/
def homeRefused (h : PktHdr) (req : Nat) (st : Status) (s : State) : State :=
  let va := match mget s.que.reqs req with
    | some r => ((phaseSpans r).1.headD (0, 0)).1
    | none => 0
  failReq req st 0xD va (remoteRefused (pktEnv h s).1 s)

/-- FENCE_DONE's effect. -/
def fenceDoneEff (h : PktHdr) (eseq : BitVec 20) (v : W64) (st : Status) (s : State) : State :=
  fabAccept 1 1 false h (fun s =>
    match askedTake h.src.val 1 eseq.toNat s with
    | (some (.fenceOp i _ _ _ _ _ _ _), s) => modQue (fun q => { q with fenceEnds := q.fenceEnds ++ [(.vc0 i, st, v)] }) s
    | (_, s) => s) s

/-- FENCE_DONE (R240). -/
def execFenceDone (h : PktHdr) (eseq : BitVec 20) (v : W64) (st : Status) (s : State) : Res :=
  pktOrHold 1 h (.fenceDone h eseq v st) (fenceDoneEff h eseq v st) s

/-- RDATA's effect: the data of a read, poison, or a refusal. -/
def rdataEff (h : PktHdr) (eseq : BitVec 20) (st : Status) (data : List Byte) (s : State) : State :=
  fabAccept 2 (ceilDiv data.length 64) false h (fun s =>
    match askedTake h.src.val 3 eseq.toNat s with
    | (some (.read i off _ len), s) =>
      if st == .ok || st == .poison then reqData i off (dataField len data) (st == .poison) s else homeRefused h i st s
    | (_, s) => s) s

/-- RDATA (R335). -/
def execRdata (h : PktHdr) (eseq : BitVec 20) (st : Status) (data : List Byte) (s : State) : Res :=
  pktOrHold 2 h (.rdata h eseq st data) (rdataEff h eseq st data) s

/-- ARESP's effect: an atomic's old value, or the refusal of an atomic or of a write; a refused write is no longer resent. -/
def arespEff (h : PktHdr) (eseq : BitVec 20) (st : Status) (old : Option (BitVec 128)) (s : State) : State :=
  let c := h.src.val
  fabAccept 2 (if old.isSome then 1 else 0) false h (fun s =>
    match askedTake c 3 eseq.toNat s with
    | (some (.atomic i _ o), s) =>
      if st == .ok then
        let d := if o.noret then [] else toBytes 16 (old.getD 0).toNat
        endReq i .ok (modReq i (fun r => { r with data := cellsSet [] 0 d, expect := 0 }) s)
      else if st == .poison then endReq i .poison s
      else homeRefused h i st s
    | (some (.write i _ _), s) =>
      let s := modFpeer c (fun p => { p with
        unacked := p.unacked.filter fun e => !(e.pkt.vc == 3 && e.pkt.eseq == eseq.toNat) }) s
      homeRefused h i st s
    | (_, s) => s) s

/-- ARESP (R335). -/
def execAresp (h : PktHdr) (eseq : BitVec 20) (st : Status) (old : Option (BitVec 128)) (s : State) : Res :=
  pktOrHold 2 h (.aresp h eseq st old) (arespEff h eseq st old) s

/-- An acknowledged packet (R348): a write is accepted at its ordering point, a record has been taken. -/
def ackedOne (c : Nat) (e : Sent) (s : State) : State :=
  match e.pkt.p.body with
  | .write i _ _ => reqAck i (modFpeer c (fun p => { p with asked := p.asked.filter fun a => !(a.1 == 3 && a.2.1 == e.pkt.eseq) }) s)
  | .record id k _ => recordAcked (envOfTag e.pkt.p.tag s) id k s
  | _ => s

/-- EACK (R348): every packet up to the highest contiguous ESEQ of its channel is released. -/
def execEack (h : PktHdr) (a1 a2 a3 : BitVec 20) (s : State) : Res :=
  let c := h.src.val
  answerAll (if !flUp h.link.val s then s
  else
    let s := flReturn h.link.val 1 1 s
    if !fabAuthentic h s then fabAuthFail h s
    else
      let hi (vc : Nat) : Nat := if vc = 1 then a1.toNat else if vc = 2 then a2.toNat else a3.toNat
      let gone (e : Sent) : Bool := (hi e.pkt.vc + 2 ^ 20 - e.pkt.eseq) % 2 ^ 20 < 2 ^ 19
      let done := (fpeer c s).unacked.filter gone
      let s := modFpeer c (fun p => { p with
        unacked := p.unacked.filter fun e => !gone e, wait := if done.isEmpty then p.wait else 0 }) (modFpeer c (fabHeard h) s)
      let s := if done.isEmpty then s else modPeer c (fun p => { p with silent := 0 }) s
      fabPump c 4096 (each done (ackedOne c) s))

/-- E2E_RESEND (R348): the oldest unacknowledged packet has waited 8 ticks. -/
def execE2eResend (c : Chip) (s : State) : Res :=
  let p := fpeer c.val s
  answerAll (match p.path with
  | some l => if !p.unacked.isEmpty && 8 ≤ p.wait then setEvent rFLK_EVENT 4 (resendAll c.val l s) else s
  | none => s)

/-- PATH_MOVE (R349): everything sent on the old path has been acknowledged. -/
def execPathMove (c : Chip) (s : State) : Res :=
  let p := fpeer c.val s
  answerAll (match p.moveTo with
  | some l => if p.unacked.isEmpty then takePath c.val l s else s
  | none => s)

/-- PARTIAL_RECORD's effect. -/
def partialEff (h : PktHdr) (bytes : List Byte) (s : State) : State :=
  fabAccept 3 (ceilDiv bytes.length 64) true h (fun s =>
    fabTaken h.src.val h.eseq.toNat (takeRecord (pktEnv h s).1 bytes s)) s

/-- PARTIAL_RECORD (R319): a RECORD packet of KIND 0 to 2. -/
def execPartialRecord (h : PktHdr) (bytes : List Byte) (s : State) : Res :=
  pktOrHold 3 h (.partialRecord h bytes) (partialEff h bytes) s

/-- RESULT_RECORD's effect. -/
def resultEff (h : PktHdr) (bytes : List Byte) (s : State) : State :=
  fabAccept 3 (ceilDiv bytes.length 64) true h (fun s =>
    fabTaken h.src.val h.eseq.toNat (takeResult (pktEnv h s).1 bytes s)) s

/-- RESULT_RECORD (R323): a RECORD packet of KIND 3. -/
def execResultRecord (h : PktHdr) (bytes : List Byte) (s : State) : Res :=
  pktOrHold 3 h (.resultRecord h bytes) (resultEff h bytes) s

end Sys2Proof.Machine
end

