-- ==== Sys2Proof/Machine/Envelopes.lean ====
section
/-! DEFINITION. Envelopes (chapter 15): templates, envelope actions with their checks and effects, creation and removal,
memory moves, pause, dirty-page logging and keys. -/
namespace Sys2Proof.Machine

/-! ### Templates and the key ports -/

/-- Read a template's 256 bytes (Table 15-2). -/
def tmplOf (b : List Byte) : Template :=
  let n (o k : Nat) : Nat := ofBytes (((b.drop o).take k) ++ List.replicate (k - ((b.drop o).take k).length) 0)
  { instantiate := n 0 4 % 2 == 1
    rsvd := n 0 4 / 2 ≠ 0 || n 0x0F 1 ≠ 0 || n 0x26 26 ≠ 0 || n 0x0E 1 / 8 ≠ 0
    vf := n 4 2, tag := n 6 2, kgen := n 8 2, hostId := n 0x0A 2, classMask := n 0x0C 2, rights := n 0x0E 1 % 8
    lbase := n 0x10 4, llen := n 0x14 4, qCtx := n 0x18 2, qQueue := n 0x1A 2, qFence := n 0x1C 2, qRegion := n 0x1E 2
    qObj := n 0x20 4, vectors := n 0x24 2, cores := bitsOf 512 (n 0x40 64), rill := bitsOf 1024 (n 0x80 128) }

/-- Memory ports that take key operations. -/
def keyPorts (s : State) : List Nat :=
  (List.range 72).filter fun n => (mport n s).st == .inService || (mport n s).st == .failing

/-- A key operation of a kind and slot is still to be acknowledged at some port. -/
def keyLeft (k : KeyOp) (s : State) : Bool :=
  (keyPorts s).any fun n => ((mport n s).keyBusy.toList ++ (mport n s).keyWait).any fun j => j.op == k.op && j.slot == k.slot

/-- Every key port has acknowledged an operation: the slot is loaded, or zeroised, or all are (R60, R370, Table 17-7). -/
def keyDone (k : KeyOp) (s : State) : State :=
  let ports : W64 := BitVec.ofNat 64 (keyPorts s).length
  let set (f : EnvState → EnvState) (s : State) : State := { s with env := f s.env }
  let env := k.env.getD noEnv
  let now := tick s
  let note (code : Nat) (s : State) : State := auditO .keyEvent 0 0 env false [BitVec.ofNat 64 k.slot, BitVec.ofNat 64 code, ports] s
  let s := match k.env with
    | some e => modEnv e (fun v => { v with ackTick := now }) s
    | none => s
  if k.op = 0 then note 0 (set (fun e => { e with loaded := insNat k.slot e.loaded }) s)
  else if k.op = 1 then note 1 (set (fun e => { e with loaded := e.loaded.filter (· != k.slot) }) s)
  else set (fun e => { e with loaded := [], keys := [], zeroised := true }) s

/-- A zeroise carries one beat with the data lines at 0 (R60). -/
def zeroSlot (slot : Nat) (env : Option Nat) : KeyOp := ⟨1, slot, env, [0]⟩
def zeroAll : KeyOp := ⟨2, 0, none, [0]⟩

/-- Hand an operation to every key port in service; with none it is done at once. -/
def keyAll (k : KeyOp) (s : State) : State :=
  let s := each (keyPorts s) (fun n s => keySend n k s) s
  if keyLeft k s then s else keyDone k s

/-- The key store draws the key of a slot (R369) and loads it at every key port in 8 beats (R60). -/
def keyLoad (slot : Nat) (env : Option Nat) (s : State) : State :=
  let k := Config.keyMaterial s.free % 2 ^ 512
  let beats : List W64 := (List.range 8).map fun i => BitVec.ofNat 64 (k / 2 ^ (64 * i))
  keyAll ⟨0, slot, env, beats⟩ { s with free := s.free + 1, env := { s.env with keys := mset s.env.keys slot k } }

/-- The key store forgets the key of a slot, and every key port zeroises it (R60, R371). -/
def keyZeroise (slot : Nat) (env : Option Nat) (s : State) : State :=
  keyAll (zeroSlot slot env) { s with env := { s.env with keys := mdel s.env.keys slot } }

/-- A zeroise awaits acknowledgement at some key port. -/
def zeroiseWaits (s : State) : Bool :=
  (keyPorts s).any fun n => ((mport n s).keyBusy.toList ++ (mport n s).keyWait).any fun k => k.op != 0

/-- KEY_ACK (R60): an operation completes at a port; the next one starts. -/
def execKeyAck (p : MP) (s : State) : Res :=
  answerAll (match (mport p.val s).keyBusy with
  | none => s
  | some k =>
    let s := keyIssue p.val (modMp p.val (fun m => { m with keyBusy := none }) s)
    if keyLeft k s then s else keyDone k s)

/-! ### Policy checks (Tables 15-3 and 15-4) -/

/-- Ranges of GiB in use by envelopes: first and number. -/
def rangesUsed (s : State) : List (Nat × Nat) :=
  s.env.envs.map (fun e => (e.2.lbase, e.2.llen))
    ++ (s.env.envs.filter fun e => e.2.move != .idle).map fun e => (e.2.newBase, e.2.llen)

/-- A range obeys R354: at or above 4 GiB, within the extent, and free of these others. -/
def rangeFits (base len : Nat) (others : List (Nat × Nat)) (s : State) : Bool :=
  4 ≤ base && 1 ≤ len && len ≤ 8191 && base + len ≤ s.rsvr.extent && others.all fun o => base + len ≤ o.1 || o.1 + o.2 ≤ base

/-- LBASE of a template: its own, or the lowest free range that fits. -/
def placeRange (base len : Nat) (s : State) : Option Nat :=
  if base = 0xFFFFFFFF then
    ((4 :: (rangesUsed s).map fun o => o.1 + o.2).filter fun b => rangeFits b len (rangesUsed s) s).foldl
      (fun a b => match a with
        | some x => some (min x b)
        | none => some b) none
  else if rangeFits base len (rangesUsed s) s then some base else none

/-- A core is bound to an envelope, or is leaving one. -/
def coreBound (c : Nat) (s : State) : Bool :=
  s.env.envs.any (fun e => e.2.cores.contains c) || (mget s.env.leaving c).isSome

/-- A core cannot be bound: out of range, absent or out of service. -/
def coreBad (c : Nat) (s : State) : Bool :=
  512 ≤ c || s.port.absent.contains c || s.port.coreOut.contains c || agentSt c s == .dead

/-- Vectors of the pool that a function could hold (R105). -/
def vectorsFit (vf n : Nat) (s : State) : Bool :=
  let f := func vf s
  let own := if f.env.isSome || f.vectors ≠ 1 then f.vectors else 0
  2048 + (vecUsed s - own) + n ≤ 65536

/-- A host group with a port in service. -/
def groupServed (h : Nat) (s : State) : Bool :=
  (List.range 4).any fun p => s.spl.img.hpEn / 2 ^ p % 2 == 1 && (hport p s).hostId == h

/-- Rill slots of other envelopes. -/
def rillTaken (e : Nat) (s : State) : List Nat := ((s.env.envs.filter fun x => x.1 != e).map (·.2.rill)).flatten

/-- The checks of CREATE: the refusal, if any. -/
def createCheck (e : Nat) (t : Template) (s : State) : Option Status :=
  if (mget s.env.envs e).isSome then some .busy
  else if t.rsvd || t.classMask = 0 || t.vectors = 0 || 2048 < t.vectors then some .invalid
  else if t.vf = 0 || s.spl.img.numVfs < t.vf || s.env.envs.any (fun x => x.2.vf == t.vf) || !groupServed t.hostId s then some .invalid
  else if 0xFFE < t.tag || s.env.envs.any (fun x => x.2.tag == t.tag) || s.env.used.contains (t.tag, t.kgen) then some .invalid
  else if t.cores.any (fun c => coreBad c s) then some .invalid
  else if t.cores.any (fun c => coreBound c s) then some .busy
  else if (placeRange t.lbase t.llen s).isNone then some .noMemory
  else if t.rill.any (fun r => (rillTaken e s).contains r) then some .busy
  else if !vectorsFit t.vf t.vectors s then some .noSlot
  else none

/-- MSI-X Enable is set on an instance of a function. -/
def msixOn (fn : Nat) (s : State) : Bool := (List.range 4).any fun q => instAt fn q s && instMsixEn fn q s

/-- The checks of UPDATE: other fields equal the binding. A change of the vector count while MSI-X is enabled is refused with
BUSY (R105; log 33). -/
def updateCheck (e : Nat) (v : Env) (t : Template) (s : State) : Option Status :=
  let below (ty q : Nat) : Bool := q ≠ 0 && q < usedOf e ty s
  let named := (s.que.ctxs.filter fun x => x.2.env == some e).map (·.2.defCls)
  if t.rsvd || t.classMask = 0 || t.vectors = 0 || 2048 < t.vectors then some .invalid
  else if t.vf ≠ v.vf || t.tag ≠ v.tag || t.kgen ≠ v.kgen || t.hostId ≠ v.hostId || t.llen ≠ v.llen
      || (t.lbase ≠ v.lbase && t.lbase ≠ 0xFFFFFFFF) || t.cores ≠ v.cores.foldl (fun l c => insNat c l) [] then some .invalid
  else if t.rill.any (fun r => (rillTaken e s).contains r)
      || v.rill.any (fun r => !t.rill.contains r && ((mget s.que.rills r).bind (·.ctx)).isSome) then some .busy
  else if !vectorsFit v.vf t.vectors s then some .noSlot
  else if below 1 t.qCtx || below 2 t.qQueue || below 3 t.qObj || below 4 t.qFence || below 5 t.qRegion
      || named.any (fun c => t.classMask / 2 ^ c % 2 == 0) || (t.vectors ≠ v.vectors && msixOn v.vf s) then some .busy
  else none

/-- A memory change of an envelope must wait: a move is in progress, a page is in shared bias, or a REDUCE is in flight. -/
def memBusy (e : Nat) (v : Env) (s : State) : Bool :=
  v.move != .idle || s.coh.shared.any (fun p => v.lbase * 262144 ≤ p && p < (v.lbase + v.llen) * 262144)
    || s.cis.reds.any fun r => r.2.env == e && !r.2.isOver

/-- The allocator holds a block at or above an offset. -/
def blockAbove (e off : Nat) (s : State) : Bool := s.que.objs.any fun o => o.2.env == e && off < o.2.off + 2 ^ o.2.log2

/-- Bytes that DEVICE logging of a range takes: 64 KiB per GiB (R376). -/
def bitmapBytes (gibs : Nat) : Nat := 65536 * gibs

/-- The first 4 GiB hold an envelope's dirty bitmap beside the fence records, the bias bitmap and the bitmaps of the other
logging envelopes (R354, R374). -/
def bitmapFits (e : Nat) (v : Env) (s : State) : Bool :=
  let others := (s.env.envs.filter fun x => x.1 != e && x.2.dirty.isSome).map fun x => bitmapBytes x.2.llen
  others.foldl (· + ·) (2 ^ 20 + 2 ^ 25) + bitmapBytes v.llen ≤ 2 ^ 32

/-- The check of an action against Tables 15-3 and 15-4: its refusal, if any. -/
def actCheck (e : Nat) (a : EnvAct) (s : State) : Option Status :=
  match a, mget s.env.envs e with
  | .create t, _ => createCheck e (tmplOf t) s
  | _, none => some .busy
  | a, some v =>
    if !(v.st == .ready || v.st == .paused) then some .busy
    else match a with
    | .create _ => some .busy
    | .remove => none
    | .update t => updateCheck e v (tmplOf t) s
    | .coreBind i c =>
      if c = 0x3FF then (if i + 1 = v.cores.length then none else some .invalid)
      else if v.cores.length < i || coreBad c s then some .invalid
      else if coreBound c s then some .busy else none
    | .peerSet c _ => if c = s.spl.chip || !(peerSt c s == .seen || peerSt c s == .active) then some .invalid else none
    | .peerClear _ => none
    | .memMove b _ =>
      if memBusy e v s then some .busy else if rangeFits b v.llen (rangesUsed s) s then none else some .noMemory
    | .memSwitch => if v.move == .mirrored then none else some .busy
    | .memRelease => if v.move == .switched && v.rewritten && v.releaseIn.isNone then none else some .busy
    | .memLen n =>
      if memBusy e v s then some .busy
      else if n = 0 || s.rsvr.extent < v.lbase + n then some .noMemory
      else if n < v.llen then (if blockAbove e (n * gib) s then some .busy else none)
      else if rangeFits v.lbase n ((rangesUsed s).erase (v.lbase, v.llen)) s then none else some .busy
    | .pause => none
    | .resume => none
    | .dirtyStart r k _ _ =>
      if r % 4096 ≠ 0 || k < 10 || 24 < k then some .invalid else if bitmapFits e v s then none else some .noMemory
    | .dirtyStop => none

/-! ### Effects -/

/-- A tenant's view of its envelope has changed (R377). -/
def fnViewChanged (vf : Nat) (s : State) : State := setEvent (fnKey vf fENV_EVENT) 0 s

/-- ENV_DONE: 0 CREATED, 1 REMOVED, 2 SWITCHED, 3 RELEASED (log 34), and the tick of the last key acknowledgement. -/
def envDone (e code : Nat) (s : State) : State :=
  let t := ((mget s.env.envs e).map (·.ackTick)).getD 0
  auditO .envDone 0 0 e false [BitVec.ofNat 64 code, BitVec.ofNat 64 t] s

/-- CREATE's effect (R359, steps 1 and 2): the binding becomes current and the memory key is loaded at every key port. -/
def createEff (e : Nat) (t : Template) (s : State) : State :=
  match placeRange t.lbase t.llen s with
  | none => s
  | some b =>
    let v : Env := { vf := t.vf, tag := t.tag, kgen := t.kgen, hostId := t.hostId, classMask := t.classMask,
                     remoteRights := t.rights, lbase := b, llen := t.llen, qCtx := t.qCtx, qQueue := t.qQueue,
                     qFence := t.qFence, qRegion := t.qRegion, qObj := t.qObj, vectors := t.vectors, cores := t.cores,
                     rill := t.rill }
    let s := { s with env := { s.env with envs := mset s.env.envs e v, used := (t.tag, t.kgen) :: s.env.used } }
    let s := { s with obs := { s.obs with cnt := s.obs.cnt.filter fun c => !(c.1 / 4096 < 64 && c.1 % 4096 = t.vf) } }
    let s := modQue (fun q => { q with rills := t.rill.foldl (fun m r => mset m r {}) q.rills }) s
    let s := (filtAdd false (.pa (b * gib) (t.llen * gib)) true false s).2
    keyLoad (e + 1) (some e) (fnViewChanged t.vf (startJob (scrubJob e) s))

/-- The end of the scrub (R359, steps 3 and 4): the movers have been through the range, which reads zero, the function
is assigned, the envelope is READY. -/
def scrubDone (e : Nat) (s : State) : State :=
  match mget s.env.envs e with
  | none => s
  | some v =>
    if v.st != .creating || keyLeft ⟨0, e + 1, some e, []⟩ s then s
    else
      let s := rawClear (v.lbase * gib) (v.llen * gib) (dropJob (scrubJob e) s)
      let s := modEnv e (fun v => { v with
        st := .ready, scrubbed := v.llen * gib, blocks := cutBlocks 4096 0 (v.llen * gib) }) s
      let s := modFunc v.vf (fun f => { f with env := some e, vectors := v.vectors }) s
      let s := envDone e 0 (setEvent rENV_EVENT 0 s)
      kickWaiting (fnChanged v.vf s)

/-- Phase 7 ends once every template's envelope has been scrubbed (Table 4-6). -/
def phase7End (s : State) : State :=
  if s.spl.begun.contains 7 && !s.spl.ended.contains 7 && s.env.envs.all (fun v => v.2.st != .creating) then endPhase 7 s else s

/-- CREATE_SCRUB_DONE (R359). -/
def execCreateScrubDone (e : EnvIx) (s : State) : Res := answerAll (phase7End (scrubDone e.val s))

/-- Drop the Reservoir lines of a range without write-back. -/
def dropLines (lo len : Nat) (s : State) : State :=
  modRsvr (fun q => { q with lines := q.lines.filter fun l => l.1 * 64 < lo || lo + len ≤ l.1 * 64 }) s

/-- Traffic of a function at the host ports is dropped (Table 15-10); its host-window reads in flight complete with zero data,
as R104 has it for a function that is reset (log 149). -/
def dropTraffic (fn : Nat) (s : State) : State :=
  let port (h : HostPort) : HostPort := { h with
    uq := h.uq.filter fun e => e.fn != fn, replay := h.replay.filter fun e => e.fn != fn }
  modEp (fun x => { x with
    ports := mmap (fun _ h => port h) x.ports
    parked := x.parked.filter fun e => e.fn != fn
    replays := x.replays.filter fun r => r.fn != fn
    moves := x.moves.filter fun m => m.fn != fn }) (winReadsEnd fn s)

/-- HDM maps that name an envelope lose VALID (R97). -/
def hdmDropEnv (e : Nat) (s : State) : State :=
  each (List.range 16) (fun n s =>
    let k := rEPT_HDM_MAP + 8 * n
    let v := regRaw k s
    if bit v 0 && fld v 1 8 = e then setRaw k (v &&& ~~~1) s else s) s

/-- REMOVE's effect at tick E, cycle 0 (Table 15-10). -/
def removeEff (e : Nat) (v : Env) (s : State) : State :=
  let s := modEnv e (fun v => { v with st := .removing, removeTicks := 0, coresOut := v.cores, move := .idle, dirty := none }) s
  let s := modFunc v.vf (fun f => { f with gen := (f.gen + 1) % 65536, winActive := false }) s
  let s := each (ctxsOfEnv e s) (fun c s => destroyCtx c none s) s
  let s := each ((s.que.queues.filter fun q => q.2.ctx.isNone && q.2.fn == v.vf).map (·.1)) dropQueue s
  let s := dropTraffic v.vf (hdmDropEnv e (dropJob (moveJob e) (dropJob (scrubJob e) s)))
  let s := if v.move == .idle then s else dropLines (v.newBase * gib) (v.llen * gib) s
  dropLines (v.lbase * gib) (v.llen * gib) s

/-- UPDATE's effect. -/
def updateEff (e : Nat) (v : Env) (t : Template) (s : State) : State :=
  let s := modEnv e (fun v => { v with
    classMask := t.classMask, remoteRights := t.rights, qCtx := t.qCtx, qQueue := t.qQueue, qFence := t.qFence
    qRegion := t.qRegion, qObj := t.qObj, vectors := t.vectors, rill := t.rill }) s
  let new := t.rill.filter fun r => !v.rill.contains r
  let old := v.rill.filter fun r => !t.rill.contains r
  let s := modQue (fun q => { q with
    rills := new.foldl (fun m r => mset m r {}) (old.foldl (fun m r => mdel m r) q.rills) }) s
  let keep (k : Nat) : Bool := k / 2048 ≠ v.vf || k % 2048 < t.vectors
  let s := modFunc v.vf (fun f => { f with vectors := t.vectors }) (modEp (fun x => { x with
    msix := x.msix.filter fun m => keep m.1
    msixPending := x.msixPending.filter keep
    mods := x.mods.filter fun m => keep m.1 }) s)
  if new.isEmpty && old.isEmpty then s else fnViewChanged v.vf s

/-- A core leaves an envelope: CORE_QUIESCE goes out (R363). -/
def coreLeaves (e i c : Nat) (s : State) : State :=
  cfSend (c / 8) 7 (.ctl (c % 8) 1) { s with env := { s.env with leaving := mset s.env.leaving c (.quiescing, e, i) } }

/-- A core becomes an enabled coherent agent (R363). -/
def coreJoins (c : Nat) (s : State) : State :=
  modCoh (fun h => { h with agents := mset h.agents c { agentRec c s with st := .active, en := true } }) s

/-- CORE_BIND's effect (R363). -/
def coreBindEff (e i c : Nat) (v : Env) (s : State) : State :=
  let s := if c = 0x3FF then modEnv e (fun v => { v with cores := v.cores.dropLast }) s
    else coreJoins c (modEnv e (fun v => { v with
      cores := if i < v.cores.length then v.cores.set i c else v.cores ++ [c] }) s)
  let s := match v.cores[i]? with
    | some old => coreLeaves e i old s
    | none => s
  fnViewChanged v.vf s

/-- Translations through a chip's entry of the peer map are cleared (R368, Table 7-7). -/
def peerFilter (e c : Nat) (s : State) : State :=
  (filtAdd false (.va (some (ctxsOfEnv e s)) (c * 2 ^ 43) (2 ^ 43)) true false s).2

/-- MEM_LEN's effect (R367): memory that is added reads zero. -/
def memLenEff (e n : Nat) (v : Env) (s : State) : State :=
  let s := if v.llen < n then
      let s := rawClear ((v.lbase + v.llen) * gib) ((n - v.llen) * gib) s
      modEnv e (fun x => { x with blocks :=
        (cutBlocks 4096 (v.llen * gib) ((n - v.llen) * gib)).foldl (fun l b => joinBlock 40 b l) x.blocks }) s
    else
      let cut := x1 v n
      let s := modEnv e (fun x => { x with blocks := cut }) s
      let s := dropLines ((v.lbase + n) * gib) ((v.llen - n) * gib) s
      (filtAdd false (.pa ((v.lbase + n) * gib) ((v.llen - n) * gib)) true false s).2
  fnViewChanged v.vf (modEnv e (fun x => { x with llen := n, scrubbed := n * gib }) s)
where
  /-- the free blocks below a new end -/
  x1 (v : Env) (n : Nat) : List (Nat × Nat) :=
    (v.blocks.map fun b =>
      if b.2 + 2 ^ b.1 ≤ n * gib then [b] else if n * gib ≤ b.2 then [] else cutBlocks 4096 b.2 (n * gib - b.2)).flatten

/-- MEM_RELEASE's effect (R366): translations to the old range are cleared, and mirroring ends 2 ticks later. -/
def memReleaseEff (e : Nat) (v : Env) (s : State) : State :=
  modEnv e (fun v => { v with releaseIn := some 2 }) (filtAdd false (.pa (v.newBase * gib) (v.llen * gib)) true false s).2

/-- RESUME's effect (R373): recorded Rill notifications go, recorded doorbells are served from the next edge on. -/
def resumeEff (e : Nat) (v : Env) (s : State) : State :=
  if v.st != .paused && v.st != .pausing then s
  else
    let s := modEnv e (fun v => { v with st := .ready, pauseNeed := none, rillDue := [] }) s
    let s := each v.rillDue (fun slot s =>
      let r := mgetD s.que.rills slot {}
      let w : W64 := BitVec.ofNat 64 (ofBytes (cellsGet r.mem 4088 8))
      rillNotify v.vf slot (v.cores.getD r.core 0) (fld w 0 32) (fld w 32 12) s) s
    kickWaiting s

/-- An action takes effect (Table 15-3). -/
def actEff (e : Nat) (a : EnvAct) (s : State) : State :=
  match a, mget s.env.envs e with
  | .create t, _ => createEff e (tmplOf t) s
  | _, none => s
  | .remove, some v => removeEff e v s
  | .update t, some v => updateEff e v (tmplOf t) s
  | .coreBind i c, some v => coreBindEff e i c v s
  | .peerSet c m, some v => fnViewChanged v.vf (peerFilter e c (modEnv e (fun v => { v with peers := mset v.peers c m }) s))
  | .peerClear c, some v => fnViewChanged v.vf (peerFilter e c (modEnv e (fun v => { v with peers := mdel v.peers c }) s))
  | .memMove b n, some _ =>
    modEnv e (fun v => { v with move := .copying, newBase := b, movers := n, rewritten := false }) (startJob (moveJob e) s)
  | .memSwitch, some v =>
    envDone e 2 (modEnv e (fun x => { x with move := .switched, lbase := v.newBase, newBase := v.lbase }) s)
  | .memRelease, some v => memReleaseEff e v s
  | .memLen n, some v => memLenEff e n v s
  | .pause, some v => if v.st == .ready then modEnv e (fun v => { v with st := .pausing, pauseNeed := none }) s else s
  | .resume, some v => resumeEff e v s
  | .dirtyStart r k dv h, some _ => dropPages (fun x => x.1 == e)
      (modEnv e (fun v => { v with dirty := some { ring := r, k := k, device := dv, host := h } }) s)
  | .dirtyStop, some _ => kickWaiting (modEnv e (fun v => { v with dirty := none }) s)

/-! ### Actions -/

/-- The action that ENV_ACTION, ENV_ARG0 and ENV_ARG1 name, with the template read from host memory; none for an operation
that Table 15-3 does not list. -/
def actOf (v : W64) (tmpl : List Byte) (s : State) : Option EnvAct :=
  let a := regRaw rENV_ARG0 s
  let b := regRaw rENV_ARG1 s
  match fld v 0 5 with
  | 0 => some (.create tmpl)
  | 1 => some .remove
  | 2 => some (.update tmpl)
  | 3 => some (.coreBind (fld a 0 10) (fld a 10 10))
  | 4 => some (.peerSet (fld a 0 13) ⟨fld a 16 15, fld a 32 13, fld a 13 3⟩)
  | 5 => some (.peerClear (fld a 0 13))
  | 6 => some (.memMove (fld a 0 15) (fld a 16 3 + 1))
  | 7 => some .memSwitch
  | 8 => some .memRelease
  | 9 => some (.memLen (fld a 0 13))
  | 10 => some .pause
  | 11 => some .resume
  | 12 => some (.dirtyStart a.toNat (fld b 0 5) (bit b 5) (bit b 6))
  | 13 => some .dirtyStop
  | _ => none

/-- An action is refused: its status, REFUSED, and the audit record; nothing else changes (R356). -/
def actRefuse (v : W64) (st : Status) (s : State) : State :=
  let s := { s with env := { s.env with busy := false, status := st } }
  auditO .policyRefused 1 0 (fld v 8 8) true [v, BitVec.ofNat 64 (statusCode st)] (setEvent rENV_EVENT 3 s)

/-- First 32 bytes of a template's digest, for CREATE and UPDATE. -/
def tmplWords (a : EnvAct) : List W64 :=
  match a with
  | .create t => digestWords (Config.sha384 t)
  | .update t => digestWords (Config.sha384 t)
  | _ => []

/-- An action is decided (R356 to R358): accepted, its record stands before its effect. -/
def actDecide (v : W64) (eff : Nat) (tmpl : List Byte) (s : State) : State :=
  let e := fld v 8 8
  match actOf v tmpl s with
  | none => actRefuse v .invalidOp s
  | some a =>
    if eff ≤ tick s then actRefuse v .invalid s
    else if !s.env.pending.isEmpty && s.env.effect ≠ eff then actRefuse v .busy s
    else match actCheck e a s with
    | some st => actRefuse v st s
    | none =>
      let s := signC .envAction e ([BitVec.ofNat 64 (fld v 0 5), BitVec.ofNat 64 e, BitVec.ofNat 64 eff,
        regRaw rENV_ARG0 s, regRaw rENV_ARG1 s] ++ tmplWords a) s
      { s with env := { s.env with pending := s.env.pending ++ [(e, a)], effect := eff, status := .ok } }

/-- Change the template read of the action in hand. -/
def modTmpl (f : TmplRead → TmplRead) (s : State) : State := { s with env := { s.env with tmpl := s.env.tmpl.map f } }

/-- The template of the action in hand is read: 256 bytes at ENV_ARG0, untranslated, through the physical function's primary
instance (R14, R148, R357). Without one the read waits, which is a wake event (R98, R109). -/
def tmplIssue (s : State) : State :=
  match s.env.tmpl with
  | none => s
  | some t =>
    if t.sent then s
    else match primary 0 s with
    | none => parkWake 0 s
    | some p =>
      let cuts := busCut (mrrs 0 p s) 64 (regRaw rENV_ARG0 s).toNat 256
      if !npRoom p cuts.length s then s
      else (cuts.foldl (fun (a : Nat × State) c =>
        let t := npTag p a.2
        (a.1 + c.2, npIssue p ⟨t, 0, (func 0 a.2).gen, none, 0, none, c.1, c.2, .template a.1, false⟩ (.read 0 none t c.1 c.2)
          (some 3) (units c.2) a.2)) (0, modTmpl (fun t => { t with sent := true }) s)).2

/-- Operations whose ENV_ARG0 is the address of a template. -/
def takesTmpl (v : W64) : Bool := fld v 0 5 = 0 || fld v 0 5 = 2

/-- An action starts (R356, R357): its effect tick is fixed. CREATE and UPDATE read their template first; CREATE's must
be 64-byte aligned. -/
def actStart (p : HP) (v : W64) (s : State) : State :=
  let ahead := dist32 (fld v 32 32) (tick s)
  let s := { s with env := { s.env with busy := true } }
  if fld v 0 5 < 14 && (ahead < 4 || 2 ^ 31 - 1 < ahead) then actRefuse v .invalid s
  else if fld v 0 5 = 0 && fld (regRaw rENV_ARG0 s) 0 6 ≠ 0 then actRefuse v .invalid s
  else if takesTmpl v then
    tmplIssue { s with env := { s.env with tmpl := some { act := v, port := p, effect := tick s + ahead } } }
  else actDecide v (tick s + ahead) [] s

/-- A write of ENV_ACTION's upper half whose operation is that of the row; one of an operation that Table 15-3 does not list
is taken by any row. A write while BUSY is discarded; the start waits under the stall rule (R356, R414). -/
def actWrite (op : Nat) (p : HP) (w : RegW) (cmd : W64 → Instr) (s : State) : State :=
  match mgrTake p.val rENV_ACTION w s with
  | (none, s) => s
  | (some v, s) =>
    if s.env.busy || (fld v 0 5 ≠ op && fld v 0 5 < 14) then s
    else
      let s := setRaw rENV_ACTION (v &&& 0xFFFFFFFF0000FF1F) s
      classC (cmd v) (actStart p v) { s with env := { s.env with busy := true } }

/-- The template of an action is there: poison refuses the action with POISON (DESIGN CHOICE, log 131); otherwise it is
decided, under the stall rule, which lets it start again when the wait ends (R414). -/
def tmplDone (t : TmplRead) (s : State) : State :=
  let s := { s with env := { s.env with tmpl := none } }
  let again : Instr := if fld t.act 0 5 = 0 then .create t.port (.full t.act) () else .update t.port (.full t.act) ()
  if t.bad then actRefuse t.act .poison s
  else classC again (actDecide t.act t.effect (cellsGet t.data 0 256)) s

/-- Bytes of a template arrive. -/
def tmplData (off : Nat) (d : List Byte) (bad : Bool) (s : State) : State :=
  match s.env.tmpl with
  | none => s
  | some t =>
    let t := { t with data := cellsSet t.data off d, left := t.left - d.length, bad := t.bad || bad }
    if t.left = 0 then tmplDone t s else modTmpl (fun _ => t) s

/-- The read of a template waits to be issued, or has lost its requests with the generation of its function (R115). -/
def tmplEdge (s : State) : State :=
  let is (n : NpReq) : Bool := match n.purpose with
    | .template _ => true
    | _ => false
  match s.env.tmpl with
  | none => s
  | some t =>
    if t.sent && !((List.range 4).any fun p => (hport p s).nps.any is) && !(s.ep.replays.any fun r => r.nps.any is) then
      tmplDone { t with bad := true } s
    else tmplIssue s

/-- CREATE (R359). -/
def execCreate (p : HP) (w : RegW) (_ : Unit) (s : State) : Res :=
  answerAll (actWrite 0 p w (fun v => .create p (.full v) ()) s)

/-- REMOVE (R371). -/
def execRemove (p : HP) (w : RegW) (s : State) : Res := answerAll (actWrite 1 p w (fun v => .remove p (.full v)) s)

/-- UPDATE (R357). -/
def execUpdate (p : HP) (w : RegW) (_ : Unit) (s : State) : Res :=
  answerAll (actWrite 2 p w (fun v => .update p (.full v) ()) s)

/-- CORE_BIND (R363). -/
def execCoreBind (p : HP) (w : RegW) (s : State) : Res := answerAll (actWrite 3 p w (fun v => .coreBind p (.full v)) s)

/-- PEER_SET (R368). -/
def execPeerSet (p : HP) (w : RegW) (s : State) : Res := answerAll (actWrite 4 p w (fun v => .peerSet p (.full v)) s)

/-- PEER_CLEAR (R368). -/
def execPeerClear (p : HP) (w : RegW) (s : State) : Res := answerAll (actWrite 5 p w (fun v => .peerClear p (.full v)) s)

/-- MEM_MOVE (R365). -/
def execMemMove (p : HP) (w : RegW) (s : State) : Res := answerAll (actWrite 6 p w (fun v => .memMove p (.full v)) s)

/-- MEM_SWITCH (R365). -/
def execMemSwitch (p : HP) (w : RegW) (s : State) : Res := answerAll (actWrite 7 p w (fun v => .memSwitch p (.full v)) s)

/-- MEM_RELEASE (R366). -/
def execMemRelease (p : HP) (w : RegW) (s : State) : Res := answerAll (actWrite 8 p w (fun v => .memRelease p (.full v)) s)

/-- MEM_LEN (R367). -/
def execMemLen (p : HP) (w : RegW) (s : State) : Res := answerAll (actWrite 9 p w (fun v => .memLen p (.full v)) s)

/-- PAUSE (R373). -/
def execPause (p : HP) (w : RegW) (s : State) : Res := answerAll (actWrite 10 p w (fun v => .pause p (.full v)) s)

/-- RESUME (R373). -/
def execResume (p : HP) (w : RegW) (s : State) : Res := answerAll (actWrite 11 p w (fun v => .resume p (.full v)) s)

/-- DIRTY_START (R374). -/
def execDirtyStart (p : HP) (w : RegW) (s : State) : Res := answerAll (actWrite 12 p w (fun v => .dirtyStart p (.full v)) s)

/-- DIRTY_STOP (R357). -/
def execDirtyStop (p : HP) (w : RegW) (s : State) : Res := answerAll (actWrite 13 p w (fun v => .dirtyStop p (.full v)) s)

/-! ### The course of moves, pauses and removals -/

/-- The last piece of a move has been copied (R365): from here on both ranges hold every byte. The row tells that the
movers are through; what of their pieces had still to be copied is copied with it (log 31). -/
def moveCopied (e : Nat) (s : State) : State :=
  match mget s.env.envs e with
  | none => s
  | some v =>
    if v.move != .copying then s
    else
      let lo := v.lbase * gib
      let n := v.llen * gib
      let dest := v.newBase * gib
      let s := rawClear dest n (dropJob (moveJob e) s)
      let bytes := s.rsvr.mem.filter fun c => lo ≤ c.1 && c.1 < lo + n
      let bad := s.rsvr.poison.filter fun w => lo ≤ w * 8 && w * 8 < lo + n
      let s := modRsvr (fun q => { q with
        mem := bytes.foldl (fun m c => mset m (c.1 - lo + dest) c.2) q.mem
        poison := bad.foldl (fun p w => insNat ((w * 8 - lo + dest) / 8) p) q.poison }) s
      setEvent rENV_EVENT 2 (modEnv e (fun v => { v with move := .mirrored }) s)

/-- MOVE_COPIED (R365). -/
def execMoveCopied (e : EnvIx) (s : State) : Res := answerAll (moveCopied e.val s)

/-- Entries of a page-table object that name the old range are rewritten to the new one (R365). -/
def rewriteObj (lo n dest base len : Nat) (s : State) : State :=
  let ws := ((s.rsvr.mem.filter fun c => base ≤ c.1 && c.1 < base + len).map fun c => c.1 / 8).eraseDups
  each ws (fun w s =>
    let e := ofBytes (cellsGet s.rsvr.mem (w * 8) 8)
    let a := e / 2 ^ 12 % 2 ^ 45 * 4096
    if e % 2 = 1 && paChip a = s.spl.chip % 2 ^ 13 && lo ≤ paLocal a && paLocal a < lo + n then
      memPut (w * 8) (toBytes 8 (e - lo + dest)) s
    else s) s

/-- The page tables of an envelope are rewritten after MEM_SWITCH (R365). -/
def rewriteDone (e : Nat) (s : State) : State :=
  match mget s.env.envs e with
  | none => s
  | some v =>
    if v.move != .switched || v.rewritten then s
    else
      let ts := s.que.objs.filter fun o => o.2.isPt && o.2.env == e
      let s := each ts (fun o s =>
        rewriteObj (v.newBase * gib) (v.llen * gib) (v.lbase * gib) (objRange o.2 s).1 o.2.ptNext s) s
      modEnv e (fun v => { v with rewritten := true }) s

/-- REWRITE_DONE (R365). -/
def execRewriteDone (e : EnvIx) (s : State) : Res := answerAll (rewriteDone e.val s)

/-- Mirroring ends (R366): the old range's lines are dropped and the range returns to the pool, where it reads zero. -/
def releaseEnd (e : Nat) (v : Env) (s : State) : State :=
  let s := modEnv e (fun v => { v with move := .idle, newBase := 0, releaseIn := none, rewritten := false }) s
  envDone e 3 (rawClear (v.newBase * gib) (v.llen * gib) (dropLines (v.newBase * gib) (v.llen * gib) s))

/-- Tick E + 2 of a removal (Table 15-10): the memory key is zeroised at every port, fabric and placement keys end, and Rill
slots are cleared and unassigned. -/
def removeKeys (e : Nat) (v : Env) (s : State) : State :=
  let cs := ctxsOfEnv e s
  let s := modQue (fun q => { q with
    regions := mmap (fun _ r => if cs.contains r.ctx then { r with ending := true } else r) q.regions
    rills := v.rill.foldl (fun m r => mdel m r) q.rills }) s
  let s := modEnv e (fun v => { v with rill := [] }) s
  let s := auditO .keyEvent 0 0 e false [BitVec.ofNat 64 (e + 1), 2, 0] s
  keyZeroise (e + 1) (some e) s

/-- Cores of a removed envelope whose work has ended are flushed and reset (Table 15-10). -/
def removeCores (e : Nat) (v : Env) (s : State) : State :=
  let idle := v.cores.filter fun c => v.coresOut.contains c && (mget s.env.leaving c).isNone && (tokensOn c s).isEmpty
  each idle (fun c s =>
    if s.port.coreOut.contains c then modEnv e (fun v => { v with coresOut := v.coresOut.filter (· != c) }) s
    else
    let s := { s with env := { s.env with leaving := mset s.env.leaving c (.quiescing, e, 0) } }
    if agentSt c s == .active then setLeave c (.flushing 0) (flushAgent c s) else leaveReset c s) s

/-- The end of a removal (Table 15-10): after every key acknowledgement, core return and destruction the envelope is FREE,
its function unbound, its vectors back in the pool, and its range reads zero. -/
def removalEnd (e : Nat) (s : State) : State :=
  match mget s.env.envs e with
  | none => s
  | some v =>
    if v.st != .removing || v.removeTicks < 2 || keyLeft (zeroSlot (e + 1) (some e)) s || !v.coresOut.isEmpty || !(ctxsOfEnv e s).isEmpty then s
    else
      let objs := (s.que.objs.filter fun o => o.2.env == e).map (·.1)
      let s := each objs (fun i s => modQue (fun q => { q with
        objs := mdel q.objs i, objSlots := freeSlot i (bumpSlot i q.objSlots) }) s) s
      let s := modFunc v.vf (fun f => { f with env := none, vectors := 1 }) s
      let s := rawClear (v.lbase * gib) (v.llen * gib) s
      let s := envDone e 1 s
      let s := { s with env := { s.env with envs := mdel s.env.envs e } }
      kickWaiting (fnChanged v.vf (setEvent rENV_EVENT 1 s))

/-- REMOVAL_END (R371). -/
def execRemovalEnd (e : EnvIx) (s : State) : Res := answerAll (removalEnd e.val s)

/-- A PAUSING envelope becomes PAUSED (R373): no started command is left, and its dirty records are covered by flushes. -/
def pauseCheck (e : Nat) (v : Env) (s : State) : State :=
  let cs := ctxsOfEnv e s
  let qs := (s.que.queues.filter fun q => match q.2.ctx with
    | some c => cs.contains c
    | none => false).map (·.1)
  if s.que.cmds.any fun c => qs.contains c.2.queue && c.2.st != .queued then s
  else if v.dirty.isNone then modEnv e (fun v => { v with st := .paused }) s
  else match v.pauseNeed, primary 0 s with
  | some l, _ => if needMet l s then modEnv e (fun v => { v with st := .paused, pauseNeed := none }) s else s
  | none, some p =>
    if (hport p s).uq.any (fun u => u.rank == 4) then s
    else flushWork p 0 (modEnv e (fun v => { v with pauseNeed := some [(p, (hport p s).seq)] }) s)
  | none, none => s

/-- What an edge does in every envelope that is changing. -/
def envTick (s : State) : State :=
  let back := (s.env.leaving.filter fun l => l.2.1 == .returning).map (·.1)
  let age (l : CoreLeave × Nat × Nat) : CoreLeave × Nat × Nat := match l.1 with
    | .flushing n => (.flushing (n + 1), l.2)
    | .resetting n => (.resetting (n + 1), l.2)
    | _ => l
  let s := { s with env := { s.env with
    leaving := mmap (fun _ l => age l) (s.env.leaving.filter fun l => !back.contains l.1)
    envs := mmap (fun _ v => { v with coresOut := v.coresOut.filter fun c => !back.contains c }) s.env.envs } }
  each (mkeys s.env.envs) (fun e s =>
    match mget s.env.envs e with
    | none => s
    | some v =>
      if v.st == .removing then
        let s := modEnv e (fun v => { v with removeTicks := v.removeTicks + 1 }) s
        let s := if v.removeTicks + 1 = 2 then removeKeys e v s else s
        if 2 ≤ v.removeTicks + 1 then removeCores e v s else s
      else
        let s := match v.releaseIn with
          | some n => if n ≤ 1 then releaseEnd e v s else modEnv e (fun v => { v with releaseIn := some (n - 1) }) s
          | none => s
        if v.st == .pausing then pauseCheck e v s else s) s

/-- The edge of the effect tick (R34, R357): every action of the pending epoch takes effect, in the order in which they
started, and the epoch is current. -/
def epochEdge (s : State) : State :=
  if s.env.pending.isEmpty || tick s < s.env.effect then s
  else
    let l := s.env.pending
    let n := (s.env.epoch + 1) % 2 ^ 32
    let s := { s with env := { s.env with pending := [], busy := false, epoch := n } }
    let s := traceRec ⟨s.time.now, 0, 0, 0x0E, 0, 0xFFF, 0xFF, 10, BitVec.ofNat 64 n⟩ s
    each l (fun a s => actEff a.1 a.2 s) s

/-! ### The dirty ring and ZEROISE_ALL -/

/-- Pending pages get their records while the ring has room, in address order (R376). -/
def dirtyPend (e : Nat) : Nat → State → State
  | 0, s => s
  | n + 1, s =>
    match dirtyOf e s with
    | none => s
    | some d => match d.pend with
      | [] => s
      | p :: r => if dirtyFull d then s else dirtyPend e n (dirtyWrite e false p (modDirty e (fun d => { d with pend := r }) s))

/-- Records up to a new HEAD are consumed (R375, R376). -/
def dirtyHead (e : Nat) (v : Nat) (s : State) : State :=
  match dirtyOf e s with
  | none => s
  | some d =>
    let n := dist32 v d.head
    if d.recs.length < n then s
    else
      let gone := ((d.recs.take n).filter fun r => !r.1).map (·.2)
      let hosts := ((d.recs.take n).filter (·.1)).map (·.2)
      let s := modDirty e (fun d => { d with
        head := v, cleared := v, recs := d.recs.drop n, logged := d.logged.filter fun p => !gone.contains p })
        (dropPages (fun x => x.1 == e && hosts.contains x.2) s)
      kickWaiting (dirtyPend e (2 ^ d.k) s)

/-- DIRTY_HEAD_WRITE (R376): ENV_DIRTY_HEAD is written, for the envelope that the port has selected. A value beyond TAIL is
discarded (log 35). -/
def execDirtyHeadWrite (p : HP) (v : W32) (s : State) : Res :=
  answerAll (if mgrOpen p.val rENV_DIRTY_HEAD s then dirtyHead (fld (selGet p.val rENV_SEL s) 0 8) v.toNat s else s)

/-- Steps 3 and 4 of R370: every key the store holds is gone, and each key port zeroises all its slots. -/
def zeroiseKeys (s : State) : State :=
  let port (h : HostPort) : HostPort := { h with
    ideKeys := [], spdm := false, ideSecure := h.ideSecure && h.ideRun.isEmpty, ideRun := [] }
  let s := modEp (fun x => { x with ports := mmap (fun _ h => port h) x.ports }) s
  let s := modFab (fun b => { b with peers := [], outbox := [] }) s
  let s := modSpl (fun p => { p with peers := mmap (fun _ x => if x.st == .active then { x with st := .lost } else x) p.peers }) s
  let s := modQue (fun q => { q with regions := mmap (fun _ r => { r with ending := true }) q.regions }) s
  let s := { s with obs := { s.obs with auditOn := false } }
  keyAll zeroAll s

/-- Step 2 of R370 is over: the audit ring holds every record. -/
def zeroiseEdge (s : State) : State :=
  if s.env.zeroising && !s.env.zeroised && !keyLeft zeroAll s && (!s.obs.auditOn || s.obs.auditTail = s.obs.auditSeq) then
    zeroiseKeys s
  else s

/-- ZEROISE_ALL's effect (R370): refused while an envelope is not FREE or a sluice stop is announced or held; else work stops
and the record of KEY_EVENT 4 goes on its way. -/
def zeroiseAll (s : State) : State :=
  if !s.env.envs.isEmpty || s.sluice.st != .idle then { s with env := { s.env with zeroRefused := true } }
  else if s.env.zeroising then s
  else
    let s := { s with env := { s.env with zeroRefused := false, zeroising := true } }
    let s := each (mkeys s.que.ctxs) (fun c s => destroyCtx c none s) s
    let s := each ((s.que.queues.filter fun q => q.2.ctx.isNone).map (·.1)) dropQueue s
    let s := modQue (fun q => { q with reqs := [] }) s
    auditO .keyEvent 1 0 noEnv false [0, 4, BitVec.ofNat 64 (keyPorts s).length] s

/-- ZEROISE_ALL (R370): KEY_CTRL is written with bit 0. -/
def execZeroiseAll (p : HP) (v : W32) (s : State) : Res :=
  answerAll (if mgrOpen p.val rKEY_CTRL s && v.getLsbD 0 then zeroiseAll s else s)

end Sys2Proof.Machine
end

