-- ==== Sys2Proof/Machine/Movers.lean ====
section
/-! DEFINITION. The mover work that the block gives itself (R192, Table 8-2): scrubs (R86, R359), the copies of mirrored
pairs (R365) and of the buckets that leave a port (R296). -/
namespace Sys2Proof.Machine

/-- The granule of a bucket in a 64 KiB block of the local address space (R285, R287). -/
def bucketGran (b blk : Nat) (s : State) : Nat := blk * 65536 + Nat.xor b (bucketOf (blk * 65536) s) * 256

/-- Movers that a job may use at once: as many as carry 3.9 TB/s of scrub writes (R86), those that MEM_MOVE gives
(R365), and one for a bucket, whose blocks go in order (R296). -/
def jobMovers (k : Nat) (s : State) : Nat :=
  if k < 64 then 18
  else if k < 128 then ((mget s.env.envs (k - 64)).map (·.movers)).getD 0
  else 1

/-- The next piece of a job: what it does, for which envelope, how far it takes the job, and its class; none where
nothing is left or may start yet. A scrub waits for the key at every port (R359); a move goes in 64 KiB (R365), the
others under R198. -/
def jobPiece (k : Nat) (s : State) : Option (ReqOp × Option Nat × Nat × Nat) :=
  let off := mgetD s.que.jobs k 0
  let scrub := regFld rMOV_CLASS 0 4 s
  let migrate := regFld rMOV_CLASS 4 4 s
  if k < 64 then
    match mget s.env.envs k with
    | some v =>
      let n := min (pieceMax scrub false false s) (v.llen * gib - off)
      if v.st != .creating || keyLeft ⟨0, k + 1, some k, []⟩ s || n = 0 then none
      else some (.scrub k (v.lbase * gib + off) n, some k, off + n, scrub)
    | none => none
  else if k < 128 then
    match mget s.env.envs (k - 64) with
    | some v =>
      let n := min 65536 (v.llen * gib - off)
      if v.move != .copying || n = 0 then none
      else some (.carry (k - 64) (v.lbase * gib + off) (v.newBase * gib + off) n, some (k - 64), off + n, migrate)
    | none => none
  else
    match s.rsvr.moves with
    | v :: _ =>
      let n := min (pieceMax migrate false false s / 256) (extBlocks (s.rsvr.lowerTo.getD s.rsvr.extent) - off)
      if n = 0 then none
      else some (.shift ((List.range n).map fun i => bucketGran v.bucket (off + i) s), none, off + n, migrate)
    | [] => none

/-- Pieces of a job that movers have in hand. -/
def jobOpen (k : Nat) (s : State) : Nat := (s.que.reqs.filter fun e => jobOf e.2.op == some k).length

/-- Issue a job's pieces while a mover is free for it and the bytes that its movers carry in a tick last. -/
def jobRun (k : Nat) : Nat → Nat → State → State
  | 0, _, s => s
  | f + 1, bytes, s =>
    match jobPiece k s with
    | none => s
    | some (op, env, reach, cls) =>
      if bytes < moverBytes op || jobMovers k s ≤ jobOpen k s || (freeMovers s).isEmpty then s
      else jobRun k f (bytes - moverBytes op)
        (newReq { who := .block, fn := 0, env := env, op := op, hint := 1, ident := { cls := cls } }
          (modQue (fun q => { q with jobs := mset q.jobs k reach }) s))

/-- The movers' own work of a tick: 128 bytes in each of its 1,700 cycles for each mover (R192). -/
def jobsEdge (s : State) : State := each (mkeys s.que.jobs) (fun k s => jobRun k 1024 (217600 * jobMovers k s) s) s

end Sys2Proof.Machine
end

