-- ==== Sys2Proof/Machine/Completion.lean ====
section
/-! DEFINITION. What the block's own reads of host memory come back with: completions (R115) and timeouts (R163, R169,
R210). -/
namespace Sys2Proof.Machine

/-- Data of a read of a current generation, or poison in its place. -/
def npData (n : NpReq) (d : List Byte) (bad : Bool) (s : State) : State :=
  let full := if d.length = n.len then d else (d ++ List.replicate n.len 0).take n.len
  match n.purpose with
  | .flush _ => s
  | .fetch q num => fetchArrive q num n.fn bad bad bad s
  | .access id off => reqData id off full bad s
  | .ats .. => s
  | .template off => tmplData off full bad s

/-- COMPLETION (R115): data of a non-posted request, with EP where it is poison; of a stale generation it is discarded
and counted. -/
def execCompletion (p : HP) (tag : BitVec 14) (data : List Byte) (ep : Bool) (s : State) : Res :=
  answerAll (match takeNp p.val tag.toNat s with
    | (none, _) => s
    | (some n, s') => match n.purpose with
      | .flush _ => s
      | _ =>
        let s' := count 7 1 p.val data.length s'
        if npFresh n s' then npData n data ep (countFn n.fn 2 data.length s') else lateCompletion s')

/-- Another port that a function can use. -/
def otherPort (fn p : Nat) (s : State) : Option Nat :=
  (usablePorts fn s).find? fun q => q != p && (hport q s).st == .up

/-- COMPLETION_TIMEOUT's effect (R115, R163, R169, R210): an ATS request ends its accesses; a flush counts as complete
for an invalidation, and puts its port into SUSPECT, after which one behind the replay stands in for it; a read is sent
once more on another port, or comes back poisoned. -/
def npTimeout (p tag : Nat) (s : State) : State :=
  match s.tr.ats.find? fun a => a.tag == tag && a.port == p, takeNp p tag s with
  | some a, _ => if atsFresh a s then atsDone p tag .refused s else atsDrop a s
  | none, (none, _) => s
  | none, (some n, s') =>
    if !npFresh n s' then s'
    else match n.purpose with
    | .flush u =>
      let waits (x : Nat × Nat) : Bool := x.1 == p && x.2 ≤ u
      let inv := s'.tr.invals.any fun v => v.fl.any waits
      let s' := modTr (fun t => { t with invals := t.invals.map fun v => { v with fl := v.fl.filter fun x => !waits x } }) s'
      let s' := if inv then setEvent rTRN_EVENT 4 s' else s'
      portLost p .suspect (setEvent rDPA_EVENT (4 + p) (raise (32 + p) .partnerTimeout none none 0 s'))
    | _ => match (if n.resent then none else otherPort n.fn p s') with
      | some q => resendNp q true n s'
      | none => match n.purpose with
        | .fetch q num => fetchFail q num n.fn s'
        | _ => npData n [] true s'

/-- COMPLETION_TIMEOUT (R210). -/
def execCompletionTimeout (p : HP) (tag : BitVec 14) (s : State) : Res := answerAll (npTimeout p.val tag.toNat s)

end Sys2Proof.Machine
end

