-- ==== Sys2Proof/Machine/Units.lean ====
section
/-! DEFINITION. Units that leave service, their tests and their ballast (R20, R389 to R392). -/
namespace Sys2Proof.Machine

/-- The spare of lowest number that stands in for nothing and is itself sound. -/
def spareOf (kind : Nat) (s : State) : Option Nat :=
  let (n, k) := unitCounts kind
  ((List.range k).map (n + ·)).find? fun i =>
    (mget s.weir.units (unitKey kind i)).isNone && (placeOf kind i s).isNone

def setUnit (key : Nat) (st : UnitSt) (s : State) : State :=
  { s with weir := { s.weir with units := mset s.weir.units key st } }

/-- The home slice of a bucket by the image's table (R280), as its carrier now stands. -/
def homeSlice (b : Nat) (s : State) : Nat := carrier 1 (s.spl.img.bucketTable.getD b 0) s

/-- The work of a kind of units lies where its places are carried (Table 16-7): the map entries of the translation
slices, with the L2 entries of a slice that no entry names lost (R160); the buckets of the Reservoir slices, with the
clean lines of a bucket that moves dropped (R280, R298). Lanes are found where they are used. A piece whose mover is
lost leaves it, and starts again on one in service (R192), unless its transactions are on their way. -/
def rewire (kind : Nat) (s : State) : State :=
  if kind = 0 then
    let now := (List.range 32).map fun h => (h, carrier 0 h s)
    modTr (fun t => { t with sliceMap := now, l2 := t.l2.filter fun e => now.any fun m => m.2 == e.slice }) s
  else if kind = 1 then
    let moves (l : Nat) : Bool :=
      let b := bucketOf (l * 64) s
      (bucket b s).slice != homeSlice b s
    let lines := s.rsvr.lines.filter fun l => !moves l.1 || l.2.dirty
    modRsvr (fun q => { q with lines := lines, buckets := mmap (fun b x => { x with slice := homeSlice b s }) q.buckets }) s
  else if kind = 3 then
    modQue (fun q => { q with reqs := mmap (fun _ r => if r.mover.any fun m => (standIn 3 m s).isNone then leaveMover r else r) q.reqs }) s
  else s

/-- The event of a substitution at the units of a kind (R160, R327). -/
def substEvent (kind : Nat) (s : State) : State :=
  if kind = 0 then setEvent rTRN_EVENT 5 s else if kind = 2 then setEvent rCIS_EVENT 4 s else s

/-- A ballast unit takes a place (R390). -/
def substitute (kind place b : Nat) (s : State) : State :=
  setEvent rWEIR_EVENT 0 (substEvent kind (rewire kind
    { s with weir := { s.weir with subst := mset s.weir.subst (unitKey kind place) b } }))

/-- A place has lost its unit. Under BALLAST_POLICY 0 and 1 a spare takes it; under 1 the manager's Weir vector is raised
(R390). Without one the places left carry its work. -/
def placeLost (kind place : Nat) (s : State) : State :=
  match (if 2 ≤ s.spl.img.ballastPolicy then none else spareOf kind s) with
  | none => rewire kind s
  | some b => whenS (s.spl.img.ballastPolicy == 1) (fire 0 (regFld rSYN_MGR_VEC 16 11 s)) (substitute kind place b s)

/-- The state of a unit that stays out of service. -/
def unitOut (kind inst : Nat) (s : State) : State :=
  let key := unitKey kind inst
  let (n, k) := unitCounts kind
  let st : UnitSt := if (mget s.weir.subst key).isSome then .replaced
    else if 2 ≤ s.spl.img.ballastPolicy && k ≠ 0 && inst < n then .waitingSubst else .outOfService
  setUnit key st s

/-- A unit leaves service (R20): its place is filled again; a mooring core is dead as an agent, and its lines are
reclaimed (R274). A ballast unit that stood in
leaves its place, whose own unit then shows whether it has been replaced again. -/
def unitLeave (kind inst : Nat) (s : State) : State :=
  let s := whenS (kind = 4) (killAgent (512 + inst) 7) s
  let place := placeOf kind inst s
  let s := setUnit (unitKey kind inst) .leaving s
  match place with
  | none => s
  | some h =>
    if h = inst then placeLost kind h s
    else
      let key := unitKey kind h
      let s := placeLost kind h { s with weir := { s.weir with subst := mdel s.weir.subst key } }
      if mget s.weir.units key == some .replaced then unitOut kind h s else s

/-- A unit returns to service; the ballast that stood in is spare again. A mooring core is an agent without lines again. -/
def unitBack (kind inst : Nat) (s : State) : State :=
  let key := unitKey kind inst
  let s := rewire kind { s with weir := { s.weir with units := mdel s.weir.units key, subst := mdel s.weir.subst key } }
  if kind = 4 then
    let s := if sweepDue (512 + inst) s then reclaimSweep (512 + inst) s else s
    modCoh (fun c => { c with agents := mdel c.agents (512 + inst) }) s
  else if kind = 7 then modPort (inst / 4) (fun h => { h with laneOut := h.laneOut.filter (· != inst % 4) }) s
  else s

/-- A lane group leaves service (R51): where the port uses it, the port trains again through Recovery at the widest
width that the lane groups in service allow, and loses nothing (R21, R206; log 87); without one it goes out of service.
-/
def laneGroupOut (inst : Nat) (s : State) : State :=
  let p := inst / 4
  let s := modPort p (fun h => { h with laneOut := insNat (inst % 4) h.laneOut }) s
  let h := hport p s
  if h.link < 2 || !h.groups.contains (inst % 4) then s
  else match arrangement h.width h.laneOut with
    | none => modPort p (fun h => { h with link := 0 }) (linkDown p s)
    | some a => trainAt p a (modPort p (fun h => { h with width := a.width, trained := a.width }) s)

/-- A test starts (R392): the unit leaves service within 20 ticks and is tested; a memory port is quiesced first. A unit that
is out of service already keeps its stand-in. -/
def unitTest (op : UnitOp) (kind inst : Nat) (s : State) : State :=
  let inService := (mget s.weir.units (unitKey kind inst)).isNone
  let s := if inService then unitLeave kind inst s else s
  let s := setUnit (unitKey kind inst) .testing s
  let s := { s with weir := { s.weir with unitBusy := some (kind, inst, op) } }
  if kind = 5 then
    if (mport inst s).st == .inService then mpQuiet inst true (modMp inst (fun m => { m with st := .quiescing }) s)
    else emit (.mpSideband inst 5 0) (modMp inst (fun m => { m with st := .bist }) s)
  else if kind = 6 then (if flUp inst s then flAgain inst s else flBringUp inst s)
  else if kind = 7 then laneGroupOut inst s
  else s

/-- The running operation ends: passed, the unit returns to service; failed, it is replaced under R390, with TEST_FAILED. -/
def unitEnd (pass : Bool) (s : State) : State :=
  match s.weir.unitBusy with
  | none => s
  | some (k, i, _) =>
    let s := { s with weir := { s.weir with unitBusy := none, unitResult := if pass then 1 else 2 } }
    if pass then unitBack k i s
    else
      let s := setEvent rWEIR_EVENT 1 (unitOut k i s)
      if k = 6 then flStop i s else s

/-- MP_QUIESCED (R59, R294, R296, Table 16-8): a port whose buckets have moved leaves service; one under test starts its
self-test; one under repair is trained again. -/
def execMpQuiesced (p : MP) (s : State) : Res :=
  let m := mport p.val s
  let tested := match s.weir.unitBusy with
    | some (5, i, _) => i == p.val
    | _ => false
  answer (if m.leaving then
      setEvent rMPT_EVENT 2 (modMp p.val (fun m => { m with
        st := if m.mapOut then .mappedOut else .outOfService, leaving := false, mapOut := false }) s)
    else if m.st == .quiescing && tested then emit (.mpSideband p.val 5 0) (modMp p.val (fun m => { m with st := .bist }) s)
    else if m.st == .quiescing then trainStart p.val 1 (modMp p.val (fun m => { m with st := .quiesced }) s)
    else s)

/-- BIST_DONE (R59, Table 16-8): a memory port under test returns to service if it passes, and its test is over. -/
def execBistDone (p : MP) (pass : Bool) (s : State) : Res :=
  let tested := match s.weir.unitBusy with
    | some (5, i, _) => i == p.val
    | _ => false
  answer (if (mport p.val s).st == .bist then
    let s := if tested then unitEnd pass s else s
    if pass then mpIssue p.val 512 (mpQuiet p.val false (modMp p.val (fun m => { m with st := .inService }) s))
    else failPort p.val (raise (224 + p.val) .bistFail none none 0 s)
  else s)

/-- Bits of a WEIR_UNIT_CTL write with GO (Table 16-14). -/
def unitWord (u : UnitSel) (op : Nat) : W64 := BitVec.ofNat 64 (u.kind.val + 8 * u.inst.val + 1024 * op + 4096)

/-- An operation is refused: RESULT 3. -/
def unitRefuse (s : State) : State := { s with weir := { s.weir with unitResult := 3 } }

/-- The manager's operation on a unit (R392, Table 16-8); GO is ignored while an operation runs. -/
def unitOpDo (op : UnitOp) (u : UnitSel) (s : State) : State :=
  let k := u.kind.val
  let i := u.inst.val
  let (n, sp) := unitCounts k
  let code := match op with
    | .test => 0 | .retire => 1 | .ret => 2 | .substitute => 3
  let s := setRaw rWEIR_UNIT_CTL (unitWord u code &&& 0xFFF) (signWrite rWEIR_UNIT_CTL (unitWord u code) s)
  let st := mget s.weir.units (unitKey k i)
  if s.weir.unitBusy.isSome then s
  else if n + sp ≤ i then unitRefuse s
  else match op with
  | .test => if st.isNone then unitTest .test k i { s with weir := { s.weir with unitResult := 0 } } else unitRefuse s
  | .ret =>
    if st == some .outOfService || st == some .replaced || st == some .waitingSubst then
      unitTest .ret k i { s with weir := { s.weir with unitResult := 0 } }
    else unitRefuse s
  | .substitute => match spareOf k s with
    | some b =>
      if st == some .waitingSubst then
        setUnit (unitKey k i) .replaced (substitute k i b { s with weir := { s.weir with unitResult := 0 } })
      else unitRefuse s
    | none => unitRefuse s
  | .retire =>
    let failing := (List.range 72).any fun p => (mport p s).st == .failing
    if st.isSome || (sp ≠ 0 && s.spl.img.ballastPolicy < 2 && i < n && (spareOf k s).isNone) || (k = 5 && failing) then unitRefuse s
    else
      let s := { s with weir := { s.weir with unitResult := 0 } }
      let s := unitOut k i (unitLeave k i s)
      if k = 5 then failPort i s else if k = 6 then flStop i s else if k = 7 then laneGroupOut i s else s

/-- UNIT_TEST (R392), an audited write (R414). -/
def execUnitTest (p : HP) (u : UnitSel) (s : State) : Res :=
  answerAll (if mgrOpen p.val rWEIR_UNIT_CTL s then
    heldWrite rWEIR_UNIT_CTL (unitWord u 0) (.unitTest p u) (unitOpDo .test u) s else s)

/-- UNIT_RETIRE (R392), an audited write. -/
def execUnitRetire (p : HP) (u : UnitSel) (s : State) : Res :=
  answerAll (if mgrOpen p.val rWEIR_UNIT_CTL s then
    heldWrite rWEIR_UNIT_CTL (unitWord u 1) (.unitRetire p u) (unitOpDo .retire u) s else s)

/-- UNIT_RETURN (R392), an audited write. -/
def execUnitReturn (p : HP) (u : UnitSel) (s : State) : Res :=
  answerAll (if mgrOpen p.val rWEIR_UNIT_CTL s then
    heldWrite rWEIR_UNIT_CTL (unitWord u 2) (.unitReturn p u) (unitOpDo .ret u) s else s)

/-- UNIT_SUBSTITUTE (R392), an audited write. -/
def execUnitSubstitute (p : HP) (u : UnitSel) (s : State) : Res :=
  answerAll (if mgrOpen p.val rWEIR_UNIT_CTL s then
    heldWrite rWEIR_UNIT_CTL (unitWord u 3) (.unitSubstitute p u) (unitOpDo .substitute u) s else s)

/-- UNIT_TEST_DONE (R392): the running test ends; that of a memory port ends with BIST_DONE. -/
def execUnitTestDone (pass : Bool) (s : State) : Res :=
  answerAll (match s.weir.unitBusy with
  | some (5, _, _) => s
  | some (k, i, _) => unitEnd pass (if pass then s else whenS (k < 5) (raise (srcOf k i) .bistFail none none 0) s)
  | none => s)
where
  /-- source of a unit (Table 16-1) -/
  srcOf (k i : Nat) : Nat :=
    match k with
    | 0 => 48 + i | 1 => 144 + i | 2 => 304 + i | 3 => 96 + i | _ => 420 + i

/-- At an edge: the next test that a fault asked for starts where no operation runs; a unit that is not in service is
skipped (R392). -/
def unitEdge (s : State) : State :=
  match s.weir.unitBusy, s.weir.testQueue with
  | none, u :: r =>
    let s := { s with weir := { s.weir with testQueue := r } }
    if (mget s.weir.units u).isNone then unitTest .test (u / 128) (u % 128) s else s
  | _, _ => s

/-- WATCHDOG_TIMEOUT (R391): a mooring core has not kicked its watchdog for 1,000 ticks: UNIT_CHECK, and it leaves service.
In recovery posture the cores are halted (R87). -/
def execWatchdogTimeout (core : Fin 17) (s : State) : Res :=
  answerAll (if s.spl.recovery || (mget s.weir.units (unitKey 4 core.val)).isSome then s
  else unitOut 4 core.val (unitLeave 4 core.val (raise (420 + core.val) .unitCheck none none 0 s)))

/-- The patrol scrub goes on by up to n granules (R388): one that the Reservoir does not hold whole is read with a
stream-through fill under MOV_CLASS.SCRUB, at the cost of a granule request; without credit it waits for the next tick. -/
def patrolStep : Nat → State → State
  | 0, s => s
  | n + 1, s =>
    match s.weir.patrol with
    | none => s
    | some g =>
      let on (p : Option Nat) (s : State) : State := { s with weir := { s.weir with patrol := p } }
      if s.rsvr.extent * gib ≤ g * 256 then on none s
      else
        let cls := regFld rMOV_CLASS 0 4 s
        let res := 36 + (bucket (bucketOf (g * 256) s) s).port
        if (List.range 4).all fun i => (mget s.rsvr.lines (4 * g + i)).isSome then patrolStep n (on (some (g + 1)) s)
        else if mayAdmit res cls 4 s then patrolStep n (fillGranule (4 * g) 1 (spend res cls 4 (on (some (g + 1)) s)))
        else s

/-- The patrol's share of a tick: as many granules as end it within WEIR_SCRUB_TICKS (log 86). -/
def patrolTick (s : State) : State :=
  patrolStep (ceilDiv (s.rsvr.extent * 2 ^ 22) (max 1 (regRaw rWEIR_SCRUB_TICKS s).toNat)) s

/-- PATROL_SCRUB (R388): firmware's patrol of device memory begins anew; tick edges carry it on. -/
def execPatrolScrub (s : State) : Res :=
  answer (if regRaw rWEIR_SCRUB_TICKS s ≤ BitVec.ofNat 64 s.weir.scrubTicks then
    { s with weir := { s.weir with scrubTicks := 0, patrol := some 0 } } else s)

end Sys2Proof.Machine
end

