-- ==== Sys2Proof/Machine/Sluice.lean ====
section
/-! DEFINITION. The sluice stop (R394 to R400): announcement, marks, capture. -/
namespace Sys2Proof.Machine

def modSluice (f : SluiceState → SluiceState) (s : State) : State := { s with sluice := f s.sluice }

/-- A SLUICE message to a peer (R394, R396, R399). -/
def sluiceSend (kind c t a b d : Nat) (s : State) : State := sessSend c (.sluice kind c t a b d) 1 s

/-- Peers with a session. -/
def activePeers (s : State) : List Nat := (s.spl.peers.filter fun e => e.2.st == .active).map (·.1)

/-- SLUICE_ANNOUNCE's effect (R394): refused less than 8 ticks ahead or beside another stop; else recorded, and SLUICE
goes to every ACTIVE peer for a stop of the domain. -/
def announceDo (domain : Bool) (s : State) : State :=
  let t := (regRaw rWEIR_SLUICE_TICK s).toNat
  if t < tick s + 8 || s.sluice.st != .idle then setEvent rWEIR_EVENT 6 s
  else
    let s := signC .sluice noEnv [BitVec.ofNat 64 t, BitVec.ofNat 64 (b2n domain)] s
    let ask := if domain then activePeers s else []
    let s := { s with sluice := { st := .announced, origin := domain, originChip := s.spl.chip, domain := domain, tickT := t,
                                  waiting := ask } }
    each ask (fun c s => sluiceSend 0 c t s.spl.chip 0 0 s) s

/-- SLUICE_ANNOUNCE (R394): OP ANNOUNCE is written to WEIR_SLUICE_CTL; a class C operation (R414). -/
def execSluiceAnnounce (p : HP) (domain : Bool) (s : State) : Res :=
  answerAll (if mgrOpen p.val rWEIR_SLUICE_CTL s then classC (.sluiceAnnounce p domain) (announceDo domain) s else s)

/-- SLUICE_RESUME's effect (R399): only for a held chip, at least 8 ticks ahead, and for a stop of the domain on its origin;
after a level-4 fault there is no resume. -/
def resumeDo (s : State) : State :=
  let r := (regRaw rWEIR_SLUICE_TICK s).toNat
  if s.sluice.st != .held || r < tick s + 8 || (s.sluice.domain && !s.sluice.origin) || s.weir.fatal then s
  else
    let s := signC .sluice noEnv [BitVec.ofNat 64 r, BitVec.ofNat 64 (b2n s.sluice.domain)] s
    let s := modSluice (fun x => { x with st := .resumePending, tickR := r }) s
    each s.sluice.takingPart (fun c s => whenS s.sluice.domain (sluiceSend 3 c r 0 0 0) s) s

/-- SLUICE_RESUME (R399); a class C operation. -/
def execSluiceResume (p : HP) (s : State) : Res :=
  answerAll (if mgrOpen p.val rWEIR_SLUICE_CTL s then classC (.sluiceResume p) resumeDo s else s)

/-- A SLUICE message arrives over the session of an ACTIVE peer. -/
def sluiceTake (l c : Nat) (go : State → State) (s : State) : State :=
  if !flUp l s then s
  else
    let s := flReturn l 1 1 s
    if peerSt c s == .active then go s else s

/-- SLUICE (R394): a chip that hears of T no later than T − 2 and has no other stop takes part and answers; the stop's own
message, sent again, is answered again. The message names T and the origin only: a chip that is not the origin takes every
ACTIVE peer as taking part (log 36). -/
def execSluice (l : FL) (src : Chip) (t : W64) (origin : Chip) (s : State) : Res :=
  let c := src.val
  answerAll (sluiceTake l.val c (fun s =>
    if s.sluice.st == .announced && s.sluice.domain && s.sluice.tickT = t.toNat && s.sluice.originChip = origin.val then
      sluiceSend 1 c t.toNat 0 0 0 s
    else if s.sluice.st == .idle && tick s + 2 ≤ t.toNat then
      sluiceSend 1 c t.toNat 0 0 0 { s with sluice := {
        st := .announced, originChip := origin.val, domain := true, tickT := t.toNat, takingPart := activePeers s } }
    else s) s)

/-- SLUICE_ACK (R394). -/
def execSluiceAck (l : FL) (src : Chip) (t : W64) (s : State) : Res :=
  let c := src.val
  answerAll (sluiceTake l.val c (fun s =>
    if s.sluice.origin && s.sluice.tickT = t.toNat && s.sluice.waiting.contains c then
      modSluice (fun x => { x with waiting := x.waiting.filter (· != c), takingPart := insNat c x.takingPart }) s
    else s) s)

/-- SLUICE_MARK (R396): the last ESEQ that a peer sent before T on VC1, VC2 and VC3. -/
def execSluiceMark (l : FL) (src : Chip) (t : W64) (a b c : BitVec 20) (s : State) : Res :=
  answerAll (sluiceTake l.val src.val (fun s =>
    if s.sluice.st != .idle && s.sluice.domain && s.sluice.tickT = t.toNat then
      modSluice (fun x => { x with marks := mset x.marks src.val (a.toNat, b.toNat, c.toNat) }) s
    else s) s)

/-- RESUME_NOTICE (R399): the origin's R. -/
def execResumeNotice (l : FL) (src : Chip) (r : W64) (s : State) : Res :=
  answerAll (sluiceTake l.val src.val (fun s =>
    if s.sluice.st == .held && s.sluice.domain && !s.sluice.origin && s.sluice.originChip = src.val && !s.weir.fatal then
      modSluice (fun x => { x with st := .resumePending, tickR := r.toNat }) s
    else s) s)

/-- Every packet of a peer up to its mark has been delivered (R396). -/
def pairDone (c : Nat) (s : State) : Bool :=
  match mget s.sluice.marks c with
  | none => false
  | some (a, b, d) => [(1, a), (2, b), (3, d)].all fun m =>
    (mgetD (fpeer c s).rx m.1 0 + 2 ^ 20 - 1 - m.2) % 2 ^ 20 < 2 ^ 19

/-- Chips from which packets are held. -/
def heldFrom (s : State) : List Nat :=
  (s.sluiceHeld.filterMap fun i => match i with
    | .fabricWrite h _ _ => some h.src.val
    | .fabricRead h _ _ => some h.src.val
    | .fabricAtomic h _ _ => some h.src.val
    | .fenceOp h _ _ _ _ _ => some h.src.val
    | .fenceDone h _ _ _ => some h.src.val
    | .rdata h _ _ _ => some h.src.val
    | .aresp h _ _ _ => some h.src.val
    | .partialRecord h _ => some h.src.val
    | .resultRecord h _ => some h.src.val
    | _ => none).eraseDups

/-- The sluice record with its section descriptors, whose number and contents the spec leaves to the implementation: free
values (Table 16-9; log 7). -/
def sluiceRecord (s : State) : List Byte × State :=
  let x := s.sluice
  let n := Config.choice s.free % 65
  let words := ((List.range (8 * n)).map fun i => toBytes 8 (Config.freeWord (s.free + 1 + i)).toNat).flatten
  let head := toBytes 4 0x534C4349 ++ toBytes 1 (b2n x.domain) ++ toBytes 1 x.tetherAtT
    ++ toBytes 2 x.errBoundAtT ++ toBytes 8 x.tickT ++ toBytes 2 (if x.domain then x.originChip else s.spl.chip)
    ++ toBytes 2 x.takingPart.length ++ toBytes 2 x.missing.length ++ toBytes 2 x.incomplete ++ toBytes 8 x.captured
    ++ toBytes 4 n ++ List.replicate 60 0
  let body := head ++ words ++ List.replicate (0x1060 - 0x60 - 64 * n) 0
  (body ++ toBytes 1024 (ofBits x.takingPart), { s with free := s.free + 1 + 8 * n })

/-- Local address of the sluice area: WEIR_SLUICE_AREA reads 0 from reset on (Table 16-17). -/
def sluiceArea : Nat := 0

/-- The capture may end (R398): every pair is complete, or 64 ticks have passed since T. A stop of this chip alone waits for
no pair. -/
def captureReady (s : State) : Bool :=
  !s.sluice.domain || s.sluice.takingPart.all (fun c => pairDone c s) || s.sluice.tickT + 64 ≤ tick s

/-- The end of the capture (R398, R400): dirty lines are written back, the record is written, and the chip is HELD. -/
def captureEnd (s : State) : State :=
  let open_ := if s.sluice.domain then s.sluice.takingPart.filter fun c => !pairDone c s else heldFrom s
  let s := modSluice (fun x => { x with
    st := .held, captured := tick s, incomplete := open_.length, incompleteFlag := x.domain && !open_.isEmpty
    complete := if x.domain then x.takingPart.filter fun c => !open_.contains c else [] }) s
  let s := whenS s.sluice.incompleteFlag (setEvent rWEIR_EVENT 5) s
  let s := each ((s.rsvr.lines.filter fun l => l.2.dirty).map (·.1)) (fun l s =>
    if ((mget s.rsvr.lines l).map (·.dirty)) == some true then writeBack l s else s) s
  let (b, s) := sluiceRecord s
  let s := setEvent rWEIR_EVENT 4 (rawPut sluiceArea b s)
  auditO .sluice 0 0 noEnv false ([BitVec.ofNat 64 s.sluice.tickT, BitVec.ofNat 64 (b2n s.sluice.domain)]
    ++ (List.range 6).map fun i => BitVec.ofNat 64 (Config.sha384 b / 2 ^ (64 * i))) s

/-- SLUICE_CAPTURE_END (R398). -/
def execSluiceCaptureEnd (s : State) : Res :=
  answerAll (if s.sluice.st == .capturing && captureReady s then captureEnd s else s)

/-- What an edge does for an announced stop (R394 to R396): SLUICE goes out again to peers that have not answered; at T − 2
they are missing; at T the chip freezes and sends its marks. -/
def sluiceEdge (s : State) : State :=
  if s.sluice.st != .announced then s
  else
    let t := s.sluice.tickT
    let s := if t ≤ tick s + 2 then modSluice (fun x => { x with missing := x.missing ++ x.waiting, waiting := [] }) s else s
    let s := each s.sluice.waiting (fun c s => sluiceSend 0 c t s.spl.chip 0 0 s) s
    if tick s < t then s
    else
      let code := tthCode s.time.st
      let s := modSluice (fun x => { x with
        st := .capturing, tetherAtT := code, errBoundAtT := errBound s }) s
      if s.sluice.domain then
        each s.sluice.takingPart (fun c s =>
          let last (vc : Nat) : Nat := (mgetD (fpeer c s).tx vc 0 + 2 ^ 20 - 1) % 2 ^ 20
          sluiceSend 2 c t (last 1) (last 2) (last 3) s) s
      else s

end Sys2Proof.Machine
end

