-- ==== Sys2Proof/Machine/Image.lean ====
section
/-! DEFINITION. The Spool image: its layout (R73, R74, Tables 4-1 to 4-4) and the checks of Table 4-5. -/
namespace Sys2Proof.Machine

/-- A little-endian number of n bytes at an offset of an image. -/
def rd (m : Map Byte) (o n : Nat) : Nat := ofBytes (cellsGet m o n)

/-- A directory entry (Table 4-3). -/
structure Section where
  type : Nat
  flags : Nat
  off : Nat
  len : Nat
  rsvd : Nat
  digest : Nat
  deriving DecidableEq, Repr

/-- Entry i of the directory. -/
def dirEntry (m : Map Byte) (i : Nat) : Section :=
  let o := 0x200 + 64 * i
  ⟨rd m o 2, rd m (o + 2) 2, rd m (o + 4) 4, rd m (o + 8) 4, rd m (o + 12) 4, rd m (o + 16) 48⟩

/-- SECTION_COUNT and IMAGE_SIZE. -/
def sectionCount (m : Map Byte) : Nat := rd m 6 2
def imageSize (m : Map Byte) : Nat := rd m 8 4

/-- The sections of an image. -/
def sectionsOf (m : Map Byte) : List Section := (List.range (sectionCount m)).map (dirEntry m)

/-- The section of a type; a section of no bytes where there is none. -/
def sectionOf (m : Map Byte) (t : Nat) : Section :=
  ((sectionsOf m).find? fun x => x.type == t).getD ⟨0, 0, 0, 0, 0, 0⟩

/-- The image has a section of a type. -/
def hasSection (m : Map Byte) (t : Nat) : Bool := (sectionsOf m).any fun x => x.type == t

/-- A field of a section. -/
def secRd (m : Map Byte) (t o n : Nat) : Nat := rd m ((sectionOf m t).off + o) n

/-- A field of an optional section, with its default. -/
def optRd (m : Map Byte) (t o n d : Nat) : Nat := if hasSection m t then secRd m t o n else d

/-! ### Checks -/

/-- Check 2: MAGIC, FORMAT, SECTION_COUNT and IMAGE_SIZE. -/
def headerOk (m : Map Byte) : Bool :=
  rd m 0 4 == 0x4C4F4F50 && rd m 4 2 == 2 && 1 ≤ sectionCount m && sectionCount m ≤ 16
    && 0x660 ≤ imageSize m && imageSize m ≤ 0x800000

/-- Check 4: the licensee certificate (Table 4-2). -/
def certOk (m : Map Byte) : Bool :=
  rd m 0x100 4 == 1 && rd m 0x104 4 == rd m 0x1C 4
    && Config.verify Config.releaseKey (Config.sha384 (cellsGet m 0x100 0x70)) (rd m 0x170 96)

/-- Check 5: the signature over the header block under the licensee key. -/
def signatureOk (m : Map Byte) : Bool :=
  Config.verify (rd m 0x110 96) (Config.sha384 (cellsGet m 0 0x600)) (rd m (imageSize m - 96) 96)

/-- Two sections share a byte. -/
def secOverlap (a b : Section) : Bool := a.off < b.off + b.len && b.off < a.off + a.len

/-- No two sections of a list overlap. -/
def disjointSecs : List Section → Bool
  | [] => true
  | a :: r => r.all (fun b => !secOverlap a b) && disjointSecs r

/-- Check 6: the directory obeys R73 and R74. -/
def directoryOk (m : Map Byte) : Bool :=
  let l := sectionsOf m
  let unused := (List.range 16).drop (sectionCount m)
  rd m 0x0D 3 == 0 && rd m 0x20 224 == 0 && rd m 0x108 8 == 0 && rd m 0x1D0 48 == 0
    && unused.all (fun i => rd m (0x200 + 64 * i) 64 == 0)
    && l.all (fun x => 1 ≤ x.type && x.type ≤ 10 && x.flags < 2 && x.rsvd == 0 && x.off % 64 == 0
        && 0x600 ≤ x.off && x.off + x.len + 96 ≤ imageSize m)
    && (l.map (·.type)).Nodup
    && [1, 2, 3, 4, 5, 10].all (fun t => hasSection m t)
    && disjointSecs l

/-- Check 7: every section's digest. -/
def digestsOk (m : Map Byte) : Bool :=
  (sectionsOf m).all fun x => x.digest == Config.sha384 (cellsGet m x.off x.len)

/-- A section is there with at least so many bytes, or it is optional and absent (log 37). -/
def longEnough (m : Map Byte) (t n : Nat) : Bool := !hasSection m t || n ≤ (sectionOf m t).len

/-- Check 8, sections UNITS and MEMORY. -/
def unitsOk (m : Map Byte) : Bool :=
  longEnough m 1 0x5A && secRd m 1 0 8 < 2 ^ 34 && secRd m 1 8 16 < 2 ^ 76 && secRd m 1 0x18 16 < 2 ^ 68
    && secRd m 1 0x28 8 < 2 ^ 34 && secRd m 1 0x30 4 < 2 ^ 17 && secRd m 1 0x34 4 < 16 && secRd m 1 0x3C 4 == 0
    && secRd m 1 0x40 16 < 2 ^ 72 && secRd m 1 0x58 1 ≤ 2 && 1 ≤ secRd m 1 0x59 1 && secRd m 1 0x59 1 ≤ 72

/-- LANE_ENTRY i. -/
def laneEntry (m : Map Byte) (i : Nat) : Nat := secRd m 2 (0x118 + 8 * i) 8

def memoryOk (m : Map Byte) : Bool :=
  let n := secRd m 2 0x114 4
  longEnough m 2 (0x118 + 8 * n) && (List.range 256).all (fun b => secRd m 2 b 1 < 72) && secRd m 2 0x100 16 < 2 ^ 72
    && 10 ≤ secRd m 2 0x110 4 && secRd m 2 0x110 4 ≤ 1000
    && (List.range n).all fun i =>
      let w := laneEntry m i
      w % 256 < 72 && w / 2 ^ 8 % 256 ≤ 1 && w / 2 ^ 40 == 0

/-- Check 8, sections HOSTPORTS, LINKS and TETHER. -/
def hostPortsOk (m : Map Byte) : Bool :=
  longEnough m 3 0x50 && secRd m 3 8 2 ≤ 256 && secRd m 3 0x0A 2 == 0 && secRd m 3 0x0C 4 ≤ 3600000
    && (List.range 4).all fun p =>
      let o := 0x10 + 16 * p
      secRd m 3 o 1 ≤ 2 && 5 ≤ secRd m 3 (o + 1) 1 && secRd m 3 (o + 1) 1 ≤ 6 && secRd m 3 (o + 2) 1 < 8
        && secRd m 3 (o + 3) 1 ≤ 1 && secRd m 3 (o + 6) 10 == 0

def linksOk (m : Map Byte) : Bool :=
  let chip := secRd m 4 0 2
  let hello := secRd m 4 2 2
  let lost := secRd m 4 4 2
  longEnough m 4 0x108 && (chip ≤ 0x1FFF || chip == 0xFFFF) && 16 ≤ hello && hello ≤ 32767 && 32 ≤ lost
    && 2 * hello ≤ lost && secRd m 4 6 2 == 0
    && (List.range 32).all fun n => secRd m 4 (8 + 8 * n) 1 < 32 && secRd m 4 (10 + 8 * n) 6 == 0

def tetherOk (m : Map Byte) : Bool := longEnough m 5 0x0C && secRd m 5 0 1 ≤ 1

/-- The reserved bytes of the optional sections and of FIRMWARE, and of the templates, are 0 (R73, R194, R355). -/
def rsvdOk (m : Map Byte) : Bool :=
  (List.range 16).all (fun c => optRd m 6 (16 * c + 8) 8 0 == 0) && optRd m 8 3 1 0 == 0 && optRd m 9 4 60 0 == 0
    && (List.range (optRd m 9 0 4 0)).all (fun i => secRd m 9 (0x40 + 256 * i + 0x0F) 1 == 0 && secRd m 9 (0x40 + 256 * i + 0x26) 26 == 0)
    && secRd m 10 4 4 == 0 && secRd m 10 0x14 44 == 0

/-- Check 8, the other sections. -/
def restOk (m : Map Byte) : Bool :=
  rsvdOk m && longEnough m 6 0x100 && longEnough m 7 0x18 && longEnough m 8 0x34
    && optRd m 9 0 4 0 ≤ 256 && longEnough m 9 (0x40 + 256 * optRd m 9 0 4 0)
    && secRd m 10 0 4 % 4096 == 0 && secRd m 10 0 4 + secRd m 10 0x10 4 ≤ 4194304
    && longEnough m 10 (0x40 + secRd m 10 0x10 4)

/-- Checks 2 to 8 of Table 4-5 in their order: the cause of the first that fails, 0 where all pass (R75). GEN_VERSION gives
architecture level 2. -/
def imageCause (m : Map Byte) : Nat :=
  if !headerOk m then 2
  else if 2 < rd m 0x0C 1 then 3
  else if !certOk m then 4
  else if !signatureOk m then 5
  else if !directoryOk m then 6
  else if !digestsOk m then 7
  else if unitsOk m && memoryOk m && hostPortsOk m && linksOk m && tetherOk m && restOk m then 0
  else 8

/-! ### Fields -/

/-- The configuration of host port p. -/
def readPort (m : Map Byte) (p : Nat) : HostPortCfg :=
  let o := 0x10 + 16 * p
  { width := secRd m 3 o 1, maxRate := secRd m 3 (o + 1) 1, protoEn := secRd m 3 (o + 2) 1,
    ideRequired := secRd m 3 (o + 3) 1 == 1, hostId := secRd m 3 (o + 4) 2 }

/-- A LANE_ENTRY's word. -/
def readLane (w : Nat) : LaneEntry := ⟨w % 256, w / 2 ^ 8 % 256, w / 2 ^ 16 % 4096, w / 2 ^ 28 % 4096⟩

/-- Class defaults: those of the image, or those of R194. -/
def readClasses (m : Map Byte) : List W64 :=
  (List.range 16).map fun c =>
    if hasSection m 6 then BitVec.ofNat 64 (secRd m 6 (16 * c) 8)
    else BitVec.ofNat 64 (250 + 2 ^ 12 * 195 + 2 ^ 24 * 106 + 2 ^ 35 * 4 + 2 ^ 41)

/-- The fields of an image that has passed its checks (Table 4-4). -/
def readImage (m : Map Byte) : Image where
  serial := BitVec.ofNat 64 (rd m 0x10 8)
  tsEn := secRd m 1 0 8
  rsvrEn := secRd m 1 8 16
  cisEn := secRd m 1 0x18 16
  movEn := secRd m 1 0x28 8
  moorEn := secRd m 1 0x30 4
  hpEn := secRd m 1 0x34 4
  flEn := secRd m 1 0x38 4
  mpEn := secRd m 1 0x40 16
  cfEn := secRd m 1 0x50 8
  ballastPolicy := secRd m 1 0x58 1
  minMemPorts := secRd m 1 0x59 1
  bucketTable := (List.range 256).map fun b => secRd m 2 b 1
  shrinkable := secRd m 2 0x100 16
  trainTimeoutMs := secRd m 2 0x110 4
  lanes := (List.range (secRd m 2 0x114 4)).map fun i => readLane (laneEntry m i)
  vendorId := secRd m 3 0 2
  deviceId := secRd m 3 2 2
  subsysVendor := secRd m 3 4 2
  subsysId := secRd m 3 6 2
  numVfs := secRd m 3 8 2
  hostLossWaitMs := secRd m 3 0x0C 4
  ports := (List.range 4).map (readPort m)
  chipNumber := secRd m 4 0 2
  helloPeriod := secRd m 4 2 2
  peerLostTicks := secRd m 4 4 2
  planes := (List.range 32).map fun n => secRd m 4 (8 + 8 * n) 1
  laneMasks := (List.range 32).map fun n => secRd m 4 (9 + 8 * n) 1
  tetherRole := secRd m 5 0 1
  rootPriority := secRd m 5 1 1
  domainId := secRd m 5 2 2
  holdoverTicks := secRd m 5 4 4
  acqTicks := secRd m 5 8 4
  classes := readClasses m
  quietTicks := optRd m 7 0 4 1000
  quietLevel := (List.range 5).map fun k => optRd m 7 (4 + 4 * k) 4 0
  sensorMapT := optRd m 8 0 2 0
  sensorMapP := optRd m 8 2 1 0 
  tempLimit := (List.range 16).map fun i => signed 16 (optRd m 8 (4 + 2 * i) 2 0)
  powerLimit := (List.range 8).map fun i => optRd m 8 (0x24 + 2 * i) 2 0
  templates := (List.range (optRd m 9 0 4 0)).map fun i => cellsGet m ((sectionOf m 9).off + 0x40 + 256 * i) 256
  fwLoad := secRd m 10 0 4
  fwEntry := BitVec.ofNat 64 (secRd m 10 8 8)
  fwSize := secRd m 10 0x10 4
  fwCode := cellsGet m ((sectionOf m 10).off + 0x40) (secRd m 10 0x10 4)

end Sys2Proof.Machine
end

