-- ==== Sys2Proof/Machine/StartUp.lean ====
section
/-! DEFINITION. Resets (R46), the start-up phases (R79 to R86), staging, recovery posture and commit (R87 to R90), host
ports that train (R80, R91), the manager group (R99). -/
namespace Sys2Proof.Machine

/-! ### Resets -/

/-- Upstream credits that the block grants a core fabric port (R64). -/
def cfGrantAll (s : State) : State :=
  each (List.range 64) (fun n s =>
    emitAll [.cfCredit n 0 32, .cfCredit n 1 32, .cfCredit n 2 8, .cfCredit n 3 16, .cfCredit n 4 16, .cfCredit n 5 16,
      .cfCredit n 6 16, .cfCredit n 7 4] s) s

/-- A host port is to train: its hpN_perst_n is high and it is in service, or HP_EN is not known yet (R80). -/
def mayTrain (p : Nat) (s : State) : Bool :=
  !(hport p s).perst && (s.spl.img.hpEn / 2 ^ p % 2 == 1 || !s.spl.ended.contains 2)

/-- Host ports start link training after phase 1 (R80). -/
def trainPorts (s : State) : State :=
  each (List.range 4) (fun p s =>
    if mayTrain p s && (hport p s).link = 0 then startTraining p s else s) s

/-- POWER_ON_RESET (R46, Table 3-3): the whole block. What it has driven and the commands that wait outside are no part of
it, nor is the model's counter of free values. -/
def execPowerOnReset (s : State) : Res :=
  answer { State.reset with pending := s.pending, out := s.out, free := s.free }

/-- A unit that failed its self-test is out of service (R79). -/
def bistOut (key : Nat) (s : State) : State :=
  let s := setUnit key .outOfService s
  let i := key % 128
  if key / 128 = 5 then modMp i (fun m => { m with st := .outOfService }) s
  else if key / 128 = 7 then modPort (i / 4) (fun h => { h with laneOut := insNat (i % 4) h.laneOut }) s
  else s

/-- The state after rst_warm_n: everything at its reset value but the tether value and its state, the TAP, MGMT, the sensors
and the marks of the reference inputs, and the level of each hpN_perst_n pin (Tables 3-1 and 3-3). What the self-test of
phase 1 found stands, since it is not run again. -/
def warmState (s : State) : State :=
  let ports : Map HostPort := (List.range 4).map fun p => (p, { perst := (hport p s).perst })
  each s.weir.bist bistOut
  { State.reset with
    pending := s.pending, out := s.out, free := s.free
    time := { State.reset.time with now := s.time.now, frac := s.time.frac, st := s.time.st }
    port := { State.reset.port with
      tap := s.port.tap, temp := s.port.temp, power := s.port.power, ref10m := s.port.ref10m, refPps := s.port.refPps
      absent := s.port.absent, coreOut := s.port.absent }
    weir := { State.reset.weir with bist := s.weir.bist }
    ep := { State.reset.ep with ports := ports }
    spl := { State.reset.spl with ended := [1], phase := 2, resetCause := 1 } }

/-- WARM_RESET (R46, R85): every key slot is zeroised, at every key port as well; start-up restarts at phase 2. -/
def execWarmReset (s : State) : Res :=
  let keys := (List.range 72).map fun n => Out.mpKey n zeroAll
  answer (trainPorts (cfGrantAll (warmState (emitAll keys s))))

/-- TAP_RESET (R46): the TAP controller and the IEEE 1687 network. -/
def execTapReset (s : State) : Res := answer { s with port := { s.port with tap := .bypass } }

/-! ### Phase 1 -/

/-- A unit has failed its self-test. -/
def selfTestFail (u : UnitSel) (s : State) : State :=
  let (n, k) := unitCounts u.kind.val
  if n + k ≤ u.inst.val then s
  else
    let key := unitKey u.kind.val u.inst.val
    bistOut key { s with weir := { s.weir with bist := insNat key s.weir.bist } }

/-- SELF_TEST (R79): phase 1 ends with the units that have failed out of service, and the cores that cfN_core_present does
not show are noted. -/
def execSelfTest (bad : List UnitSel) (absent : List CoreIx) (s : State) : Res :=
  answer (if s.spl.phase ≠ 1 then s
  else
    let s := each bad selfTestFail s
    let gone := absent.foldl (fun l c => insNat c.val l) []
    let s := { s with port := { s.port with coreOut := gone, absent := gone } }
    trainPorts (cfGrantAll (endPhase 1 s)))

/-! ### Recovery posture and the start of normal posture -/

/-- Recovery posture is entered (R87): memory ports untrained, fabric links down, the tether in FREE_RUN, mooring cores
halted, key slots empty, no fault and no error output, but for an err_fatal_n that is low already, which only a reset raises
(R71; log 130). The physical function appears on the ports whose links are up. The audit log does not run (R412). -/
def toRecovery (cause : Nat) (s : State) : State :=
  let s := modSpl (fun p => { p with recovery := true, recoveryTicks := 0, cause := cause, fwRunning := false }) s
  let s := each (List.range 4) (fun p s => modPort p (fun h => { h with limited := false }) s) s
  let s := each ((List.range 4).filter fun p => linkUp p s) portUp s
  { s with
    time := { s.time with st := .freeRun }
    port := { s.port with mp := [] }
    fab := {}
    env := { s.env with loaded := [], keys := [] }
    obs := { s.obs with auditOn := false }
    weir := { s.weir with raised := [], regions := [], classes := [], patrol := none } }

/-- The half of the journal that the merge uses: the one that holds the highest verified sequence number (R77). -/
def secondActive (a b : List JournalEntry) : Bool :=
  let top (l : List JournalEntry) : Nat := ((l.filter journalOk).map fun e => e.seq + 1).foldl max 0
  decide (top a < top b)

/-- The journal is read (R76, R77): entries whose MAC fails, in either half, are ignored and counted; LIVE counts the
repairs that the start merges. -/
def readJournal (half0 half1 : List JournalEntry) (s : State) : State :=
  let hi := secondActive half0 half1
  let (l, o) := if hi then (half1, half0) else (half0, half1)
  let ok := l.filter journalOk
  let mark := (ok.filter fun e => e.marker.isSome).foldl
    (fun (a : Nat × Nat × Bool) e => if a.1 ≤ e.seq then (e.seq, e.tick, e.marker.getD false) else a) (0, 0, false)
  modSpl (fun p => { p with
    journal := l, journalOther := o, journalSecond := hi, journalSeq := (ok.map fun e => e.seq + 1).foldl max 0
    live := (ok.filter fun e => e.marker.isNone).length
    rejected := min 65535 ((l ++ o).filter fun e => !journalOk e).length, marker := mark.2 }) s

/-- The image comes into force (R76, R79, R194): its fields, the repair map merged with the journal, the class
descriptors, the host identities; CODE is loaded into scratch memory at LOAD_OFFSET, and firmware starts at ENTRY. -/
def takeImage (m : Map Byte) (s : State) : State :=
  let i := readImage m
  let reps := (s.spl.journal.filter fun e => journalOk e && e.marker.isNone).map (·.lane)
  let s := modSpl (fun p => { p with
    img := i, chip := i.chipNumber, laneMap := i.lanes ++ reps, fwRunning := true
    scratch := cellsSet p.scratch i.fwLoad i.fwCode }) s
  let s := each ((List.range 16).zip i.classes) (fun c s => setRaw (rDPA_CLASS + 8 * c.1) c.2 s) s
  each (List.range 4) (fun p s => modPort p (fun h => { h with hostId := (portCfg p s).hostId }) s) s

/-- Units of a kind that the image does not enable. -/
def disabledUnits (kind : Nat) (i : Image) : List Nat :=
  let (n, k) := unitCounts kind
  let en := if kind = 0 then i.tsEn else if kind = 1 then i.rsvrEn else if kind = 2 then i.cisEn
    else if kind = 3 then i.movEn else if kind = 4 then i.moorEn else if kind = 5 then i.mpEn
    else if kind = 6 then i.flEn else ofBits ((List.range 16).filter fun g => i.hpEn / 2 ^ (g / 4) % 2 == 1)
  (List.range (n + k)).filter fun x => en / 2 ^ x % 2 == 0

/-- Units outside service after phase 2 (R42, R79): those that the image disables and those that failed phase 1; ballast
takes the place of the active ones under BALLAST_POLICY. -/
def applyUnits (s : State) : State :=
  let i := s.spl.img
  let s := each [0, 1, 2, 3, 4] (fun kind s =>
    let n := (unitCounts kind).1
    let s := each (disabledUnits kind i) (fun x s => setUnit (unitKey kind x) .outOfService s) s
    let gone := (List.range n).filter fun x => (mget s.weir.units (unitKey kind x)).isSome
    each gone (fun x s => unitOut kind x (unitLeave kind x s)) s) s
  let s := each [5, 6, 7] (fun kind s => each (disabledUnits kind i) (fun x s => setUnit (unitKey kind x) .outOfService s) s) s
  let s := each (disabledUnits 5 i) (fun n s => modMp n (fun m => { m with st := .outOfService }) s) s
  let off := (List.range 512).filter fun c => i.cfEn / 2 ^ (c / 8) % 2 == 0
  let s := { s with port := { s.port with coreOut := off.foldl (fun l c => insNat c l) s.port.coreOut } }
  each (List.range 4) (fun p s =>
    if i.hpEn / 2 ^ p % 2 == 1 then s else portLost p .down (modPort p (fun h => { h with link := 0 }) s)) s

/-- A byte string as payload words. -/
def wordsOfBytes : Nat → List Byte → List W64
  | 0, _ => []
  | n + 1, b => BitVec.ofNat 64 (ofBytes (b.take 8)) :: wordsOfBytes n (b.drop 8)

/-- The audit log starts with record 0 (R411, R412, Table 17-7): GENESIS, and IDENTITY where the check of R410 failed. -/
def auditStart (cause chainFail : Nat) (s : State) : State :=
  let s := { s with obs := { s.obs with
    auditOn := true, auditSeq := 0, auditLast := [], holding := [], auditSent := 0, auditTail := 0, heldSrc := [] } }
  let b := toBytes 49 (Config.publicKey auditKey) ++ toBytes 8 s.spl.img.serial.toNat ++ toBytes 1 cause
    ++ toBytes 8 s.spl.marker.1 ++ toBytes 1 (b2n s.spl.marker.2)
  let s := auditO .genesis 0 0 noEnv false (wordsOfBytes 9 b) s
  if chainFail = 0 then s else auditO .identity 0 0 noEnv false [BitVec.ofNat 64 chainFail] s

/-- The identity chain is checked (R410). -/
def identityCheck (chainFail : Nat) (s : State) : State :=
  let s := { s with obs := { s.obs with idValid := chainFail == 0 } }
  if chainFail = 0 then s else setEvent rOBS_EVENT 3 s

/-! ### Phase 2 -/

/-- Cause of a failed authentication of what the NVM answers, in the order of Table 4-5; 0 where it passes. -/
def nvmCause (n : NvmData) : Nat := if !n.answers || n.mib < 32 then 1 else imageCause n.bytes

/-- SPOOL_READ (R75, R79): phase 2. -/
def execSpoolRead (n : NvmData) (s : State) : Res :=
  answer (if s.spl.phase ≠ 2 || s.spl.recovery then s
  else
    let s := identityCheck n.chainFail (modSpl (fun p => { p with nvm8d := n.answers && n.mode8d }) s)
    let s := if n.answers then readJournal n.half0 n.half1 s else s
    if nvmCause n ≠ 0 then toRecovery (nvmCause n) s
    else endPhase 2 (auditStart s.spl.resetCause n.chainFail (applyUnits (takeImage n.bytes s))))

/-! ### Phase 3 -/

/-- Take spares for every lane named; false when one is missing. -/
def repairAll (n : Nat) : List Nat → State → Bool × State
  | [], s => (true, s)
  | l :: r, s =>
    let (ok, s) := repairLane n l s
    let (ok', s) := repairAll n r s
    (ok && ok', s)

/-- An attempt of a training has passed: in time, with a capacity. -/
def attemptOk (r : TrainReport) : Bool := r.done && r.pass && r.lanes.isEmpty && r.gib ≠ 0

/-- A port that training leaves out of service (R82): a map-out for a shrinkable one, a failing port with nothing to
migrate for any other (R296, R297). -/
def trainOut (n : Nat) (s : State) : State :=
  let s := modMp n (fun m => { m with st := if shrinkable n s then .mappedOut else .outOfService }) s
  if shrinkable n s then setEvent rMPT_EVENT 3 s
  else setEvent rMPT_EVENT 2 (setEvent rMPT_EVENT 1 (raise (224 + n) .portFailing none none 0 s))

/-- The training of a port in phase 3 (R82): two attempts, with lane repair between them. -/
def trainPort (n : Nat) (r : TrainReport × TrainReport) (s : State) : State :=
  let live (g : Nat) (s : State) : State := modMp n (fun m => { m with st := .inService, gib := g }) s
  let s := trainStart n 0 s
  if attemptOk r.1 then live r.1.gib s
  else if !r.1.done then trainOut n s
  else
    let (ok, s) := repairAll n r.1.lanes s
    if !ok then trainOut n s
    else
      let s := trainStart n 1 s
      if attemptOk r.2 then live r.2.gib s else trainOut n s

/-- Ports that take part in phase 3. -/
def portsToTrain (s : State) : List Nat := (List.range 72).filter fun n => (mport n s).st == .untrained

/-- The buckets are placed, the extent is set and the table is published (R63, R288); the key of memory outside every
envelope is loaded (R359). -/
def placeStart (s : State) : State :=
  let caps := (mpInService s).map fun n => (n, (mport n s).gib)
  let (m, e) := placeAll caps s.spl.img.bucketTable
  let s := modRsvr (fun q => { q with buckets := m, extent := e }) s
  keyLoad 0 none (checkBacked (publishIlv false (rewire 1 s)))

/-- MEMORY_TRAINING (R82, R288): phase 3, with what each port's controller reports on its two attempts; a port that the list
does not name has sent no TRAIN_DONE. -/
def execMemoryTraining (reports : List (MP × TrainReport × TrainReport)) (s : State) : Res :=
  let silent : TrainReport := ⟨false, false, 0, []⟩
  answerAll (if s.spl.phase ≠ 3 || s.spl.recovery then s
  else
    let s := each (portsToTrain s) (fun n s =>
      let r := (reports.find? fun x => x.1.val == n).map (·.2)
      trainPort n (r.getD (silent, silent)) s) s
    if (mpInService s).length < s.spl.img.minMemPorts then toRecovery 9 s
    else endPhase 3 (placeStart s))

/-! ### Phases 4 and 5 -/

/-- Links that phase 4 brings up: enabled, and not failed in phase 1. -/
def linksToBring (s : State) : List Nat := (flEnabled s).filter fun l => (mget s.weir.units (unitKey 6 l)).isNone

/-- Phase 4 starts: links train and an election begins (R28, R331); the tether acquires, except that a warm reset keeps its
state (Table 3-3). -/
def phase4Start (s : State) : State :=
  let s := modSpl (fun p => { p with begun := insNat 4 p.begun, acqTicks := 0 }) s
  let s := if s.spl.resetCause = 1 then s else modTime (fun t => { t with st := .acquire }) s
  each (linksToBring s) flBringUp (startElection s)

/-- The tether is acquired (R83): LOCKED, and a root has set its value under R29; after a warm reset 16 ticks of valid
sync or the election's end with this chip as root are enough (R85). -/
def acquired (s : State) : Bool :=
  if s.spl.resetCause = 1 then 16 ≤ s.time.syncRun || (s.time.isRoot && s.time.election.isNone)
  else s.time.st == .locked && !s.time.awaitPps

/-- Phase 4 ends and phase 6 begins: sessions start with the chips of higher number that have been heard (R340). -/
def phase4End (s : State) : State :=
  let s := endPhase 4 s
  let due := (s.spl.peers.filter fun e => e.2.st == .seen && s.spl.chip < e.1 && (fpeer e.1 s).sess == .closed).map (·.1)
  each due startSession s

/-- A follower that starts cold has heard sync since the election ended: its tether may be set by it, since only one that
has locked steers by rate alone (R32, R83; log 10). -/
def mayAcquire (s : State) : Bool :=
  s.spl.resetCause != 1 && s.time.st == .acquire && !s.time.isRoot && s.time.election.isNone
    && (s.time.syncThisTick || 1 ≤ s.time.syncRun)

/-- The follower takes the root's tether value, which its offset gives, and is LOCKED (R31, R83; log 10). -/
def acquireTether (s : State) : State :=
  let v := (((stampAt s.time.frac s).toNat : Int) - s.time.offset) % (2 ^ 68 : Nat)
  let s := modTime (fun t => { t with
    now := BitVec.ofInt 64 (v / 16), frac := (v % 16).toNat, offset := 0, st := .locked }) s
  modTime (fun t => { t with errBound20 := lockedBound s }) s

/-- TETHER_ACQUIRE (R83, R85): phase 4 starts, and ends once the tether is acquired. -/
def execTetherAcquire (s : State) : Res :=
  answer (if !inPhase4 s then s
  else if !s.spl.begun.contains 4 then phase4Start s
  else if acquired s then phase4End s
  else if mayAcquire s then phase4End (acquireTether s) else s)

/-- TETHER_ACQ_TIMEOUT (R83): a chip that has not reached LOCKED after TETHER_ACQ_TICKS goes on in FREE_RUN. -/
def execTetherAcqTimeout (s : State) : Res :=
  answer (if inPhase4 s && s.spl.begun.contains 4 && s.spl.img.acqTicks ≤ s.spl.acqTicks && s.time.st != .locked then
    phase4End (tthEntry .freeRun 1 s) else s)

/-- Lane groups that have failed a training go out of service (R51, R20). -/
def groupsFail (p : Nat) (l : List (Fin 4)) (s : State) : State :=
  each l (fun g s => modPort p (fun h => { h with laneOut := insNat g.val h.laneOut })
    (setUnit (unitKey 7 (4 * p + g.val)) .outOfService s)) s

/-- A port's link has trained (R51, R80, R95, R96): where a lane group has failed, the port trains again at the widest width
left; without flit mode it is a diagnostic link; with CXL it runs at 64 GT/s at most. -/
def trainedLink (p : Nat) (t : Trained) (s : State) : State :=
  if !t.failed.isEmpty then startTraining p (groupsFail p t.failed s)
  else
    let width := max t.width.val (widthLimit p s)
    match arrangement width (hport p s).laneOut with
    | none => modPort p (fun h => { h with link := 0 }) s
    | some a =>
      let cxl := if s.spl.ended.contains 2 then (t.cxl &&& BitVec.ofNat 3 (portCfg p s).protoEn).toNat else 0
      let rate := if cxl ≠ 0 then min 5 t.rate.val else t.rate.val
      let s := modPort p (fun h => { h with
        width := a.width, trained := a.width, groups := a.groups, reversed := a.reversed }) s
      if t.flit then modPort p (fun h => { h with link := 2, rate := rate, cxl := cxl, lstate := .l0 }) s
      else
        let s := modPort p (fun h => { h with link := 3, rate := min 4 rate, cxl := 0 }) s
        setEvent rEPT_EVENT (8 + p) (putInst 0 p s)

/-- HP_WIDTH and MAX_RATE have taken effect: a link that exceeds either trains once more through Recovery (R80). -/
def portLimits (p : Nat) (s : State) : State :=
  let c := portCfg p s
  let h := hport p s
  if h.limited && 2 ≤ h.link && (h.width < c.width || c.maxRate < h.rate) then
    match arrangement (max h.width c.width) h.laneOut with
    | some a => trainAt p a (modPort p (fun h => { h with
        width := a.width, trained := a.width, rate := min h.rate c.maxRate }) s)
    | none => modPort p (fun h => { h with link := 0 }) s
  else s

/-- Lowest-numbered host port whose link is up. -/
def firstUp (s : State) : Option Nat := (List.range 4).find? fun p => (hport p s).link == 2

/-- HOST_PORT_LINK_UP (R80, R99): phase 5, with the links that finish training in it: limits, the manager group, Device
Readiness Status on every port in service. A staged image leaves links as trained until their hpN_perst_n (R89). -/
def execHostPortLinkUp (links : List (HP × Trained)) (s : State) : Res :=
  answerAll (if s.spl.recovery || !s.spl.ended.contains 3 || s.spl.ended.contains 5 then s
  else
    let s := each links (fun l s =>
      if mayTrain l.1.val s && (hport l.1.val s).link = 1 then trainedLink l.1.val l.2 s else s) s
    let s := if s.spl.staged then s else each (List.range 4) (fun p s => modPort p (fun h => { h with limited := true }) s) s
    let s := each (List.range 4) portLimits s
    let up := (List.range 4).filter fun p => (hport p s).link == 2
    let s := endPhase 5 s
    let s := match firstUp s with
      | some p => if s.ep.mgr.isEmpty then setMgr p s else s
      | none => s
    each up (fun p s => tell p .drs (portUp p s)) s)

/-- HOST_LINK_TRAINED (R80, R91): a link finishes training; before phase 5 it waits for it. -/
def execHostLinkTrained (p : HP) (t : Trained) (s : State) : Res :=
  let n := p.val
  answerAll (if !mayTrain n s || (hport n s).link ≠ 1 then s
  else
    let s := trainedLink n t s
    let s := if s.spl.ended.contains 5 then portLimits n s else s
    if (hport n s).link = 2 && (s.spl.recovery || s.spl.ended.contains 5) then portUp n s else s)

/-- MANAGER_GROUP (R99): 100 ms after recovery posture was entered, the lowest-numbered port whose link is up. -/
def execManagerGroup (s : State) : Res :=
  answerAll (if s.spl.recovery && s.ep.mgr.isEmpty && 100000 ≤ s.spl.recoveryTicks then
    match firstUp s with
    | some p => portChanged p (setMgr p s)
    | none => s
  else s)

/-! ### Phases 6 and 7 -/

/-- FABRIC_BRING_UP (R331, R412): phase 6 ends; the sessions established and failed are recorded. -/
def execFabricBringUp (s : State) : Res :=
  answer (if s.spl.recovery || !s.spl.ended.contains 4 || s.spl.ended.contains 6 then s
  else endPhase 6 (auditO .fabricSessions 0 0 noEnv false [BitVec.ofNat 64 s.fab.opened, BitVec.ofNat 64 s.fab.failed] s))

/-- One template of phase 7 (R84): created, or skipped with its number recorded. -/
def instantiate (x : Nat × List Byte) (s : State) : State :=
  let t := tmplOf x.2
  if !t.instantiate then s
  else match createCheck x.1 t s with
  | none => createEff x.1 t s
  | some _ =>
    auditO .templateSkipped 0 0 noEnv false [BitVec.ofNat 64 x.1] (setEvent rSPL_EVENT 2 s)

/-- ENVELOPE_INSTANTIATION (R84): phase 7. -/
def execEnvelopeInstantiation (s : State) : Res :=
  answerAll (if s.spl.phase ≠ 7 || s.spl.recovery || s.spl.begun.contains 7 then s
  else
    let l := (List.range s.spl.img.templates.length).zip s.spl.img.templates
    let s := modSpl (fun p => { p with begun := insNat 7 p.begun }) s
    phase7End (each l instantiate s))

/-! ### Staging and commit -/

/-- Bytes of the staging RAM (R88). -/
def stagingSize : Nat := 0x800000

/-- STAGING_WRITE (R88): bytes of the staging window, in OPEN; otherwise discarded and counted. -/
def execStagingWrite (p : HP) (off : BitVec 23) (data : List Byte) (s : State) : Res :=
  answer (if !mgrOpen p.val rSPL_CTRL s then s
  else if s.spl.stage == .opened then
    modSpl (fun x => { x with staging := cellsSet x.staging off.toNat (data.take (stagingSize - off.toNat)) }) s
  else modSpl (fun x => { x with stageDropped := satAdd 16 x.stageDropped 1 }) s)

/-- STAGE_OPEN (R88): ignored while authentication or a commit runs. -/
def execStageOpen (p : HP) (s : State) : Res :=
  answer (if mgrOpen p.val rSPL_CTRL s && s.spl.stage != .authenticating && !s.spl.commitBusy then
    modSpl (fun x => { x with stage := .opened, staging := [], stageOk := false, stageCause := 0 }) s
  else s)

/-- STAGE_AUTH (R88): ignored outside OPEN. -/
def execStageAuth (p : HP) (s : State) : Res :=
  answer (if mgrOpen p.val rSPL_CTRL s && s.spl.stage == .opened then
    modSpl (fun x => { x with stage := .authenticating }) s else s)

/-- STAGE_AUTH_DONE (R88): checks 2 to 8 on the staged bytes have ended. -/
def execStageAuthDone (s : State) : Res :=
  answer (if s.spl.stage == .authenticating then
    let c := imageCause s.spl.staging
    modSpl (fun x => { x with stage := .authenticated, stageOk := c == 0, stageCause := c }) s
  else s)

/-- The staged image is authenticated and good. -/
def stagedGood (s : State) : Bool := s.spl.stage == .authenticated && s.spl.stageOk

/-- STAGE_BOOT's effect (R89, R99): start-up goes on from phase 3 under the staged image, and the audit log starts. -/
def stageBoot (s : State) : State :=
  let s := modSpl (fun p => { p with recovery := false, staged := true, cause := 0, begun := [] }) s
  let s := applyUnits (takeImage s.spl.staging s)
  let s := match s.ep.mgr with
    | p :: _ => setMgr p s
    | [] => s
  endPhase 2 (auditStart 2 (if s.obs.idValid then 0 else 1) s)

/-- STAGE_BOOT (R89): only in recovery posture. -/
def execStageBoot (p : HP) (s : State) : Res :=
  answerAll (if mgrOpen p.val rSPL_CTRL s && s.spl.recovery && stagedGood s then stageBoot s else s)

/-- IMAGE_SERIAL of the staged image. -/
def stagedSerial (s : State) : W64 := BitVec.ofNat 64 (rd s.spl.staging 0x10 8)

/-- COMMIT's effect (R90): the record, then the image space is erased and programmed. -/
def commitDo (s : State) : State :=
  if !stagedGood s || s.spl.commitBusy then s
  else
    let s := signC .spool noEnv [1, stagedSerial s] s
    let s := modSpl (fun p => { p with commitBusy := true, commitRec := p.recovery }) s
    emitAll [.nvm 0 0 [], .nvm 1 0 (cellsGet s.spl.staging 0 (imageSize s.spl.staging))] s

/-- COMMIT (R90): in normal posture a class C operation (R414). -/
def execCommit (p : HP) (s : State) : Res :=
  answer (if mgrOpen p.val rSPL_CTRL s && stagedGood s && !s.spl.commitBusy then classC (.commit p) commitDo s else s)

/-- COMMIT_END's effect (R76, R90). -/
def commitEndDo (good : Bool) (s : State) : State :=
  if !s.spl.commitBusy then s
  else
    let s := signC .spool noEnv [if good then 2 else 3, stagedSerial s] s
    let s := modSpl (fun p => { p with commitBusy := false }) s
    if good then journalDue ⟨0, 0, 0, 0⟩ (some s.spl.commitRec) (setEvent rSPL_EVENT 0 s) else setEvent rSPL_EVENT 1 s

/-- COMMIT_END (R90): the read-back has matched or not; its record is of class C (Table 17-7). -/
def execCommitEnd (good : Bool) (s : State) : Res :=
  answer (if s.spl.commitBusy then classC (.commitEnd good) (commitEndDo good) s else s)

/-! ### Host path lost -/

/-- HOSTLOSS_WAIT_EXPIRY (R91): a function has not been re-enumerated within HOSTLOSS_WAIT_MS. -/
def execHostlossWaitExpiry (fn : Fn) (s : State) : Res :=
  answerAll (match mget s.spl.hostLoss fn.val with
  | none => s
  | some t =>
    if t < s.spl.img.hostLossWaitMs * 1000 then s
    else
      let s := modSpl (fun p => { p with hostLoss := mdel p.hostLoss fn.val }) s
      let lost := (ctxsOfFn fn.val s).filter fun c => match mget s.que.ctxs c with
        | some x => x.st == .hostPathLost
        | none => false
      setEvent rSPL_EVENT 3 (each lost (fun c s => destroyCtx c none s) s))

end Sys2Proof.Machine
end

