-- ==== Sys2Proof/Machine/Mgmt.lean ====
section
/-! DEFINITION. MGMT, sensors and the test port (R69, R70, R72). -/
namespace Sys2Proof.Machine

/-- Completion codes of an answer over MGMT: success, an unsupported type, an unknown sensor (log 38). -/
def mgmtOk : Nat := 0
def mgmtType : Nat := 0x20
def mgmtSensor : Nat := 0x80

/-- A temperature sensor s is 0 to 15, a power sensor 16 to 23, the tether state 24, the cause of recovery posture 25
(R69, R87; log 38): its value and its stale flag; none for an unconnected one. -/
def sensorRead (n : Nat) (s : State) : Option (List W64) :=
  let show_ (x : Sensor) : List W64 := [BitVec.ofInt 64 x.value, BitVec.ofNat 64 (b2n x.stale)]
  if n < 16 then
    if s.spl.img.sensorMapT / 2 ^ n % 2 = 1 then some (show_ (mgetD s.port.temp n {})) else none
  else if n < 24 then
    if s.spl.img.sensorMapP / 2 ^ (n - 16) % 2 = 1 then some (show_ (mgetD s.port.power (n - 16) {})) else none
  else if n = 24 then some [BitVec.ofNat 64 (tthCode s.time.st), 0]
  else if n = 25 then some [BitVec.ofNat 64 s.spl.cause, 0]
  else none

/-- A request reaches the block (R69): over I3C always, as a vendor-defined message through the physical function of a host
port in service. -/
def mgmtReaches (v : MgmtVia) (s : State) : Bool := match v with
  | .i3c => true
  | .vdm p => linkUp p s

/-- An answer whose content the spec does not give: MCTP control and PLDM Type 0 (log 38). -/
def mgmtFree (v : MgmtVia) (s : State) : State :=
  emit (.mgmt v mgmtOk [Config.freeWord s.free]) { s with free := s.free + 1 }

/-- MGMT_REQUEST (R69): every request is answered, in every state. TTH_ROOT_SET is written over MGMT before phase 4
(R29, Table 2-7). -/
def execMgmtRequest (m : MgmtIn) (s : State) : Res :=
  answer (if !mgmtReaches m.via s then s
  else match m.req with
  | .mctpControl _ => mgmtFree m.via s
  | .pldmBase _ => mgmtFree m.via s
  | .pldmSensor n => match sensorRead n s with
    | some l => emit (.mgmt m.via mgmtOk l) s
    | none => emit (.mgmt m.via mgmtSensor []) s
  | .pldmOther _ => emit (.mgmt m.via mgmtType []) s
  | .writeRootSet x => emit (.mgmt m.via mgmtOk []) (if s.spl.ended.contains 3 then s else setRaw rTTH_ROOT_SET x s))

/-- A sensor is connected (R70). -/
def sensorOn (power : Bool) (n : Nat) (s : State) : Bool :=
  if power then n < 8 && s.spl.img.sensorMapP / 2 ^ n % 2 == 1 else s.spl.img.sensorMapT / 2 ^ n % 2 == 1

/-- The record of a sensor. -/
def sensorRec (power : Bool) (n : Nat) (s : State) : Sensor := mgetD (if power then s.port.power else s.port.temp) n {}

/-- Set the record of a sensor. -/
def putSensor (power : Bool) (n : Nat) (x : Sensor) (s : State) : State :=
  if power then { s with port := { s.port with power := mset s.port.power n x } }
  else { s with port := { s.port with temp := mset s.port.temp n x } }

/-- SENSOR_SAMPLE (R70): a temperature is signed, a power unsigned. -/
def execSensorSample (power : Bool) (n : Fin 16) (v : BitVec 16) (s : State) : Res :=
  answer (if sensorOn power n.val s then
    putSensor power n.val ⟨if power then (v.toNat : Int) else v.toInt, tick s, false⟩ s
  else s)

/-- SENSOR_STALE (R70): no sample for 10 ms, 10,000 ticks; a level-0 event. DETAIL is the sensor's number, power sensors
from 16 on. -/
def execSensorStale (power : Bool) (n : Fin 16) (s : State) : Res :=
  let x := sensorRec power n.val s
  answer (if sensorOn power n.val s && !x.stale && x.tick + 10000 ≤ tick s then
    raise 2 .sensorStale none none (if power then 16 + n.val else n.val) (putSensor power n.val { x with stale := true } s)
  else s)

/-- A key slot holds a key, on chip or at a key port (R72): a memory key, the audit key, a session's or an IDE stream's; none
is left after ZEROISE_ALL. -/
def keyHeld (s : State) : Bool :=
  !s.env.zeroised && (s.obs.auditOn || !s.env.loaded.isEmpty || s.fab.peers.any (fun p => p.2.live)
    || s.ep.ports.any (fun p => !p.2.ideKeys.isEmpty) || (List.range 72).any fun n => (mport n s).keyBusy.isSome)

/-- TAP_INSTRUCTION (R72): IDCODE, BYPASS and the monitors always; any other is refused while a key slot holds a key, with
tap_tdo at 0 and an audit record where the log runs. -/
def execTapInstruction (t : TapOp) (s : State) : Res :=
  let take (s : State) : State := emit (.tap true) { s with port := { s.port with tap := t } }
  answer (match t with
  | .intrusive c =>
    if s.spl.phase ≠ 1 && keyHeld s then
      emit (.tap false) (auditO .tapRefused 3 0 noEnv false [BitVec.ofNat 64 c.toNat] s)
    else take s
  | _ => take s)

end Sys2Proof.Machine
end

