-- ==== Sys2Proof/Machine/Tick.lean ====
section
/-! DEFINITION. The tick edge (R34, Table 2-2) and the resume edge of a sluice stop (R399). -/
namespace Sys2Proof.Machine

/-! ### Rows 1 to 3: what every edge does, held or not -/

/-- Ticks of the fabric links: how long each has trained or retrained (R331, R334); a new budget of units that go ahead
(R339). -/
def linksTick (s : State) : State :=
  modFab (fun b => { b with links := mmap (fun _ k =>
    { k with ahead := 0, ticks := if k.st == .up || k.st == .out then k.ticks else k.ticks + 1 }) b.links }) s

/-- A root-capable chip's claim goes out on every link at the first 32 edges of an election (R28, R340). -/
def claimSend (s : State) : State :=
  match s.time.election with
  | some n =>
    if n ≤ 32 && rootCapable s then each (linksUp s) (fun l s => each (chipsOn l s) (fun c s => helloTo l c true s) s) s else s
  | none => s

/-- One edge of a peer: the age of its oldest unacknowledged packet, of its keys and of the old ones; KEPOCH flips after a
handshake (R342, R345, R348). -/
def peerTick (p : FabPeer) : FabPeer :=
  let p := { p with
    wait := if p.unacked.isEmpty then 0 else p.wait + 1
    rekeyTicks := if p.live then p.rekeyTicks + 1 else 0
    oldTicks := p.oldTicks - 1
    oldSecret := if p.oldTicks ≤ 1 then 0 else p.oldSecret
    retryIn := p.retryIn.map (· - 1) }
  if p.flip then
    { p with
      flip := false, kepoch := !p.kepoch, ctr := [], oldTicks := 2
      oldSecret := p.secret, secret := p.newSecret, newSecret := 0 }
  else p

/-- Edges of the peers: counts, and handshakes that are due again (R342). -/
def peersTick (s : State) : State :=
  let heard (x : Peer) : Peer := if x.st == .seen || x.st == .active then { x with silent := x.silent + 1 } else x
  let s := modSpl (fun p => { p with peers := mmap (fun _ x => heard x) p.peers }) s
  let s := modFab (fun b => { b with peers := mmap (fun _ p => peerTick p) b.peers }) s
  let due := (s.fab.peers.filter fun e => e.2.retryIn == some 0).map (·.1)
  each due (fun c s =>
    let s := modFpeer c (fun p => { p with retryIn := none }) s
    if peerSt c s == .seen || peerSt c s == .active then startSession c s else s) s

/-- One edge of a host port (R110, R195): idle ticks, the tick's traffic against the rate of the next narrower width, the
hold of hpN_wake_n (R109), and a new allowance. -/
def portTick (p : Nat) (s : State) : State :=
  let h := hport p s
  let low := portUnits (lanesOf h.width / 2) h.rate * 40 / 100
  let wait := (h.uq.map (·.units)).foldl (· + ·) 0
  let s := modPort p (fun h => { h with
    idle := if h.sent = 0 && h.uq.isEmpty then h.idle + 1 else 0
    lowTicks := if h.sent < low then h.lowTicks + 1 else 0
    queued := h.sent + wait
    wakeHold := h.wakeHold - 1
    wakeLow := h.wakeLow && (h.perst || decide (2 ≤ h.wakeHold))
    sent := 0
    allowance := 0 }) s
  drainU p 4096 (flushDue true p s)

/-- Sensor values that virtual functions see, at edges whose tick number is a multiple of 1,000 (R404). -/
def sensorEdge (s : State) : State :=
  if tick s % 1000 ≠ 0 then s
  else
    let t := (List.range 16).map fun i => (i, coarsen 128 (mgetD s.port.temp i {}).value)
    let tl := (List.range 16).map fun i => (16 + i, coarsen 128 (s.spl.img.tempLimit.getD i 0))
    let w := (List.range 8).map fun i => (32 + i, coarsen 500 (mgetD s.port.power i {}).value)
    let wl := (List.range 8).map fun i => (48 + i, coarsen 500 (s.spl.img.powerLimit.getD i 0))
    { s with obs := { s.obs with coarseSens := t ++ tl ++ w ++ wl, coarseSensTick := tick s } }

/-- Waits of start-up, of recovery posture and of lost host paths (R83, R91, R99). -/
def startTick (s : State) : State :=
  modSpl (fun p => { p with
    acqTicks := if p.begun.contains 4 && !p.ended.contains 4 then p.acqTicks + 1 else p.acqTicks
    recoveryTicks := if p.recovery then p.recoveryTicks + 1 else p.recoveryTicks
    hostLoss := mmap (fun _ n => n + 1) p.hostLoss }) s

/-- Rows 1 to 3 of Table 2-2: faults of the tick that ends are latched, counters are copied, the tether stands at the new
tick and is marked on tth_edge, and an announced stop freezes the chip at its tick. -/
def edgeFirst (cycles : Nat) (ref10m : Bool) (s : State) : State :=
  let t := tick s
  let s := weirEdge t (snapEdge t s)
  let s := sensorEdge (tetherEdge cycles ref10m s)
  let s := emit (.tickMark (BitVec.ofNat 64 (tick s))) s
  sluiceEdge (startTick (peersTick (claimSend (linksTick s))))

/-! ### Rows 4 to 10 -/

/-- A guaranteed class that had a request waiting at a resource at the tick's end, with credit unspent, has missed its
guarantee (R197). -/
def guaranteeMisses (s : State) : List (Nat × Nat) :=
  let l := (s.que.reqs.filter fun e => e.2.st == .credit).map fun e => (e.2.res, e.2.ident.cls)
  l.eraseDups.filter fun x => classGuard x.1 x.2 s && mgetD s.ep.spent (resKey x.1 x.2) 0 < classCredit x.1 x.2 s

/-- One missed guarantee: counted, traced, reported with the manager's vector (R197, Table 17-1, Table 17-4). -/
def guaranteeMiss (x : Nat × Nat) (s : State) : State :=
  let s := modEp (fun e => { e with gmiss := mupd e.gmiss x.2 0 fun n => satAdd 32 n 1 }) s
  let s := count 2 3 (16 * x.1 + x.2) 1 (setEvent rDPA_EVENT 0 s)
  let s := traceRec ⟨s.time.now, 0, 0, 0x0C, x.2, 0xFFF, 0xFF, x.1, BitVec.ofNat 64 x.1⟩ s
  dpaVector s

/-- The guarantees of the tick that ends, under the credits of that tick (R197). -/
def guaranteeEdge (s : State) : State :=
  let s := modEp (fun e => { e with vecThisTick := false }) s
  each (guaranteeMisses s) guaranteeMiss s

/-- Row 5: deadlines decrement; the credits of the tick lapse and the next tick's are loaded (R36, R37). -/
def regulate (s : State) : State :=
  let dl (r : Req) : Req := if r.dlLeft = 0 then r else { r with dlLeft := r.dlLeft - 1 }
  let dc (c : Cmd) : Cmd := if c.dlLeft = 0 then c else { c with dlLeft := c.dlLeft - 1 }
  let s := modQue (fun q => { q with reqs := mmap (fun _ r => dl r) q.reqs, cmds := mmap (fun _ c => dc c) q.cmds }) s
  let waits := ((s.que.reqs.filter fun e => e.2.st == .credit).map fun e => resKey e.2.res e.2.ident.cls).eraseDups
  modEp (fun e => { e with spent := [], lent := [], waited := waits }) s

/-- Requests that wait for credit at a resource go on while the new credits last (Table 2-3). -/
def admitAll (res : Nat) : Nat → State → State
  | 0, s => s
  | n + 1, s => match arbiter res false s with
    | some _ => admitAll res n (admitOne res false s)
    | none => s

/-- Row 7: parked pieces resume ahead of new work, which then is admitted where it waits for credit (R34, R36). -/
def resumeParked (s : State) : State :=
  let s := kickWaiting s
  let l := ((s.que.reqs.filter fun e => e.2.st == .credit).map fun e => e.2.res).eraseDups
  each l (fun r s => admitAll r 4096 s) s

/-- Row 8: doorbells recorded in the tick that ended are served in their order; one that is not fully served stays
recorded. -/
def doorbellService (s : State) : State :=
  let l := s.que.rung
  let s := each l serveQueue (modQue (fun q => { q with rung := [] }) s)
  modQue (fun q => { q with rung := l.filter fun i => stillRung i s }) s

/-- Spans that pieces scheduled for a later tick will touch (R166), with their contexts: the piece of each running COPY
and FILL that follows the one in hand, and the descriptors that a queue with a recorded doorbell has still to fetch. -/
def soonSpans (s : State) : List (Nat × Nat × Nat) :=
  let ofCmd (e : Nat × Cmd) : List (Nat × Nat × Nat) := match cmdCtx e.2 s, e.2.st == .running, e.2.body with
    | some x, true, .copy src dst len _ _ =>
      let (sv, dv, n) := (src.toNat % 2 ^ 57, dst.toNat % 2 ^ 57, len.toNat)
      let far := e.2.done + e.2.next
      let k := min e.2.next (n - far)
      let off := if sv < dv && dv < sv + n then n - far - k else far
      [(x, sv + off, k), (x, dv + off, k)]
    | some x, true, .fill dst len _ _ =>
      let far := e.2.done + e.2.next
      [(x, dst.toNat % 2 ^ 57 + far, min e.2.next (len.toNat - far))]
    | _, _, _ => []
  let ofQueue (i : Nat) : List (Nat × Nat × Nat) := match mget s.que.queues i with
    | some q => (match q.ctx with
      | some x =>
        let next := (q.head + q.entries.length) % 2 ^ 32
        if dist32 q.tail next = 0 then [] else [(x, q.ring + 64 * (next % 2 ^ q.k), 64)]
      | none => [])
    | none => []
  s.que.cmds.flatMap ofCmd ++ s.que.rung.flatMap ofQueue

/-- Row 9: the translation prefetch window opens, while TRN_CTRL.PREFETCH_EN is 1 (R34, R166). -/
def prefetchEdge (s : State) : State :=
  if !bit (regRaw rTRN_CTRL s) 0 then s
  else each (soonSpans s) (fun x s => each (pieces x.2.1 x.2.2 0) (fun pg s => prefetch x.1 pg.1 s) s) s

/-- The next piece of a window's warm (R186): read into the Reservoir with the keep hint, in the class MOV_CLASS.WARM. -/
def warmPiece (fn : Nat) (s : State) : State :=
  let f := func fn s
  match f.warm with
  | none => s
  | some off =>
    let cls := regFld rMOV_CLASS 8 4 s
    let n := min (pieceMax cls false false s) (winSize fn - off)
    let gone := !f.winActive || (mget s.que.ctxs f.winCtx).isNone || slotGen s.que.ctxSlots f.winCtx ≠ f.winGen
    if gone || n = 0 then modFunc fn (fun f => { f with warm := none }) s
    else
      let s := modFunc fn (fun f => { f with warm := some (off + n) }) s
      newReq { who := .block, fn := fn, env := f.env, op := .load (f.winBase + off) n, hint := 2,
               ident := { ctx := some f.winCtx, gen := f.winGen, cls := cls } } s

/-- Counts of an edge that no row of the schedule names: vectors in moderation (R250), aborted
tokens (R140), mismatches and refused aperture writes reported once per tick, the patrol scrub. -/
def countsTick (s : State) : State :=
  let s := modEp (fun e => { e with
    mods := mmap (fun _ m => { m with ticks := m.ticks + 1 }) e.mods
    badKeyTick := [] }) s
  let ctx (x : Ctx) : Ctx := { x with mismatchTick := false }
  let tok (t : Token) : Token := if t.aborted then { t with abortTicks := t.abortTicks + 1 } else t
  let s := modQue (fun q => { q with ctxs := mmap (fun _ x => ctx x) q.ctxs, tokens := mmap (fun _ t => tok t) q.tokens }) s
  { s with weir := { s.weir with scrubTicks := s.weir.scrubTicks + 1 } }

/-- Row 4: bindings, filters, objects, regions and the registers that change at an edge. -/
def bindingEdge (s : State) : State :=
  let s := regionsEdge (objsEdge (filtEdge (envTick (epochEdge s))))
  zeroiseEdge (unitEdge (mpEdge (hdmEdge (classEdge (regEdge s)))))

/-- Rows 5 to 10, from the credit load onwards, but for the sync messages. -/
def edgeWork (s : State) : State :=
  let s := prefetchEdge (doorbellService (tmplEdge (resumeParked (regulate s))))
  let s := slotEdge (waitsEdge (waitsTick s))
  let s := countsTick (prgTick s)
  let s := each ((s.ep.funcs.filter fun f => f.2.warm.isSome).map (·.1)) warmPiece s
  let s := jobsEdge (patrolTick s)
  traceEdge (auditMove 32 (auditUnhold 4096 s))

/-- How far a mover piece's command had come where the piece starts. -/
def pieceOffset (c : Cmd) (r : Req) : Option Nat :=
  match r.op, c.body with
  | .copy src _ _, .copy src0 .. => some (src - src0.toNat)
  | .fill dst _ _ _, .fill dst0 .. => some (dst - dst0.toNat)
  | .zero _ _ n left, .alloc sz _ _ => some (sz.toNat - left - n)
  | _, _ => none

/-- Admitted pieces that have not finished when the tick ends park: counted, and those of commands traced (R36, Table 17-1,
Table 17-4). -/
def parkPieces (s : State) : State :=
  modQue (fun q => { q with reqs := mmap (fun _ r => leaveMover r) q.reqs })
  (each (s.que.reqs.filter fun e => e.2.st ≠ .credit && e.2.st ≠ .held) (fun e s =>
    let s := if e.2.mover.isSome then count 9 1 (e.2.mover.getD 0) 1 s else s
    match e.2.who with
    | .cmd c => match mget s.que.cmds c with
      | some k => match pieceOffset k e.2 with
        | some n => trace 4 e.2.ident e.2.env (96 + e.2.mover.getD 0) (BitVec.ofNat 64 n) s
        | none => s
      | none => s
    | _ => s) s)

/-- TICK_EDGE (R34): `cycles` is the length of the tick that ends, `ref10m` says that a reference edge has been seen. A chip
that a sluice stop has frozen only sends sync and moves its ports' flushes (R395, R397). -/
def execTickEdge (cycles : BitVec 16) (ref10m : Bool) (s : State) : Res :=
  let held := frozen s
  let s := edgeFirst cycles.toNat ref10m s
  let s := if held then s else parkPieces s
  let s := if frozen s then s else bindingEdge (guaranteeEdge s)
  let s := each (List.range 4) portTick (syncSend s)
  answerAll (if frozen s then s else edgeWork s)

end Sys2Proof.Machine
end

