-- ==== Sys2Proof/Machine/Release.lean ====
section
/-! DEFINITION. What was held goes on: the resume edge of a sluice stop (R399), and commands that the stall rule of the audit
log held (R414). -/
namespace Sys2Proof.Machine

/-- The effect of a command that a sluice stop has held (R396, R397, R399). -/
def heldEffect : Instr → State → State
  | .load p h => loadEffect p h
  | .store p h d => storeEffect p h d
  | .tileRead p h t => tileReadEffect p h t
  | .tileWrite p h t => tileWriteEffect p h t
  | .tileWriteData p c e t d => tileDataEffect p c e t d
  | .atomic p h o b n x y => atomicEffect p h o b n x y
  | .release p h => releaseEffect p h
  | .acquire p h => acquireEffect p h
  | .vc0FenceSignal p h d => coreSignalEffect p h d
  | .vc0FenceWait p h d => coreWaitEffect p h d
  | .vc0Alloc p h n a f => vc0AllocEffect p h n a f
  | .vc0Free p h o => vc0FreeEffect p h o
  | .vc0Reduce p h i c f n r e => vc0ReduceEffect p h i c f n r e
  | .rdShared h => cohRequest 0 h
  | .rdOwn h => cohRequest 1 h
  | .upgrade h => cohRequest 2 h
  | .wrBack h => cohEvict .wrBack h
  | .evictClean h => cohEvict .evictClean h
  | .cxlMemRequest p d a t op => cxlMem p.val d.val a.dec a.addr.toNat t.toNat op
  | .rillWrite p fn n o d => rillWrite p.port.val fn.val n.val o.toNat d
  | .hostWindowWrite p fn o d => windowWrite p.port.val fn.val o.toNat d
  | .hostWindowAtomic p fn o k w x y t =>
    windowAtomic p.port.val fn.val o.toNat k.val w.val x y t.toNat p.tlp.attr
  | .placementWrite p o i d => placeWrite p.port.val o.toNat (i.map (·.toNat)) d
  | .fabricWrite h a d => fabWriteEff h a d
  | .fabricRead h a n => fabReadEff h a n
  | .fabricAtomic h a o => fabAtomicEff h a o
  | .fenceOp h g d c x e => fenceOpEff h g d c x e
  | .fenceDone h q v t => fenceDoneEff h q v t
  | .rdata h q t d => rdataEff h q t d
  | .aresp h q t o => arespEff h q t o
  | .partialRecord h b => partialEff h b
  | .resultRecord h b => resultEff h b
  | _ => id

/-- The stop ends (R399): held faults act, deferred epochs become current, held packets and writes are delivered in their
order, and Table 2-2 goes on from the credit load. -/
def resumeEdge (s : State) : State :=
  let l := s.sluice.heldFaults
  let s := modSluice (fun x => { x with st := .idle, heldFaults := [] }) s
  let s := bindingEdge (each l weirAct s)
  let held := s.sluiceHeld
  edgeWork (each held heldEffect { s with sluiceHeld := [] })

/-- SLUICE_RESUME_EDGE (R399): at the edge of R, unless a level-4 fault has been latched while the chip was held. -/
def execSluiceResumeEdge (s : State) : Res :=
  answerAll (if s.sluice.st == .resumePending && s.sluice.tickR ≤ tick s && !s.weir.fatal then resumeEdge s else s)

/-- The value of a whole-register write. -/
def fullOf : RegW → W64
  | .full v => v
  | .lower v => BitVec.ofNat 64 v.toNat
  | .upper v => BitVec.ofNat 64 (v.toNat * 2 ^ 32)

/-- The effect of a command that the stall rule held (R414). -/
def stalledEffect : Instr → State → State
  | .registerWrite p fn o (some w) => auditedEffect p.port.val (fnKey fn.val o.toNat) (fullOf w)
  | .rangeWrite _ n w => rangeDo n.val (fullOf w)
  | .classWrite _ n w => classDo n.val (fullOf w)
  | .vecAlloc p v => vecAllocDo p.val v
  | .hdmMapWrite _ n w => hdmDo n.val (fullOf w)
  | .elect _ => electDo
  | .stepGo _ => stepGoDo
  | .retire p v => retireDo p.val v
  | .unitTest _ u => unitOpDo .test u
  | .unitRetire _ u => unitOpDo .retire u
  | .unitReturn _ u => unitOpDo .ret u
  | .unitSubstitute _ u => unitOpDo .substitute u
  | .sluiceAnnounce _ d => announceDo d
  | .sluiceResume _ => resumeDo
  | .create p w _ => actStart p (fullOf w)
  | .update p w _ => actStart p (fullOf w)
  | .remove p w => actStart p (fullOf w)
  | .coreBind p w => actStart p (fullOf w)
  | .peerSet p w => actStart p (fullOf w)
  | .peerClear p w => actStart p (fullOf w)
  | .memMove p w => actStart p (fullOf w)
  | .memSwitch p w => actStart p (fullOf w)
  | .memRelease p w => actStart p (fullOf w)
  | .memLen p w => actStart p (fullOf w)
  | .pause p w => actStart p (fullOf w)
  | .resume p w => actStart p (fullOf w)
  | .dirtyStart p w => actStart p (fullOf w)
  | .dirtyStop p w => actStart p (fullOf w)
  | .commit _ => commitDo
  | .commitEnd g => commitEndDo g
  | _ => id

/-- AUDIT_STALL_RELEASE (R414): with an entry open to class C free, the oldest stalled command takes effect. -/
def execAuditStallRelease (s : State) : Res :=
  answerAll (match s.stalled with
  | [] => s
  | c :: r => if !s.obs.auditOn || freeC s then stalledEffect c { s with stalled := r } else s)

end Sys2Proof.Machine
end

