-- ==== Sys2Proof/Machine/Dispatch.lean ====
section
/-! DEFINITION. What each command does: one arm per command, each one direct call of its meaning. -/
namespace Sys2Proof.Machine

def exec (i : Instr) (s : State) : Host.Outcome State Fault Refusal :=
  match i with
  | .powerOnReset => Sys2Proof.Machine.execPowerOnReset s
  | .warmReset => Sys2Proof.Machine.execWarmReset s
  | .perst p => Sys2Proof.Machine.execPerst p s
  | .tapReset => Sys2Proof.Machine.execTapReset s
  | .selfTest bad absent => Sys2Proof.Machine.execSelfTest bad absent s
  | .spoolRead n => Sys2Proof.Machine.execSpoolRead n s
  | .memoryTraining reports => Sys2Proof.Machine.execMemoryTraining reports s
  | .tetherAcquire => Sys2Proof.Machine.execTetherAcquire s
  | .tetherAcqTimeout => Sys2Proof.Machine.execTetherAcqTimeout s
  | .hostPortLinkUp links => Sys2Proof.Machine.execHostPortLinkUp links s
  | .fabricBringUp => Sys2Proof.Machine.execFabricBringUp s
  | .envelopeInstantiation => Sys2Proof.Machine.execEnvelopeInstantiation s
  | .trainTimeout p => Sys2Proof.Machine.execTrainTimeout p s
  | .journalAppend => Sys2Proof.Machine.execJournalAppend s
  | .stagingWrite p off data => Sys2Proof.Machine.execStagingWrite p off data s
  | .stageOpen p => Sys2Proof.Machine.execStageOpen p s
  | .stageAuth p => Sys2Proof.Machine.execStageAuth p s
  | .stageAuthDone => Sys2Proof.Machine.execStageAuthDone s
  | .stageBoot p => Sys2Proof.Machine.execStageBoot p s
  | .commit p => Sys2Proof.Machine.execCommit p s
  | .commitEnd good => Sys2Proof.Machine.execCommitEnd good s
  | .hostlossWaitExpiry fn => Sys2Proof.Machine.execHostlossWaitExpiry fn s
  | .tickEdge cycles ref10m => Sys2Proof.Machine.execTickEdge cycles ref10m s
  | .linkDelayExchange ofs => Sys2Proof.Machine.execLinkDelayExchange ofs s
  | .deadlineMiss cmd id => Sys2Proof.Machine.execDeadlineMiss cmd id s
  | .elect p => Sys2Proof.Machine.execElect p s
  | .electionComplete => Sys2Proof.Machine.execElectionComplete s
  | .ppsEdge => Sys2Proof.Machine.execPpsEdge s
  | .referenceAbsent pps => Sys2Proof.Machine.execReferenceAbsent pps s
  | .holdoverEntry => Sys2Proof.Machine.execHoldoverEntry s
  | .freeRunEntry => Sys2Proof.Machine.execFreeRunEntry s
  | .syncRegained => Sys2Proof.Machine.execSyncRegained s
  | .stepGo p => Sys2Proof.Machine.execStepGo p s
  | .registerWrite p fn off w => Sys2Proof.Machine.execRegisterWrite p fn off w s
  | .countRead p fn off wide tag => Sys2Proof.Machine.execCountRead p fn off wide tag s
  | .faultRecordRead p fn word wide tag => Sys2Proof.Machine.execFaultRecordRead p fn word wide tag s
  | .ctxFaultRead p hi wide tag => Sys2Proof.Machine.execCtxFaultRead p hi wide tag s
  | .mpReqCredit p => Sys2Proof.Machine.execMpReqCredit p s
  | .mpWdCredit p => Sys2Proof.Machine.execMpWdCredit p s
  | .mpResponse p tag b => Sys2Proof.Machine.execMpResponse p tag b s
  | .mpTimeout p tag => Sys2Proof.Machine.execMpTimeout p tag s
  | .narrowResponse p tag w => Sys2Proof.Machine.execNarrowResponse p tag w s
  | .trainDone p pass gib failing => Sys2Proof.Machine.execTrainDone p pass gib failing s
  | .laneFail p lane => Sys2Proof.Machine.execLaneFail p lane s
  | .mpQuiesced p => Sys2Proof.Machine.execMpQuiesced p s
  | .bistDone p pass => Sys2Proof.Machine.execBistDone p pass s
  | .ctrlError p code => Sys2Proof.Machine.execCtrlError p code s
  | .keyAck p => Sys2Proof.Machine.execKeyAck p s
  | .ilvPublish => Sys2Proof.Machine.execIlvPublish s
  | .load p h => Sys2Proof.Machine.execLoad p h s
  | .store p h data => Sys2Proof.Machine.execStore p h data s
  | .tileRead p h t => Sys2Proof.Machine.execTileRead p h t s
  | .tileWrite p h t => Sys2Proof.Machine.execTileWrite p h t s
  | .tileWriteData p core engine tag data => Sys2Proof.Machine.execTileWriteData p core engine tag data s
  | .atomic p h op bit6 noret operand compare => Sys2Proof.Machine.execAtomic p h op bit6 noret operand compare s
  | .release p h => Sys2Proof.Machine.execRelease p h s
  | .acquire p h => Sys2Proof.Machine.execAcquire p h s
  | .vc0FenceSignal p h d => Sys2Proof.Machine.execVc0FenceSignal p h d s
  | .vc0FenceWait p h d => Sys2Proof.Machine.execVc0FenceWait p h d s
  | .vc0Alloc p h size alignLog2 flags => Sys2Proof.Machine.execVc0Alloc p h size alignLog2 flags s
  | .vc0Free p h object => Sys2Proof.Machine.execVc0Free p h object s
  | .vc0Reduce p h id chunk first n rsvdZero elements => Sys2Proof.Machine.execVc0Reduce p h id chunk first n rsvdZero elements s
  | .completionReport p core token resume => Sys2Proof.Machine.execCompletionReport p core token resume s
  | .cfCreditReturn p mask => Sys2Proof.Machine.execCfCreditReturn p mask s
  | .cfCreditTimeout p vc => Sys2Proof.Machine.execCfCreditTimeout p vc s
  | .coreError c => Sys2Proof.Machine.execCoreError c s
  | .coreQuiesced c => Sys2Proof.Machine.execCoreQuiesced c s
  | .coreResetReply c ok => Sys2Proof.Machine.execCoreResetReply c ok s
  | .coreBistReply c ok => Sys2Proof.Machine.execCoreBistReply c ok s
  | .mgmtRequest m => Sys2Proof.Machine.execMgmtRequest m s
  | .sensorSample power n v => Sys2Proof.Machine.execSensorSample power n v s
  | .sensorStale power n => Sys2Proof.Machine.execSensorStale power n s
  | .tapInstruction t => Sys2Proof.Machine.execTapInstruction t s
  | .configRequest p fn r => Sys2Proof.Machine.execConfigRequest p fn r s
  | .functionLevelReset fn p => Sys2Proof.Machine.execFunctionLevelReset fn p s
  | .flrComplete fn => Sys2Proof.Machine.execFlrComplete fn s
  | .vfEnableChange p on num => Sys2Proof.Machine.execVfEnableChange p on num s
  | .priEnableWrite fn p on => Sys2Proof.Machine.execPriEnableWrite fn p on s
  | .powerStateChange fn p hot => Sys2Proof.Machine.execPowerStateChange fn p hot s
  | .msixTableWrite p fn vec dw v => Sys2Proof.Machine.execMsixTableWrite p fn vec dw v s
  | .submitDoorbell p fn slot w => Sys2Proof.Machine.execSubmitDoorbell p fn slot w s
  | .completionDoorbell p fn slot w => Sys2Proof.Machine.execCompletionDoorbell p fn slot w s
  | .rillWrite p fn slot off data => Sys2Proof.Machine.execRillWrite p fn slot off data s
  | .hostWindowRead p fn off len tag => Sys2Proof.Machine.execHostWindowRead p fn off len tag s
  | .hostWindowWrite p fn off data => Sys2Proof.Machine.execHostWindowWrite p fn off data s
  | .hostWindowAtomic p fn off kind width operand compare tag => Sys2Proof.Machine.execHostWindowAtomic p fn off kind width operand compare tag s
  | .windowReadLate p fn tag => Sys2Proof.Machine.execWindowReadLate p fn tag s
  | .placementWrite p off pasid data => Sys2Proof.Machine.execPlacementWrite p off pasid data s
  | .placementRead p len atomic tag => Sys2Proof.Machine.execPlacementRead p len atomic tag s
  | .doeRequest p r => Sys2Proof.Machine.execDoeRequest p r s
  | .ideIntegrityFailure p => Sys2Proof.Machine.execIdeIntegrityFailure p s
  | .atsCompletion p tag r => Sys2Proof.Machine.execAtsCompletion p tag r s
  | .atsInvalidateRequest p fn pasid page pages itag => Sys2Proof.Machine.execAtsInvalidateRequest p fn pasid page pages itag s
  | .invalidateCompletion p itag => Sys2Proof.Machine.execInvalidateCompletion p itag s
  | .prgSend => Sys2Proof.Machine.execPrgSend s
  | .prgResponse p fn idx r => Sys2Proof.Machine.execPrgResponse p fn idx r s
  | .priTimeout fn idx => Sys2Proof.Machine.execPriTimeout fn idx s
  | .completion p tag data ep => Sys2Proof.Machine.execCompletion p tag data ep s
  | .flushCompletion p tag => Sys2Proof.Machine.execFlushCompletion p tag s
  | .completionTimeout p tag => Sys2Proof.Machine.execCompletionTimeout p tag s
  | .dlDown p => Sys2Proof.Machine.execDlDown p s
  | .hotReset p => Sys2Proof.Machine.execHotReset p s
  | .replayComplete lost fn => Sys2Proof.Machine.execReplayComplete lost fn s
  | .linkRecovery p => Sys2Proof.Machine.execLinkRecovery p s
  | .bucketMove fn b => Sys2Proof.Machine.execBucketMove fn b s
  | .aspmL1Entry p => Sys2Proof.Machine.execAspmL1Entry p s
  | .l0pRequest p => Sys2Proof.Machine.execL0pRequest p s
  | .pmeResend fn p => Sys2Proof.Machine.execPmeResend fn p s
  | .vecAlloc p v => Sys2Proof.Machine.execVecAlloc p v s
  | .hdmMapWrite p n w => Sys2Proof.Machine.execHdmMapWrite p n w s
  | .cxlMemRequest p dec a tag op => Sys2Proof.Machine.execCxlMemRequest p dec a tag op s
  | .h2dSnoop p addr kind => Sys2Proof.Machine.execH2dSnoop p addr kind s
  | .hostGo p addr st data => Sys2Proof.Machine.execHostGo p addr st data s
  | .bisnpResponse p line shared => Sys2Proof.Machine.execBisnpResponse p line shared s
  | .biTimeout p line => Sys2Proof.Machine.execBiTimeout p line s
  | .adminEnable p fn => Sys2Proof.Machine.execAdminEnable p fn s
  | .nop q h op => Sys2Proof.Machine.execNop q h op s
  | .dispatch q h entry args cores first items arg0 => Sys2Proof.Machine.execDispatch q h entry args cores first items arg0 s
  | .copy q h src dst len srcHint dstHint => Sys2Proof.Machine.execCopy q h src dst len srcHint dstHint s
  | .fill q h dst len pattern hint => Sys2Proof.Machine.execFill q h dst len pattern hint s
  | .inlineWrite q h dst len hint data => Sys2Proof.Machine.execInlineWrite q h dst len hint data s
  | .convert q h src dst count srcFmt dstFmt round flags srKey => Sys2Proof.Machine.execConvert q h src dst count srcFmt dstFmt round flags srKey s
  | .reduce q h src dst count fmt op mode rsvd plan => Sys2Proof.Machine.execReduce q h src dst count fmt op mode rsvd plan s
  | .fenceSignal q h fence value => Sys2Proof.Machine.execFenceSignal q h fence value s
  | .fenceWait q h fence target timeout => Sys2Proof.Machine.execFenceWait q h fence target timeout s
  | .alloc q h size alignLog2 flags => Sys2Proof.Machine.execAlloc q h size alignLog2 flags s
  | .free q h object => Sys2Proof.Machine.execFree q h object s
  | .query q h item index => Sys2Proof.Machine.execQuery q h item index s
  | .ctxCreate q h pasid ptRoot defClass => Sys2Proof.Machine.execCtxCreate q h pasid ptRoot defClass s
  | .ctxDestroy q h ctx => Sys2Proof.Machine.execCtxDestroy q h ctx s
  | .ctxResume q h ctx => Sys2Proof.Machine.execCtxResume q h ctx s
  | .ctxReclaim q h index => Sys2Proof.Machine.execCtxReclaim q h index s
  | .queueCreate q h ctx ring cpl k fetchMaxLog2 vector prio => Sys2Proof.Machine.execQueueCreate q h ctx ring cpl k fetchMaxLog2 vector prio s
  | .queueDestroy q h queue => Sys2Proof.Machine.execQueueDestroy q h queue s
  | .queueStop q h queue => Sys2Proof.Machine.execQueueStop q h queue s
  | .queueStart q h queue => Sys2Proof.Machine.execQueueStart q h queue s
  | .fenceCreate q h ctx initial scope mode => Sys2Proof.Machine.execFenceCreate q h ctx initial scope mode s
  | .fenceDestroy q h fence => Sys2Proof.Machine.execFenceDestroy q h fence s
  | .regionRegister q h object offset len rights => Sys2Proof.Machine.execRegionRegister q h object offset len rights s
  | .regionRevoke q h region => Sys2Proof.Machine.execRegionRevoke q h region s
  | .rillBind q h slot core ctx => Sys2Proof.Machine.execRillBind q h slot core ctx s
  | .rillUnbind q h slot => Sys2Proof.Machine.execRillUnbind q h slot s
  | .abortTimeout token => Sys2Proof.Machine.execAbortTimeout token s
  | .destructionEnd c => Sys2Proof.Machine.execDestructionEnd c s
  | .quarantineEnd n => Sys2Proof.Machine.execQuarantineEnd n s
  | .walkComplete c page => Sys2Proof.Machine.execWalkComplete c page s
  | .peerMapFill c page => Sys2Proof.Machine.execPeerMapFill c page s
  | .filterSweepDone n => Sys2Proof.Machine.execFilterSweepDone n s
  | .windowSlide p fn w => Sys2Proof.Machine.execWindowSlide p fn w s
  | .classWrite p n w => Sys2Proof.Machine.execClassWrite p n w s
  | .pieceAdmission res late => Sys2Proof.Machine.execPieceAdmission res late s
  | .fenceRead p fn w => Sys2Proof.Machine.execFenceRead p fn w s
  | .fenceReset p fn w => Sys2Proof.Machine.execFenceReset p fn w s
  | .setMirror p fn w => Sys2Proof.Machine.execSetMirror p fn w s
  | .clearMirror p fn w => Sys2Proof.Machine.execClearMirror p fn w s
  | .arm p fn w => Sys2Proof.Machine.execArm p fn w s
  | .disarm p fn w => Sys2Proof.Machine.execDisarm p fn w s
  | .fenceTimeout n => Sys2Proof.Machine.execFenceTimeout n s
  | .mirrorWriteAccepted n => Sys2Proof.Machine.execMirrorWriteAccepted n s
  | .moderationDelay fn vec => Sys2Proof.Machine.execModerationDelay fn vec s
  | .rdShared h => Sys2Proof.Machine.execRdShared h s
  | .rdOwn h => Sys2Proof.Machine.execRdOwn h s
  | .upgrade h => Sys2Proof.Machine.execUpgrade h s
  | .wrBack h => Sys2Proof.Machine.execWrBack h s
  | .evictClean h => Sys2Proof.Machine.execEvictClean h s
  | .rspI h => Sys2Proof.Machine.execRspI h s
  | .rspS h => Sys2Proof.Machine.execRspS h s
  | .rspIDirty h => Sys2Proof.Machine.execRspIDirty h s
  | .rspSDirty h => Sys2Proof.Machine.execRspSDirty h s
  | .dirtyData h data bad => Sys2Proof.Machine.execDirtyData h data bad s
  | .wbData h data bad => Sys2Proof.Machine.execWbData h data bad s
  | .cmpAck h => Sys2Proof.Machine.execCmpAck h s
  | .flushDone h => Sys2Proof.Machine.execFlushDone h s
  | .snpTimeout a => Sys2Proof.Machine.execSnpTimeout a s
  | .flushTimeout a => Sys2Proof.Machine.execFlushTimeout a s
  | .reclaimSweepEnd a => Sys2Proof.Machine.execReclaimSweepEnd a s
  | .agentEnable p w => Sys2Proof.Machine.execAgentEnable p w s
  | .rangeWrite p n w => Sys2Proof.Machine.execRangeWrite p n w s
  | .biasAction p fn w => Sys2Proof.Machine.execBiasAction p fn w s
  | .biasFlipEnd page => Sys2Proof.Machine.execBiasFlipEnd page s
  | .retire p v => Sys2Proof.Machine.execRetire p v s
  | .narrowGo p write => Sys2Proof.Machine.execNarrowGo p write s
  | .bucketCopyDone => Sys2Proof.Machine.execBucketCopyDone s
  | .partialRecord h bytes => Sys2Proof.Machine.execPartialRecord h bytes s
  | .chunkSend id k => Sys2Proof.Machine.execChunkSend id k s
  | .chunkLateTimeout id k => Sys2Proof.Machine.execChunkLateTimeout id k s
  | .frame l f => Sys2Proof.Machine.execFrame l f s
  | .linkRetrain l => Sys2Proof.Machine.execLinkRetrain l s
  | .retrainTimeout l => Sys2Proof.Machine.execRetrainTimeout l s
  | .laneError l bad => Sys2Proof.Machine.execLaneError l bad s
  | .flTrainDone l txlat rxlat => Sys2Proof.Machine.execFlTrainDone l txlat rxlat s
  | .bringUpTimeout l => Sys2Proof.Machine.execBringUpTimeout l s
  | .flkRestore p v => Sys2Proof.Machine.execFlkRestore p v s
  | .linkInit l plane mask credits => Sys2Proof.Machine.execLinkInit l plane mask credits s
  | .fabricWrite h pa data => Sys2Proof.Machine.execFabricWrite h pa data s
  | .fabricRead h pa n => Sys2Proof.Machine.execFabricRead h pa n s
  | .fabricAtomic h pa o => Sys2Proof.Machine.execFabricAtomic h pa o s
  | .fenceOp h signal d scope core engine => Sys2Proof.Machine.execFenceOp h signal d scope core engine s
  | .fenceDone h eseq v st => Sys2Proof.Machine.execFenceDone h eseq v st s
  | .rdata h eseq st data => Sys2Proof.Machine.execRdata h eseq st data s
  | .aresp h eseq st old => Sys2Proof.Machine.execAresp h eseq st old s
  | .eack h a1 a2 a3 => Sys2Proof.Machine.execEack h a1 a2 a3 s
  | .hello l digest chip domain quality root priority claim => Sys2Proof.Machine.execHello l digest chip domain quality root priority claim s
  | .helloSend l => Sys2Proof.Machine.execHelloSend l s
  | .announce l chip plane chips => Sys2Proof.Machine.execAnnounce l chip plane chips s
  | .sync l m => Sys2Proof.Machine.execSync l m s
  | .delay l t2 t3 t4 => Sys2Proof.Machine.execDelay l t2 t3 t4 s
  | .sessionInit l src => Sys2Proof.Machine.execSessionInit l src s
  | .sessionReply l src digest ok => Sys2Proof.Machine.execSessionReply l src digest ok s
  | .sessionFinish l src digest ok => Sys2Proof.Machine.execSessionFinish l src digest ok s
  | .sessionDone l src => Sys2Proof.Machine.execSessionDone l src s
  | .e2eResend c => Sys2Proof.Machine.execE2eResend c s
  | .rekey c => Sys2Proof.Machine.execRekey c s
  | .fabricCreditTimeout l => Sys2Proof.Machine.execFabricCreditTimeout l s
  | .peerLostTimeout c => Sys2Proof.Machine.execPeerLostTimeout c s
  | .pathMove c => Sys2Proof.Machine.execPathMove c s
  | .create p w read => Sys2Proof.Machine.execCreate p w read s
  | .createScrubDone e => Sys2Proof.Machine.execCreateScrubDone e s
  | .remove p w => Sys2Proof.Machine.execRemove p w s
  | .removalEnd e => Sys2Proof.Machine.execRemovalEnd e s
  | .update p w read => Sys2Proof.Machine.execUpdate p w read s
  | .coreBind p w => Sys2Proof.Machine.execCoreBind p w s
  | .peerSet p w => Sys2Proof.Machine.execPeerSet p w s
  | .peerClear p w => Sys2Proof.Machine.execPeerClear p w s
  | .memMove p w => Sys2Proof.Machine.execMemMove p w s
  | .moveCopied e => Sys2Proof.Machine.execMoveCopied e s
  | .memSwitch p w => Sys2Proof.Machine.execMemSwitch p w s
  | .memRelease p w => Sys2Proof.Machine.execMemRelease p w s
  | .memLen p w => Sys2Proof.Machine.execMemLen p w s
  | .pause p w => Sys2Proof.Machine.execPause p w s
  | .resume p w => Sys2Proof.Machine.execResume p w s
  | .dirtyStart p w => Sys2Proof.Machine.execDirtyStart p w s
  | .dirtyStop p w => Sys2Proof.Machine.execDirtyStop p w s
  | .dirtyHeadWrite p v => Sys2Proof.Machine.execDirtyHeadWrite p v s
  | .zeroiseAll p v => Sys2Proof.Machine.execZeroiseAll p v s
  | .errorInput src c ctx env detail => Sys2Proof.Machine.execErrorInput src c ctx env detail s
  | .quietPeriod n => Sys2Proof.Machine.execQuietPeriod n s
  | .unitTest p u => Sys2Proof.Machine.execUnitTest p u s
  | .unitRetire p u => Sys2Proof.Machine.execUnitRetire p u s
  | .unitReturn p u => Sys2Proof.Machine.execUnitReturn p u s
  | .unitSubstitute p u => Sys2Proof.Machine.execUnitSubstitute p u s
  | .unitTestDone pass => Sys2Proof.Machine.execUnitTestDone pass s
  | .watchdogTimeout core => Sys2Proof.Machine.execWatchdogTimeout core s
  | .patrolScrub => Sys2Proof.Machine.execPatrolScrub s
  | .sluiceAnnounce p domain => Sys2Proof.Machine.execSluiceAnnounce p domain s
  | .sluiceResume p => Sys2Proof.Machine.execSluiceResume p s
  | .sluice l src t origin => Sys2Proof.Machine.execSluice l src t origin s
  | .sluiceAck l src t => Sys2Proof.Machine.execSluiceAck l src t s
  | .sluiceMark l src t a b c => Sys2Proof.Machine.execSluiceMark l src t a b c s
  | .resumeNotice l src r => Sys2Proof.Machine.execResumeNotice l src r s
  | .sluiceCaptureEnd => Sys2Proof.Machine.execSluiceCaptureEnd s
  | .sluiceResumeEdge => Sys2Proof.Machine.execSluiceResumeEdge s
  | .holdExpiry => Sys2Proof.Machine.execHoldExpiry s
  | .traceDump w => Sys2Proof.Machine.execTraceDump w s
  | .traceMark p w => Sys2Proof.Machine.execTraceMark p w s
  | .auditHeadWrite p w => Sys2Proof.Machine.execAuditHeadWrite p w s
  | .auditStallRelease => Sys2Proof.Machine.execAuditStallRelease s
  | .perstDeassert p => Sys2Proof.Machine.execPerstDeassert p s
  | .hostLinkTrained p t => Sys2Proof.Machine.execHostLinkTrained p t s
  | .hostL0pRequest p w => Sys2Proof.Machine.execHostL0pRequest p w s
  | .managerGroup => Sys2Proof.Machine.execManagerGroup s
  | .resultRecord h bytes => Sys2Proof.Machine.execResultRecord h bytes s
  | .coreOverdue c => Sys2Proof.Machine.execCoreOverdue c s
  | .rewriteDone e => Sys2Proof.Machine.execRewriteDone e s
  | .peerRemoval c => Sys2Proof.Machine.execPeerRemoval c s

end Sys2Proof.Machine
end

