-- ==== Sys2Proof/Machine/Step.lean ====
section
/-! DEFINITION. A step of the block: it takes the command at the front of its queue. -/
namespace Sys2Proof.Machine

/-- One step (log 3): the front command runs on the state with the queue's rest; on an empty queue the block idles, since
the tick edge is a command of its own. -/
def step (s : State) : Host.Outcome State Fault Refusal :=
  match s.pending with
  | [] => .next s
  | c :: rest => exec c { s with pending := rest }

/-- The state with the command that a word spells at the front of its queue; no word spells one (log 2). -/
def State.withFetchWord (s : State) (nbits w : Nat) : State :=
  match decodeTableWord nbits w with
  | none => s
  | some c => { s with pending := c :: s.pending }

end Sys2Proof.Machine
end

