-- ==== Sys2Proof/Machine/Views.lean ====
section
/-! DEFINITION. What a 64-bit read of a register slot returns (chapter 18): the stored fields, and the read-only fields
of every register table computed from the state that they show. The reads that clear what they return (R178, R248,
QUE_CTX_FAULT) have rows of their own; here they are seen without the clearing. -/
namespace Sys2Proof.Machine

/-! ### Building words -/

/-- The index of the instance of a register at an offset: first instance, number of instances, stride (R418). -/
def slotIx (off base n stride : Nat) : Option Nat :=
  if base ≤ off && off < base + n * stride && (off - base) % stride = 0 then some ((off - base) / stride) else none

/-- One of the two halves of a 128-bit register (R418). -/
def half128 (hi : Bool) (v : Nat) : Nat := if hi then v / 2 ^ 64 % 2 ^ 64 else v % 2 ^ 64

/-- A signed value in a field of n bits. -/
def asBits (n : Nat) (v : Int) : Nat := (v % (2 ^ n : Nat)).toNat

/-- The stored fields of a register (R9, R419): those with access RW and W1C. -/
def storedView (p key : Nat) (s : State) : Nat :=
  match regDesc key with
  | none => 0
  | some d => ((if isSel key then selGet p key s else regRaw key s) &&& BitVec.ofNat 64 (d.rw ||| d.w1c)).toNat

/-- The value of a port's selector (R419). -/
def selNum (p key : Nat) (s : State) : Nat := (selGet p key s).toNat

/-! ### Units in service -/

/-- Ballast units of a kind that stand in for others (R390). -/
def ballastUsed (kind : Nat) (s : State) : Nat := (s.weir.subst.filter fun e => e.1 / 128 == kind).length

/-- Units of a kind in service, a substituted ballast unit included (R421). -/
def unitsIn (kind : Nat) (s : State) : Nat :=
  ((List.range (unitCounts kind).1).filter fun i => (mget s.weir.units (unitKey kind i)).isNone).length + ballastUsed kind s

/-- Host ports in service of the host group of a port (Table 18-4). -/
def groupPorts (p : Nat) (s : State) : List Nat := (List.range 4).filter fun q => sameGroup p q s && linkUp q s

/-- GEN_CAP0 (Table 18-3). -/
def genCap0 (p : Nat) (s : State) : Nat :=
  0x7FFC + b2n ((groupPorts p s).any fun q => cxlMemOn q s) + 2 * b2n ((groupPorts p s).any fun q => cxlCacheOn q s)

/-- GEN_CAP1 (Table 18-4): before phase 2 has ended no unit has been brought into service. -/
def genCap1 (p : Nat) (s : State) : Nat :=
  let n (kind : Nat) : Nat := if s.spl.ended.contains 2 then unitsIn kind s else 0
  regWord [(n 0, 0, 6), (n 1, 6, 7), (n 2, 13, 7), (n 3, 20, 6), (n 4, 26, 5), ((mpInService s).length, 31, 7),
    ((linksUp s).length, 38, 6), (if s.spl.ended.contains 5 then (groupPorts p s).length else 0, 44, 3)]

/-! ### The function page (Table 18-2) -/

/-- The registers of Table 2-8 on the function page, by their order there. -/
def tthPage (i : Nat) (s : State) : Nat :=
  match i with
  | 0 => tthStatus s
  | 1 => s.time.now.toNat
  | 2 => tick s
  | 3 => regWord [(s.time.cycPerTick, 0, 12)]
  | 4 => regWord [(s.time.rootChip % 2 ^ 13, 0, 13), (s.time.rootPriority, 16, 8)]
  | 5 => asBits 32 s.time.offset
  | 6 => regWord [(s.time.stepCount, 0, 16)]
  | 7 => asBits 64 s.time.stepOffset
  | _ => 0

/-- SPL_STATUS (Table 4-11). -/
def splStatus (s : State) : Nat :=
  regWord [(s.spl.phase, 0, 4), (b2n s.spl.recovery, 4, 1), (b2n s.spl.staged, 5, 1), (b2n s.spl.nvm8d, 6, 1), (s.spl.cause, 8, 8)]

/-- GEN_FUNC_STATUS of a function through a port (R102, Table 5-9). -/
def genFuncStatus (p fn : Nat) (s : State) : Nat :=
  regWord [(b2n (fn ≠ 0 && boundAt fn p s), 0, 1), ((func fn s).gen % 2 ^ 16, 16, 16)]

/-- QUE_ADMIN_STATUS (Table 6-14). -/
def adminStatus (fn : Nat) (s : State) : Nat :=
  regWord [(b2n (bit (regRaw (fnKey fn fQUE_ADMIN_CTRL) s) 0
      && s.que.queues.any fun q => q.2.fn == fn && q.2.ctx.isNone && q.2.st == .active), 0, 1),
    (b2n (func fn s).adminErr, 1, 1), ((s.que.ctxs.filter fun c => c.2.fn == fn).length, 16, 16)]

/-- A function's own counter (R403): exact in the snapshot for the physical function, coarse for a virtual one. -/
def fnCounter (fn n : Nat) (s : State) : Nat :=
  if fn = 0 then mgetD s.obs.snap (cntKey 0 n 0) 0 else mgetD s.obs.coarse (cntKey 0 n fn) 0

/-- The envelope that a function is bound to. -/
def fnEnv (fn : Nat) (s : State) : Option Env := (func fn s).env.bind fun e => mget s.env.envs e

/-- ENV_FN_INFO (Table 15-15). -/
def fnInfo (fn : Nat) (s : State) : Nat :=
  match fnEnv fn s with
  | none => 0
  | some v => regWord [(v.cores.length, 0, 10), (v.peers.length + 1, 10, 14), (v.llen, 24, 13), (v.rill.length, 37, 11)]

/-- A function's own context that it selects through a port, as SYN_FN_MISMATCH reads it (R242). -/
def fnMismatch (p fn : Nat) (s : State) : Nat :=
  match mget s.que.ctxs (selNum p (fnKey fn fSYN_CTX_SEL) s) with
  | some c => if c.fn = fn then c.mismatches else 0
  | none => 0

/-- The read-only fields of a register of a function page (Table 18-2). -/
def pageView (p fn off : Nat) (s : State) : Nat :=
  let f := func fn s
  match slotIx off 0x400 8 8, slotIx off 0x28 7 8, slotIx off 0x2800 16 8, countBlock fn off with
  | some i, _, _, _ => tthPage i s
  | _, some i, _, _ => if fn = 0 then Config.publicKey identityKey % 2 ^ 392 / 2 ^ (64 * i) % 2 ^ 64 else 0
  | _, _, some i, _ => fnCounter fn i s
  | _, _, _, some (key, o) => countWord key o 4 s
  | _, _, _, _ =>
    if off = 0 then 0x010402
    else if off = 0x8 then genCap0 p s
    else if off = 0x10 then genCap1 p s
    else if off = 0x18 then genFuncStatus p fn s
    else if off = 0x20 then b2n (fn = 0 && s.obs.idValid)
    else if off = 0x480 then splStatus s
    else if off = 0x1020 then adminStatus fn s
    else if off = 0x1028 then
      regWord [(f.dbDropped, 0, 16), (f.dbStale, 16, 16), (f.rillMerged, 32, 16), (f.rillDropped, 48, 16)]
    else if off = 0x1400 then (faultWords f.fault).1.toNat
    else if off = 0x1408 then (mgetD s.reg.latch (4 * fn + p) (faultWords f.fault)).2.toNat
    else if off = 0x1810 then
      regWord [(b2n f.winActive, 0, 1), (b2n f.winError, 1, 1), (f.winDropped, 16, 16), (f.winLate, 32, 16), (f.winFaults, 48, 16)]
    else if off = 0x2018 then
      regWord [(mgetD s.que.actStatus fn 0, 0, 16), (b2n (mget s.que.actBusy fn).isSome, 16, 1),
        (b2n (s.que.actOverrun.contains fn), 17, 1), (mgetD s.que.actState fn 0, 18, 3)]
    else if off = 0x2020 then (mgetD s.que.actValue fn 0).toNat
    else if off = 0x2030 then regWord [(fnMismatch p fn s, 0, 32)]
    else if off = 0x2410 then
      let a := mgetD s.coh.acts fn {}
      regWord [(statusCode a.status, 0, 16), (b2n a.busy, 16, 1), (a.done, 17, 10)]
    else if off = 0x2880 then (if fn = 0 then s.obs.snapTick else s.obs.coarseTick) % 2 ^ 64
    else if off = 0x2C00 then fnInfo fn s
    else 0

/-! ### The manager windows (Table 18-5) -/

def tthView (off : Nat) (s : State) : Nat :=
  match slotIx off 0x10100 32 8 with
  | some n => regWord [(mgetD s.time.linkDelay n 0, 0, 24), (mgetD s.time.linkMissed n 0, 24, 8)]
  | none => 0

/-- A peer table entry (Table 4-10). -/
def peerWord (c : Nat) (s : State) : Nat :=
  match mget s.spl.peers c with
  | none => 0
  | some x =>
    let st : Nat := match x.st with
      | .absent => 0 | .seen => 1 | .active => 2 | .lost => 3 | .conflict => 4
    regWord [(c, 0, 13), (st, 13, 3), (x.linkMask, 16, 32), (x.hops, 48, 3), (b2n x.rootCapable, 51, 1), (x.lastSeen, 64, 64)]

/-- SPL_STAGE_STATUS (Table 4-13). -/
def stageStatus (s : State) : Nat :=
  let st : Nat := match s.spl.stage with
    | .closed => 0 | .opened => 1 | .authenticating => 2 | .authenticated => 3
  regWord [(st, 0, 2), (b2n s.spl.stageOk, 2, 1), (b2n s.spl.commitBusy, 3, 1), (s.spl.stageCause, 8, 8), (s.spl.stageDropped, 16, 16)]

def splView (p off : Nat) (s : State) : Nat :=
  match slotIx off 0x14040 7 8 with
  | some n => (mgetD s.spl.phaseEnd (n + 1) 0).toNat
  | none =>
    if off = 0x14008 then stageStatus s
    else if off = 0x14018 then s.spl.img.serial.toNat
    else if off = 0x14020 then regWord [(s.spl.live, 0, 16), (s.spl.rejected, 16, 16)]
    else if off = 0x14030 || off = 0x14038 then half128 (off = 0x14038) (peerWord (selNum p rSPL_PEER_SEL s) s)
    else 0

/-- EPT_PORT_STATUSn (Table 5-7). -/
def portStatus (n : Nat) (s : State) : Nat :=
  let h := hport n s
  let l : Nat := match h.lstate with
    | .l0 => 0 | .l0p => 1 | .l1 => 2 | .l2 => 3
  let d : Nat := if (mgetD s.ep.insts n {}).cold then 2 else if instD0 0 n s then 0 else 1
  regWord [(h.link, 0, 2), (h.width, 2, 2), (h.rate, 4, 3), (b2n (h.cxl ≠ 0), 7, 1), (l, 8, 2), (b2n (ideUp n s), 10, 1),
    (b2n (mgrPort n s), 11, 1), (d, 12, 2), (h.hostId, 16, 16)]

/-- EPT_FUNC_STATUS of the selected function (Table 5-9). -/
def funcStatus (f : Nat) (s : State) : Nat :=
  if 256 < f then 0
  else regWord [(b2n (func f s).env.isSome, 0, 1), (ofBits ((List.range 4).filter fun q => instAt f q s), 1, 4),
    (ofBits ((List.range 4).filter fun q => usable f q s), 5, 4), (b2n (func f s).flrBusy, 9, 1), ((func f s).gen % 2 ^ 16, 16, 16)]

def eptView (p off : Nat) (s : State) : Nat :=
  let f := selNum p rEPT_FUNC_SEL s
  match slotIx off 0x18000 4 8 with
  | some n => portStatus n s
  | none =>
    if off = 0x18030 then funcStatus f s
    else if off = rEPT_VEC_ALLOC then
      regWord [(if 256 < f then 0 else (func f s).vectors, 0, 12), (b2n s.ep.vecRefused, 12, 1), (63488 - vecUsed s, 16, 16)]
    else if off = 0x18040 then regWord [(s.ep.lateCpl, 0, 32)]
    else 0

/-- QUE_CTX_STATUS of the selected context (Table 6-16). -/
def ctxStatus (c : Nat) (s : State) : Nat :=
  let gen := slotGen s.que.ctxSlots c
  match mget s.que.ctxs c with
  | none => regWord [(gen, 32, 32)]
  | some x =>
    let st : Nat := match x.st with
      | .active => 1 | .faulted => 2 | .hostPathLost => 3 | .destroying => 4
    regWord [(st, 0, 3), (x.fn, 3, 9), ((s.que.queues.filter fun q => q.2.ctx == some c).length, 12, 7), (gen, 32, 32)]

def queView (p off : Nat) (s : State) : Nat :=
  let c := selNum p rQUE_CTX_SEL s
  if off = 0x1C008 then
    regWord [(freeSlots 4096 s.que.ctxSlots, 0, 13), (freeSlots 65536 s.que.queSlots, 16, 17), (freeSlots 16384 s.que.fenSlots, 33, 15)]
  else if off = 0x1C010 then regWord [(freeSlots 262144 s.que.objSlots, 0, 19), (freeSlots 65536 s.que.regSlots, 32, 17)]
  else if off = 0x1C018 then regWord [(retiredCount s, 0, 32)]
  else if off = 0x1C028 then ctxStatus c s
  else if off = 0x1C030 then
    match mget s.que.ctxs c with
    | some x => x.fault.toNat
    | none => 0
  else 0

/-- An IOTLB entry (Table 7-4). -/
def tlbWord (e : TlbEnt) : Nat :=
  1 + regWord [(e.src, 1, 2), (e.size, 3, 2), (b2n e.r, 5, 1), (b2n e.w, 6, 1), (b2n e.a, 7, 1), (e.ctx, 8, 12),
    (if e.src = 1 then e.pasid else 0, 20, 20), (e.va / 4096 % 2 ^ 45, 40, 45), (e.pa / 4096 % 2 ^ 45, 85, 45)]

/-- The L2 entry that TRN_TLB_SEL names through a port (Table 7-13). -/
def tlbSelected (p : Nat) (s : State) : Nat :=
  let v := selGet p rTRN_TLB_SEL s
  match s.tr.l2.find? fun e => e.slice == fld v 0 6 && e.set == fld v 8 11 && e.way == fld v 19 3 with
  | some e => tlbWord e
  | none => 0

def trnView (p off : Nat) (s : State) : Nat :=
  match slotIx off 0x20100 32 8, slotIx off 0x20030 3 8 with
  | some n, _ => mgetD s.tr.sliceMap n n
  | _, some i => tlbSelected p s / 2 ^ (64 * i) % 2 ^ 64
  | _, _ =>
    if off = 0x20008 then
      regWord [(unitsIn 0 s, 0, 6), (ballastUsed 0 s, 6, 2), (s.tr.filter.length, 8, 9), (s.tr.ats.length, 32, 13), (priOut s, 48, 11)]
    else if off = 0x20020 then regWord [(s.tr.priLate, 0, 32)]
    else 0

/-- DPA_PORT_STATEn (Table 8-10). -/
def portState (n : Nat) (s : State) : Nat :=
  let h := hport n s
  let st : Nat := match h.st with
    | .down => 0 | .up => 1 | .suspect => 2
  regWord [(st, 0, 2), (b2n (flushCovers n 0 s), 2, 1), (ceilDiv (replayBytes n s) 64, 4, 15), (h.replays, 32, 16)]

def dpaView (off : Nat) (s : State) : Nat :=
  match slotIx off 0x24040 4 8, slotIx off 0x24200 16 8, slotIx off 0x24300 16 8 with
  | some n, _, _ => portState n s
  | _, some n, _ => regWord [(mgetD s.ep.gmiss n 0, 0, 32)]
  | _, _, some n => regWord [(mgetD s.ep.dlmiss n 0, 0, 32)]
  | _, _, _ =>
    if off = 0x24010 then b2n s.ep.classRefused
    else if off = 0x24020 then regWord [(s.ep.badKey, 0, 32)]
    else if off = 0x24808 then regWord [(unitsIn 3 s, 0, 6), (ballastUsed 3 s, 6, 2)]
    else 0

/-- A fence record (Table 10-1), 512 bits; a FREE slot reads 0. -/
def fenceRecord (n : Nat) (s : State) : Nat :=
  match mget s.que.fences n with
  | none => 0
  | some f =>
    let low := regWord [(f.value.toNat, 0, 64), (fenceCode f.st, 64, 3), (b2n f.compat, 67, 1), (f.scope, 68, 3), (b2n f.mirror.isSome, 71, 1),
      (f.ctx, 72, 12), (f.cause, 84, 3), (b2n f.armed, 87, 1), (f.sig.chip, 88, 13), (f.sig.core, 101, 9), (f.sig.engine, 110, 2),
      (f.sig.scope, 112, 3)]
    let high := regWord [(f.mirror.getD 0, 0, 57), (f.stale, 64, 16), ((s.que.waits.filter fun w => w.2.fence == n).length, 80, 16),
      (f.armVector, 96, 11), (f.armTarget.toNat, 128, 64)]
    low + 2 ^ 128 * high

def synView (p off : Nat) (s : State) : Nat :=
  match slotIx off 0x28040 8 8 with
  | some i => fenceRecord (selNum p rSYN_FENCE_SEL s) s / 2 ^ (64 * i) % 2 ^ 64
  | none =>
    if off = 0x28018 then
      regWord [(s.que.fences.length, 0, 15), ((s.que.waits.filter fun w => w.2.registered).length, 32, 17)]
    else 0

/-- COH_AGENT_STATUS of the selected agent (Table 11-15). -/
def agentStatus (a : Nat) (s : State) : Nat :=
  let x := agentRec a s
  let st : Nat := match x.st with
    | .absent => 0 | .active => 1 | .flushing => 2 | .dead => 3
  regWord [(st, 0, 2), (x.cause, 2, 3),
    ((s.coh.dir.filter fun e => e.2.owner == some a || e.2.sharers.contains a).length, 8, 24)]

def cohView (p off : Nat) (s : State) : Nat :=
  let a := selNum p rCOH_AGENT_SEL s
  if off = rCOH_AGENT_CTL then
    regWord [(b2n (agentRec a s).en, 0, 1), ((agentRec a s).ctx, 12, 12), ((agentRec a s).gen % 2 ^ 32, 32, 32)]
  else if off = 0x2C020 then agentStatus a s
  else if off = 0x2C028 then regWord [(s.coh.recalls, 0, 32)]
  else if off = 0x2C030 then
    regWord [(s.coh.dir.length, 0, 24), ((s.coh.dir.filter fun e => e.2.coarse).length, 24, 16)]
  else if off = 0x2C038 then regWord [(s.coh.reclaimed, 0, 16), (s.coh.reclaimLines, 16, 32)]
  else if off = 0x2C040 then regWord [(s.coh.hostOutside, 0, 32)]
  else 0

/-- RSVR_MEM.SHRINK_GIB (R289): the least extent that a map-out of an in-service shrinkable port would leave. -/
def shrinkGib (s : State) : Nat :=
  let left (n : Nat) : Nat := ((shrunkTo n (afterMoves s) s s.rsvr.extent).map (·.1)).getD 0
  (((mpInService s).filter fun n => shrinkable n s).map left).foldl min s.rsvr.extent

def rsvrView (off : Nat) (s : State) : Nat :=
  match slotIx off 0x30800 256 8 with
  | some b =>
    let x := bucket b s
    regWord [(x.port, 0, 7), (b2n (s.rsvr.moves.any fun v => v.bucket == b), 7, 1), (x.slice, 8, 7), (x.base, 16, 36)]
  | none =>
    if off = 0x30008 then
      regWord [(unitsIn 1 s, 0, 7), (ballastUsed 1 s, 7, 3), (ceilDiv (lockUsed s) 1024, 32, 32)]
    else if off = 0x30010 then regWord [(s.rsvr.extent, 0, 15), (shrinkGib s, 16, 15)]
    else if off = 0x30018 then regWord [(s.rsvr.outside, 0, 32)]
    else 0

/-- Spare lanes of a memory port that no repair uses (R294). -/
def sparesLeft (n : Nat) (s : State) : Nat :=
  let m := s.spl.laneMap.filter fun e => e.port == n
  ((m.filter fun e => e.kind == 1).filter fun e => !(m.any fun x => x.kind == 0 && x.spare == e.spare)).length

/-- MPT_STATUSn (Table 12-9). -/
def mptStatus (n : Nat) (s : State) : Nat :=
  let m := mport n s
  let st : Nat := match m.st with
    | .untrained => 0 | .outOfService => 0 | .training => 1 | .inService => 2 | .quiescing => 3 | .quiesced => 3 | .bist => 3
    | .failing => 4 | .mappedOut => 5
  let e := s.rsvr.extent
  regWord [(st, 0, 3), (m.gib, 3, 11), ((bucketsOn n s.rsvr.buckets).length, 14, 3), (b2n (shrinkable n s), 17, 1),
    (b2n (m.st == .inService && 0 < e && extBlocks e ≤ freeGran n e s.rsvr.buckets s), 18, 1), (sparesLeft n s, 19, 5),
    (m.repaired, 24, 8), (m.ce, 32, 16), (m.ue, 48, 16)]

def mptView (off : Nat) (s : State) : Nat :=
  match slotIx off 0x34400 72 8 with
  | some n => mptStatus n s
  | none => if off = 0x34030 then regWord [(s.rsvr.nrStatus, 0, 16), (b2n s.rsvr.nrBusy, 16, 1)] else 0

def cisView (off : Nat) (s : State) : Nat :=
  match slotIx off 0x38400 76 8 with
  | some n => laneOf n s
  | none =>
    if off = 0x38008 then
      regWord [(unitsIn 2 s, 0, 7), (ballastUsed 2 s, 7, 3), ((s.cis.reds.filter fun r => !r.2.isOver).length, 32, 16),
        (((s.cis.reds.map fun r => (r.2.chunks.filter fun c => c.2.started && !c.2.released).length)).foldl (· + ·) 0, 48, 16)]
    else if off = 0x38018 then regWord [(s.cis.late, 0, 32)]
    else if off = 0x38020 then regWord [(s.cis.failed, 0, 32)]
    else if off = 0x38028 then regWord [(s.cis.mismatch, 0, 32)]
    else if off = 0x38030 then regWord [(s.cis.sat, 0, 32)]
    else 0

/-- FLK_STATUSn (Table 14-9). -/
def flkStatus (n : Nat) (s : State) : Nat :=
  let k := flink n s
  let st : Nat := match k.st with
    | .out => 0 | .training => 1 | .initialising => 2 | .up => 3 | .retraining => 4
  regWord [(st, 0, 3), (b2n ((bitsOf 8 k.mask).length == 4), 3, 1), (k.plane, 4, 5), (k.retrains, 16, 16),
    ((s.fab.peers.filter fun e => e.2.path == some n).length, 32, 14)]

/-- FLK_PATH of the peer that SPL_PEER_SEL selects (Table 14-12). -/
def flkPath (c : Nat) (s : State) : Nat :=
  let x := fpeer c s
  regWord [(x.path.getD 0, 0, 5), (b2n (peerSt c s == .active && x.path.isSome), 5, 1), (unackedBytes x, 32, 32)]

def flkView (p off : Nat) (s : State) : Nat :=
  match slotIx off 0x3C100 32 8, slotIx off 0x3C200 32 8, slotIx off 0x3C300 32 8 with
  | some n, _, _ => flkStatus n s
  | _, some n, _ => regWord [((flink n s).fec, 0, 32)]
  | _, _, some n => regWord [((flink n s).frameErr, 0, 16), ((flink n s).naks, 16, 16)]
  | _, _, _ =>
    if off = 0x3C018 then regWord [(s.fab.authFail, 0, 32)]
    else if off = 0x3C020 then regWord [(s.fab.resent, 0, 32)]
    else if off = 0x3C028 then flkPath (selNum p rSPL_PEER_SEL s) s
    else 0

/-- ENV_INFO of an envelope (Table 15-13); a FREE one reads 0. -/
def envInfo (e : Nat) (s : State) : Nat :=
  match mget s.env.envs e with
  | none => 0
  | some v =>
    let st : Nat := match v.st with
      | .creating => 1 | .ready => 2 | .pausing => 3 | .paused => 4 | .removing => 5
    let mv : Nat := match v.move with
      | .idle => 0 | .copying => 1 | .mirrored => 2 | .switched => 3
    regWord [(st, 0, 3), (mv, 3, 2), (b2n v.rewritten, 5, 1), (v.vf, 7, 9), (v.tag, 16, 12), (v.kgen % 2 ^ 16, 32, 16),
      (v.classMask, 48, 16), (v.lbase, 64, 15), (v.llen, 80, 13), (v.cores.length, 96, 10)]

def envView (p off : Nat) (s : State) : Nat :=
  let e := selNum p rENV_SEL s
  let d := (mget s.env.envs e).bind (·.dirty)
  if off = 0x40008 then regWord [(statusCode s.env.status, 0, 16), (b2n s.env.busy, 16, 1)]
  else if off = 0x40030 || off = 0x40038 then half128 (off = 0x40038) (envInfo e s)
  else if off = 0x40048 then s.env.epoch % 2 ^ 32
  else if off = rENV_DIRTY_HEAD then (d.map (·.head)).getD 0 % 2 ^ 32
  else if off = 0x40058 then (d.map (·.tail)).getD 0 % 2 ^ 32
  else if off = 0x40060 then (d.map (·.cleared)).getD 0 % 2 ^ 32
  else if off = 0x40068 then regWord [(b2n d.isSome, 0, 1), (b2n (match d with
    | some x => !x.pend.isEmpty
    | none => false), 1, 1)]
  else if off = 0x40800 then regWord [(s.env.loaded.length, 0, 9), (b2n (zeroiseWaits s), 9, 1)]
  else if off = rKEY_CTRL then regWord [(b2n s.env.zeroRefused, 1, 1), (b2n s.env.zeroised, 2, 1)]
  else 0

/-- The status word of a region is not zero: the region is in the fault state (R385). -/
def regionBad (n : Nat) (s : State) : Bool := (regRaw (rWEIR_STATUS + 8 * n) s).toNat % 2 ^ 17 ≠ 0

/-- WEIR_SUMMARY (Table 16-11). -/
def weirSummary (s : State) : Nat :=
  let rs := List.range 12
  let first := (rs.filter fun n => (region n s).first.isSome).foldl
    (fun (a : Option Nat) n => match a with
      | none => some n
      | some m => if (region n s).firstSeq < (region m s).firstSeq then some n else some m) none
  regWord [(ofBits (rs.filter fun n => regionBad n s), 0, 12), ((rs.map fun n => (region n s).maxLevel).foldl max 0, 12, 3),
    (b2n s.weir.fatal, 15, 1), (first.getD 0, 16, 4), (b2n first.isSome, 20, 1)]

/-- WEIR_UNIT_STATUS for the unit that WEIR_UNIT_CTL names (Table 16-14). -/
def unitStatus (s : State) : Nat :=
  let key := unitKey (regFld rWEIR_UNIT_CTL 0 3 s) (regFld rWEIR_UNIT_CTL 3 7 s)
  let st : Nat := match mget s.weir.units key with
    | none => 0
    | some u => match u with
      | .inService => 0 | .leaving => 1 | .testing => 2 | .outOfService => 3 | .waitingSubst => 4 | .replaced => 5
  regWord [(b2n s.weir.unitBusy.isSome, 0, 1), (s.weir.unitResult, 1, 2), (st, 3, 3), (mgetD s.weir.subst key 0, 6, 7)]

/-- WEIR_SLUICE_STATUS (Table 16-15). -/
def sluiceStatus (s : State) : Nat :=
  let x := s.sluice
  let st : Nat := match x.st with
    | .idle => 0 | .announced => 1 | .capturing => 2 | .held => 3 | .resumePending => 4
  regWord [(st, 0, 3), (b2n x.origin, 3, 1), (b2n x.incompleteFlag, 4, 1), (x.takingPart.length, 5, 14), (x.complete.length, 19, 14)]

/-- The first record of a region (Table 16-4). -/
def firstWord (n : Nat) (s : State) : Nat :=
  match (region n s).first with
  | none => 0
  | some r => (weirWord r).toNat + 2 ^ 64 * (r.tick % 2 ^ 64)

def weirView (off : Nat) (s : State) : Nat :=
  match slotIx off rWEIR_STATUS 12 8, slotIx off 0x44200 12 16, slotIx off 0x44208 12 16 with
  | some n, _, _ =>
    regWord [((region n s).maxLevel, 17, 3), (if regionBad n s then quietTicks n s - (region n s).quiet else 0, 32, 32)]
  | _, some n, _ => half128 false (firstWord n s)
  | _, _, some n => half128 true (firstWord n s)
  | _, _, _ =>
    if off = 0x44000 then weirSummary s
    else if off = 0x44018 then unitStatus s
    else if off = 0x44028 then sluiceStatus s
    else if off = 0x44040 then regWord [(s.weir.recoveries, 0, 32)]
    else if off = 0x44048 then regWord [(s.weir.escalations, 0, 32)]
    else if off = 0x44060 then regWord [(sluiceArea, 0, 44)]
    else 0

/-- Instances and events that Table 17-1 lists for a counter group. -/
def cntListed (g e i : Nat) : Bool :=
  match [(16, 257), (16, 256), (4, 1728), (4, 34), (5, 76), (4, 72), (4, 32), (4, 4), (2, 68), (2, 34), (4, 16)][g]? with
  | some (ev, n) => e < ev && i < n
  | none => false

/-- OBS_CNT_DATA: the snapshot of the counter that OBS_CNT_SEL names (R401). -/
def cntData (p : Nat) (s : State) : Nat :=
  let v := selGet p rOBS_CNT_SEL s
  let (g, e, i) := (fld v 0 5, fld v 5 6, fld v 11 12)
  if cntListed g e i then mgetD s.obs.snap (cntKey g e i) 0 else 0

def obsView (p off : Nat) (s : State) : Nat :=
  if off = 0x48010 then cntData p s
  else if off = 0x48020 then s.obs.snapTick % 2 ^ 64
  else if off = 0x48058 then s.obs.traceTail % 2 ^ 32
  else if off = 0x48060 then regWord [(b2n s.obs.gap.isSome, 0, 1), (b2n !s.obs.dump.isEmpty, 1, 1)]
  else if off = 0x48068 then s.obs.gen.toNat
  else if off = 0x48070 then s.obs.lost.toNat
  else if off = 0x48098 then s.obs.auditTail % 2 ^ 64
  else if off = 0x480A0 then
    regWord [(s.obs.holding.length, 0, 13), (b2n !s.stalled.isEmpty, 13, 1),
      ((s.stalled.filter isHeldWrite).length, 14, 7), (s.obs.coalesced, 32, 32)]
  else 0

/-- The read-only fields of a register of the manager windows, by window (Table 18-5), and the count blocks (R420). -/
def mgrView (p off : Nat) (s : State) : Nat :=
  match countBlock 0 off with
  | some (key, o) => countWord key o 4 s
  | none => match off / 0x4000 with
    | 4 => tthView off s
    | 5 => splView p off s
    | 6 => eptView p off s
    | 7 => queView p off s
    | 8 => trnView p off s
    | 9 => dpaView off s
    | 10 => synView p off s
    | 11 => cohView p off s
    | 12 => rsvrView off s
    | 13 => mptView off s
    | 14 => cisView off s
    | 15 => flkView p off s
    | 16 => envView p off s
    | 17 => weirView off s
    | 18 => obsView p off s
    | _ => 0

/-! ### What a port presents (R87, R99, R102, R417) -/

/-- Offsets of the groups that the physical function presents on every port: GEN_, TTH_ and SPL_STATUS (R99). -/
def openPage (off : Nat) : Bool := off < 0x440 || off == 0x480

/-- Offsets of the function page that recovery posture presents: GEN_ and SPL_STATUS (R87). -/
def bootPage (off : Nat) : Bool := off < 0x400 || off == 0x480

/-- A diagnostic link presents the GEN_ group of the physical function, and nothing else (R95). -/
def diagSeen (p fn off : Nat) (s : State) : Bool :=
  (hport p s).link == 3 && ioLink p s && fn == 0 && off < 0x400 && off % 8 == 0 && instAt 0 p s && instD0 0 p s && instMse 0 p s
    && !(func 0 s).flrBusy && ideOk p s

/-- Does a read through a port of a function's register region reach the register at an offset? -/
def regSeen (p fn off : Nat) (s : State) : Bool :=
  diagSeen p fn off s || barOpen p fn s && off % 8 == 0 &&
  (if fn ≠ 0 then off < 0x10000 && boundAt fn p s
   else if off < 0x10000 then (if s.spl.recovery then bootPage off else mgrPort p s || openPage off)
   else mgrOpen p off s)

/-- A register's fields: the stored ones, and those that the state shows; an agent's controls are kept with the agent. -/
def regFields (p fn off : Nat) (s : State) : Nat :=
  if off < 0x10000 then storedView p (fnKey fn off) s + pageView p fn off s
  else (if off = rCOH_AGENT_CTL then 0 else storedView p off s) + mgrView p off s

/-- A 64-bit read through port `p` of the slot at an offset of a function's register region. An unbound virtual function
reads zero but for GEN_FUNC_STATUS (R102). -/
def regRead (p fn off : Nat) (s : State) : W64 :=
  if regSeen p fn off s then BitVec.ofNat 64 (regFields p fn off s)
  else if barOpen p fn s && fn ≠ 0 && off = 0x18 then BitVec.ofNat 64 (genFuncStatus p fn s)
  else 0

/-- A read of `size` bytes at an offset of a function's register region (R10): a naturally aligned 64-bit read returns the
slot, a 32-bit read the half it addresses, and a read of another size or alignment 0. -/
def regAccess (p fn off size : Nat) (s : State) : Nat :=
  if size = 8 && off % 8 = 0 then (regRead p fn off s).toNat
  else if size = 4 && off % 4 = 0 then (regRead p fn (off / 8 * 8) s).toNat / 2 ^ (8 * (off % 8)) % 2 ^ 32
  else 0

/-- A 64-bit read of a doorbell of a slot, 0 the submit and 1 the completion doorbell: the TAIL or CHEAD last recorded,
and QGEN (R128). -/
def doorbellRead (p fn slot which : Nat) (s : State) : W64 :=
  if !fnOpen p fn s then 0
  else match slotQueue fn slot s with
  | some (i, q) => BitVec.ofNat 64 (regWord [(if which = 0 then q.tail else q.chead, 0, 32), (slotGen s.que.queSlots i % 2 ^ 24, 32, 24)])
  | none => 0

/-- A 64-bit read of the MSI-X pending-bit array of a function (R106): one bit per vector. -/
def pbaRead (p fn word : Nat) (s : State) : W64 :=
  if fnOpen p fn s then
    BitVec.ofNat 64 (ofBits ((List.range 64).filter fun i => s.ep.msixPending.contains (vecKey fn (64 * word + i))))
  else 0

/-- A 32-bit read of double word `dw` of an MSI-X table entry (R106); entries beyond the function's vectors read 0 (R105). -/
def msixRead (p fn vec dw : Nat) (s : State) : W32 :=
  if !fnOpen p fn s || (func fn s).vectors ≤ vec then 0
  else
    let e := mgetD s.ep.msix (vecKey fn vec) {}
    match dw with
    | 0 => BitVec.ofNat 32 (e.addr.toNat % 2 ^ 32)
    | 1 => BitVec.ofNat 32 (e.addr.toNat / 2 ^ 32)
    | 2 => e.data
    | _ => BitVec.ofNat 32 (b2n e.masked)

/-- A byte of a Rill slot of a virtual function; a slot that the function was not given reads 0 (R134). -/
def rillRead (p fn slot off : Nat) (s : State) : Byte :=
  if barOpen p fn s && fn ≠ 0 && boundAt fn p s && (rillOf fn s).contains slot then
    cellGet (mgetD s.que.rills slot {}).mem off
  else 0

/-! ### Frames that leave (Tables 14-1 and 14-2) -/

/-- FACK of a link's frames; none before a frame has been accepted since link initialisation. -/
def fackView (l : Nat) (s : State) : Option Nat := if (flink l s).rxAny then some (fackOf (flink l s)) else none

/-- The session secret under which a message to a peer is sealed: of the epoch that the message names (R343, R345). -/
def secretView (m : FlMsg) (s : State) : Nat :=
  let p := fpeer (msgDst m) s
  match msgKey m with
  | some (_, _, _, kep) => if kep == p.kepoch then p.secret else p.oldSecret
  | none => p.secret

/-- The frame of `Out.fabric`: one packet, its descriptor first in the control area and its data from slot 0 on (log 30). -/
def frameView (l fseq : Nat) (m : FlMsg) (s : State) : List Byte :=
  frameBytes fseq (fackView l s) false [] [msgSeal (secretView m s) l s.spl.chip (tick s % 128) m]

/-- The IDLE frame of `Out.fabricIdle`: NAK and the credits that it returns on a channel (R332, R338). -/
def idleView (l : Nat) (nak : Bool) (vc credits : Nat) (s : State) : List Byte :=
  frameBytes (flink l s).txSeq (fackView l s) nak ((List.range 4).map fun v => if v = vc then credits else 0) []

end Sys2Proof.Machine
end

