-- ==== Sys2Proof/Safety.lean ====
section
/-! DEFINITION. What counts as a good state and a safe step, in the terms the statements use. -/
namespace Sys2Proof.Machine

/-- A byte memory is in its canonical form: addresses strictly rising, and no entry equal to what an unlisted address reads
as (log 6). -/
def Memory.wf (m : Map Byte) : Bool := cellsWf m

/-- The error outputs say what the Weir holds (R71): err_nonfatal_n is low while a level-2 or level-3 fault is latched and
not acknowledged, and to the end of the tick in which it went low; err_fatal_n exactly while a level-4 fault stands. -/
abbrev OutputsFollow (s : State) : Prop :=
  s.weir.errNonfatalLow = (nonfatalDue s || s.weir.errHold) ∧ s.weir.errFatalLow = s.weir.fatal

/-- An audit record of class O finds room at once, or no log runs (R413, R416). -/
abbrev AuditRoom (s : State) : Prop := s.obs.auditOn = false ∨ (freeO s = true ∧ s.obs.heldSrc = [])

/-- A fence action with operation `op` that function `fn` starts through port `p` with handle value `v` acts on fence `n`,
which is `f`: the function's page is open, no action of it runs, and the handle names a fence of one of its contexts (R244,
R245). -/
abbrev ActsOn (p fn op n : Nat) (v : W64) (f : Fence) (s : State) : Prop :=
  fnOpen p fn s = true ∧ mget s.que.actBusy fn = none ∧ regFld (fnKey fn fSYN_ACTION) 0 3 s = op ∧
  handleOf v = ⟨4, 0, n, slotGen s.que.fenSlots n⟩ ∧ mget s.que.fences n = some f ∧
  (mget s.que.ctxs f.ctx).map (·.fn) = some fn

/-- The state in which a fence action starts: SYN_FN_HANDLE has been taken and OVERRUN is cleared (R11, R244). -/
def actTaken (fn : Nat) (v : W64) (s : State) : State :=
  { s with
    reg := { s.reg with last := mset s.reg.last (fnKey fn fSYN_HANDLE) v }
    que := { s.que with actOverrun := s.que.actOverrun.filter (· != fn) } }

/-- Packet `h` is taken from channel `vc`: no sluice stop keeps it out, its link is up, it is authentic, and it is the next
of its channel (R344, R347, R397). -/
abbrev InOrder (vc : Nat) (h : PktHdr) (s : State) : Prop :=
  (frozen s = false ∨ beforeCut vc h s = true) ∧ flUp h.link.val s = true ∧ fabAuthentic h s = true ∧
  h.eseq.toNat = mgetD (fpeer h.src.val s).rx vc 0

/-- The values that enter an accumulator class: elements of FP64 for the wide class, of any other format for the narrow
one (R309). -/
abbrev Addends (wide : Bool) (l : List Val) : Prop :=
  ∀ v ∈ l, ∃ (f : Fmt) (x : Nat), f ≠ .cxp ∧ (f = .fp64 ↔ wide = true) ∧ v = decodeVal f x

/-- The accumulator that holds the sum of a list of values, added in the order of the list (R310). -/
def sumOf (wide : Bool) (l : List Val) : Acc := l.foldl (fun a v => accAdd wide v a) {}

/-- What a CXP record keeps of an accumulator: a value implies NZ, and NaN and infinities stand alone (Table 13-7). -/
def cxpCanon (x : Acc) : Acc :=
  if x.nan || x.ovf || (x.pinf && x.ninf) then { nan := true }
  else if x.pinf then { pinf := true }
  else if x.ninf then { ninf := true }
  else if x.a = 0 then { nz := x.nz, pz := x.pz, mz := x.mz }
  else { a := x.a, nz := true }

/-- What has been driven once a port has sent a completion or a message of its own: it has left L1 first where it was in it
(R110). -/
def told (p : Nat) (m : HostMsg) (s : State) : List Out :=
  s.out ++ (if (hport p s).lstate = .l1 then [.host p .exitL1] else []) ++ [.host p m]

/-- A step goes on: it answers a next state, neither a fault nor a refusal. -/
def GoesOn (r : Res) : Prop := ∃ t, r = .next t

end Sys2Proof.Machine
end

