-- ==== Sys2Proof/Certificates/Slice0/Obligations.lean ====
section
/-! DEFINITION. The statements for the provers. In the statements on single commands, the command's own effect is the state
written out, or the state said to exist; `settle` then lets take place what follows from it (log 4), and `errOutputs`
sets the two error outputs (R71). -/
open Sys2Proof Sys2Proof.Machine

/-- For every command c, queue rest and state s, a step of s with c at the front of its queue is exec of c on s with
the queue's rest; on an empty queue the block idles (the model's own reading of a block without a clock row: log
3). -/
def Obligations.StepRunsFront : Prop :=
  (∀ (c : Instr) (rest : List Instr) (s : State),
    step { s with pending := c :: rest } = exec c { s with pending := rest }) ∧
  (∀ s : State, s.pending = [] → step s = .next s)

/-- In every state every command answers a next state: no command faults and none is refused, and the error outputs
of the state it answers say what the Weir holds (R71). -/
def Obligations.EveryCommandGoesOn : Prop :=
  ∀ (c : Instr) (s : State), ∃ t, exec c s = .next t ∧ OutputsFollow t

/-- In every state in which err_nonfatal_n and err_fatal_n say what the Weir holds (R71), a step answers a next
state in which they do, and so does every run of k steps. -/
def Obligations.StepsKeepOutputs : Prop :=
  (∀ s : State, OutputsFollow s → ∃ t, step s = .next t ∧ OutputsFollow t) ∧
  (∀ (k : Nat) (s : State), OutputsFollow s → ∃ t, Host.Core.run Sys2Proof.core k s = Host.Outcome.next t ∧ OutputsFollow t)

/-- The state after rst_por_n: both error outputs high as the Weir is empty (R71), no command waits, every byte
memory is in its canonical form, start-up is in phase 1 (R79), and no host link, session, envelope or context
stands. -/
def Obligations.ResetIsGood : Prop :=
  OutputsFollow State.reset ∧ State.reset.weir.errFatalLow = false ∧ State.reset.weir.errNonfatalLow = false ∧
  State.reset.pending = [] ∧ Memory.wf State.reset.rsvr.mem = true ∧ Memory.wf State.reset.spl.staging = true ∧
  State.reset.spl.phase = 1 ∧ State.reset.spl.ended = [] ∧ State.reset.spl.recovery = false ∧
  (∀ p < 4, (hport p State.reset).link = 0) ∧ (∀ l < 32, flUp l State.reset = false) ∧
  State.reset.env.envs = [] ∧ State.reset.que.ctxs = [] ∧ State.reset.time.st = .acquire

/-- POWER_ON_RESET leaves the whole block in its reset state. WARM_RESET resets everything but the tether value and
its state, the TAP, the sensors and the marks of the reference inputs, the findings of the self-test, and the
level of each hpN_perst_n pin, and start-up goes on in phase 2 (R46, R85, Tables 3-1 and 3-3). TAP_RESET touches
only the TAP. What has been driven, the commands that wait outside and the model's own counter of free values
are no part of the block (log 7). -/
def Obligations.ResetCommands : Prop :=
  (∀ s : State, exec .powerOnReset s = .next { State.reset with pending := s.pending, out := s.out, free := s.free }) ∧
  (∀ s : State, ∃ t, exec .warmReset s = .next t ∧ t.time.now = s.time.now ∧ t.time.st = s.time.st ∧
    t.port.tap = s.port.tap ∧ t.port.temp = s.port.temp ∧ t.port.power = s.port.power ∧ t.port.ref10m = s.port.ref10m ∧
    t.port.refPps = s.port.refPps ∧ t.port.coreOut = s.port.absent ∧ t.weir.bist = s.weir.bist ∧
    (s.weir.bist = [] → t.weir = State.reset.weir) ∧ (∀ p < 4, (hport p t).perst = (hport p s).perst) ∧ t.spl.phase = 2 ∧ t.spl.ended = [1] ∧
    t.que = State.reset.que ∧ t.reg = State.reset.reg ∧ t.env = State.reset.env ∧ t.coh = State.reset.coh ∧
    t.rsvr = State.reset.rsvr ∧ t.tr = State.reset.tr ∧ t.cis = State.reset.cis ∧ t.fab = State.reset.fab ∧
    t.obs = State.reset.obs ∧ t.pending = s.pending) ∧
  (∀ s : State, exec .tapReset s = .next (errOutputs { s with port := { s.port with tap := .bypass } }))

/-- Each command of start-up ends its phase: SELF_TEST phase 1, with the absent cores noted and phase 2 begun (R79);
SPOOL_READ phase 2, or it enters recovery posture with the cause of the first failed check and the tether in
FREE_RUN (R75, R87); MEMORY_TRAINING phase 3, or recovery posture with cause 9 (R82); TETHER_ACQUIRE starts
phase 4 with an election and ends it once the tether is acquired, TETHER_ACQ_TIMEOUT ends it in FREE_RUN (R83);
the tether of a follower that starts cold is set by the sync it has heard (R32, R83); HOST_PORT_LINK_UP phase 5
where no link has trained; FABRIC_BRING_UP phase 6; ENVELOPE_INSTANTIATION instantiates each template that asks
for it, or skips it and says so, and ends phase 7 at once where the image holds none (R84). Outside its phase
each does nothing. That phase 4 starts and ends by two TETHER_ACQUIRE commands, the second of which sets the
tether, is the model's choice (log 10). -/
def Obligations.StartUpPhases : Prop :=
  (∀ (bad : List UnitSel) (absent : List CoreIx) (s : State), s.spl.phase = 1 → s.spl.ended = [] →
    ∃ x, exec (.selfTest bad absent) s = .next (errOutputs x) ∧ x.spl.ended = [1] ∧ x.spl.phase = 2 ∧
      (∀ c ∈ absent, x.port.coreOut.contains c.val = true)) ∧
  (∀ (n : NvmData) (s : State), s.spl.phase = 2 → s.spl.recovery = false →
    ∃ x, exec (.spoolRead n) s = .next (errOutputs x) ∧ (nvmCause n = 0 → x.spl.ended.contains 2 = true) ∧
      (nvmCause n ≠ 0 → x.spl.recovery = true ∧ x.spl.cause = nvmCause n ∧ x.time.st = .freeRun ∧ x.port.mp = [] ∧
        x.weir.raised = [] ∧ x.env.loaded = [])) ∧
  (∀ (reports : List (MP × TrainReport × TrainReport)) (s : State), s.spl.phase = 3 → s.spl.recovery = false →
    ∃ x, exec (.memoryTraining reports) s = .next (errOutputs (settle x)) ∧
      (x.spl.ended.contains 3 = true ∨ (x.spl.recovery = true ∧ x.spl.cause = 9))) ∧
  (∀ s : State, inPhase4 s = true → s.spl.begun.contains 4 = false →
    ∃ x, exec .tetherAcquire s = .next (errOutputs x) ∧ x.time.election = some 0 ∧ x.spl.begun.contains 4 = true) ∧
  (∀ (bad : List UnitSel) (absent : List CoreIx) (s : State), s.spl.phase ≠ 1 →
    exec (.selfTest bad absent) s = .next (errOutputs s)) ∧
  (∀ (n : NvmData) (s : State), s.spl.phase ≠ 2 ∨ s.spl.recovery = true → exec (.spoolRead n) s = .next (errOutputs s)) ∧
  (∀ (reports : List (MP × TrainReport × TrainReport)) (s : State), s.spl.phase ≠ 3 ∨ s.spl.recovery = true →
    exec (.memoryTraining reports) s = .next (errOutputs (settle s))) ∧
  (∀ s : State, inPhase4 s = false → exec .tetherAcquire s = .next (errOutputs s) ∧ exec .tetherAcqTimeout s = .next (errOutputs s)) ∧
  (∀ s : State, inPhase4 s = true → s.spl.begun.contains 4 = true → acquired s = true →
    exec .tetherAcquire s = .next (errOutputs (each (((endPhase 4 s).spl.peers.filter fun e =>
      e.2.st == .seen && (endPhase 4 s).spl.chip < e.1 && (fpeer e.1 (endPhase 4 s)).sess == .closed).map (·.1)) startSession
      (endPhase 4 s))) ∧ (endPhase 4 s).spl.ended.contains 4 = true) ∧
  (∀ s : State, inPhase4 s = true → s.spl.begun.contains 4 = true → mayAcquire s = true → acquired s = false →
    ∃ x, exec .tetherAcquire s = .next (errOutputs (each ((x.spl.peers.filter fun e =>
        e.2.st == .seen && x.spl.chip < e.1 && (fpeer e.1 x).sess == .closed).map (·.1)) startSession x)) ∧
      x.time.st = .locked ∧ x.spl.ended.contains 4 = true ∧
      ((x.time.now.toNat * 16 + x.time.frac : Nat) : Int) = (((stampAt s.time.frac s).toNat : Int) - s.time.offset) % (2 ^ 68 : Nat)) ∧
  (∀ s : State, inPhase4 s = true → s.spl.begun.contains 4 = true → s.spl.img.acqTicks ≤ s.spl.acqTicks →
    s.time.st ≠ .locked →
    ∃ x, exec .tetherAcqTimeout s = .next (errOutputs (each ((x.spl.peers.filter fun e =>
        e.2.st == .seen && x.spl.chip < e.1 && (fpeer e.1 x).sess == .closed).map (·.1)) startSession x)) ∧
      x.time.st = .freeRun ∧ x.spl.ended.contains 4 = true) ∧
  (∀ s : State, s.spl.begun.contains 4 = false ∨ s.spl.acqTicks < s.spl.img.acqTicks ∨ s.time.st = .locked →
    exec .tetherAcqTimeout s = .next (errOutputs s)) ∧
  (∀ s : State, s.spl.begun.contains 4 = true → acquired s = false → mayAcquire s = false →
    exec .tetherAcquire s = .next (errOutputs s)) ∧
  (∀ (links : List (HP × Trained)) (s : State), s.spl.recovery = false → s.spl.ended.contains 3 = true →
    s.spl.ended.contains 5 = false →
    ∃ x, exec (.hostPortLinkUp links) s = .next (errOutputs (settle (each ((List.range 4).filter fun p => (hport p x).link == 2)
      (fun p y => tell p .drs (portUp p y)) x))) ∧ x.spl.ended.contains 5 = true) ∧
  (∀ (links : List (HP × Trained)) (s : State), s.spl.recovery = true ∨ s.spl.ended.contains 3 = false ∨
    s.spl.ended.contains 5 = true → exec (.hostPortLinkUp links) s = .next (errOutputs (settle s))) ∧
  (∀ (links : List (HP × Trained)) (s : State), s.spl.recovery = false → s.spl.ended.contains 3 = true →
    s.spl.ended.contains 5 = false → (∀ p < 4, (hport p s).link = 0) →
    ∃ x, exec (.hostPortLinkUp links) s = .next (errOutputs (settle x)) ∧ x.spl.ended.contains 5 = true ∧
      (∀ p < 4, (hport p x).link = 0)) ∧
  (∀ s : State, s.spl.recovery = false → s.spl.ended.contains 4 = true → s.spl.ended.contains 6 = false →
    ∃ x, exec .fabricBringUp s = .next (errOutputs x) ∧ x.spl.ended.contains 6 = true) ∧
  (∀ s : State, s.spl.phase = 7 → s.spl.recovery = false → s.spl.begun.contains 7 = false → s.spl.ended.contains 7 = false →
    s.spl.img.templates = [] → s.env.envs = [] →
    ∃ x, exec .envelopeInstantiation s = .next (errOutputs (settle x)) ∧ x.spl.ended.contains 7 = true) ∧
  (∀ s : State, s.spl.phase = 7 → s.spl.recovery = false → s.spl.begun.contains 7 = false →
    exec .envelopeInstantiation s = .next (errOutputs (settle (phase7End (each
      ((List.range s.spl.img.templates.length).zip s.spl.img.templates) instantiate
      { s with spl := { s.spl with begun := insNat 7 s.spl.begun } }))))) ∧
  (∀ (x : Nat × List Byte) (s : State),
    ((tmplOf x.2).instantiate = false → instantiate x s = s) ∧
    ((tmplOf x.2).instantiate = true → createCheck x.1 (tmplOf x.2) s = none → instantiate x s = createEff x.1 (tmplOf x.2) s) ∧
    (∀ c : Status, (tmplOf x.2).instantiate = true → createCheck x.1 (tmplOf x.2) s = some c → instantiate x s =
      auditO .templateSkipped 0 0 noEnv false [BitVec.ofNat 64 x.1] (setEvent rSPL_EVENT 2 s))) ∧
  (∀ s : State, s.spl.phase ≠ 7 ∨ s.spl.recovery = true ∨ s.spl.begun.contains 7 = true →
    exec .envelopeInstantiation s = .next (errOutputs (settle s))) ∧
  (∀ s : State, s.spl.recovery = true ∨ s.spl.ended.contains 4 = false ∨ s.spl.ended.contains 6 = true →
    exec .fabricBringUp s = .next (errOutputs s))

/-- Through a port that presents the SPL_ window: STAGE_OPEN clears the staging RAM and opens it, but is ignored
while authentication or a commit runs; STAGING_WRITE stores its bytes in OPEN and is otherwise discarded and
counted; STAGE_AUTH moves to AUTHENTICATING; STAGE_AUTH_DONE moves to AUTHENTICATED with the result of the
checks on the staged bytes. Nothing else changes (R88). While a commit runs, a further COMMIT changes nothing
and JOURNAL_APPEND leaves the entry waiting; without one JOURNAL_APPEND programs the first entry due. A repair
stands in the repair map of its port at once, before it has been journalled (R78). -/
def Obligations.StagingRuns : Prop :=
  (∀ (p : HP) (s : State), mgrOpen p.val rSPL_CTRL s = true → s.spl.stage ≠ .authenticating → s.spl.commitBusy = false →
    exec (.stageOpen p) s = .next (errOutputs { s with spl := { s.spl with
      stage := .opened, staging := [], stageOk := false, stageCause := 0 } })) ∧
  (∀ (p : HP) (s : State), s.spl.stage = .authenticating ∨ s.spl.commitBusy = true →
    exec (.stageOpen p) s = .next (errOutputs s)) ∧
  (∀ (p : HP) (off : BitVec 23) (data : List Byte) (s : State), mgrOpen p.val rSPL_CTRL s = true →
    s.spl.stage = .opened → off.toNat + data.length ≤ 0x800000 →
    exec (.stagingWrite p off data) s = .next (errOutputs { s with spl := { s.spl with
      staging := cellsSet s.spl.staging off.toNat data } })) ∧
  (∀ (p : HP) (off : BitVec 23) (data : List Byte) (s : State), mgrOpen p.val rSPL_CTRL s = true →
    s.spl.stage ≠ .opened →
    exec (.stagingWrite p off data) s = .next (errOutputs { s with spl := { s.spl with
      stageDropped := min (s.spl.stageDropped + 1) 65535 } })) ∧
  (∀ (p : HP) (s : State), mgrOpen p.val rSPL_CTRL s = true → s.spl.stage = .opened →
    exec (.stageAuth p) s = .next (errOutputs { s with spl := { s.spl with stage := .authenticating } })) ∧
  (∀ s : State, s.spl.stage = .authenticating →
    exec .stageAuthDone s = .next (errOutputs { s with spl := { s.spl with
      stage := .authenticated, stageOk := imageCause s.spl.staging == 0, stageCause := imageCause s.spl.staging } })) ∧
  (∀ s : State, s.spl.commitBusy = true → exec .journalAppend s = .next (errOutputs s)) ∧
  (∀ (p : HP) (s : State), s.spl.commitBusy = true → exec (.commit p) s = .next (errOutputs s)) ∧
  (∀ (e : JournalEntry) (r : List JournalEntry) (s : State), s.spl.journalWait = e :: r → s.spl.commitBusy = false →
    s.spl.journal.length < 8192 →
    ∃ x e', exec .journalAppend s = .next (errOutputs x) ∧ x.spl.journalWait = r ∧ x.spl.journal = s.spl.journal ++ [e'] ∧
      e'.lane = e.lane ∧ e'.marker = e.marker ∧ e'.seq = s.spl.journalSeq ∧ journalOk e' = true ∧
      x.spl.journalSeq = s.spl.journalSeq + 1 ∧
      x.out = s.out ++ [.nvm 1 (journalAt s.spl.journalSecond s.spl.journal.length) (journalBody e' ++ toBytes 32 e'.mac)]) ∧
  (∀ (n lane : Nat) (s : State), (repairLane n lane s).1 = true →
    ∃ e ∈ (repairLane n lane s).2.spl.laneMap, e.port = n ∧ e.kind = 0 ∧ e.lane = lane ∧
      ∃ j ∈ (repairLane n lane s).2.spl.journalWait, j.lane = e)

/-- With a good authenticated image and room in the audit log's holding buffer, COMMIT sets COMMIT_BUSY and drives
the erase and the program of the image space; COMMIT_END clears COMMIT_BUSY, and a good one makes a commit
marker fall due (R90). In recovery posture STAGE_BOOT leaves recovery posture and ends phase 2, so that start-up
goes on from phase 3; in normal posture it does nothing (R89). HOSTLOSS_WAIT_EXPIRY ends the wait of its
function and sets HOST_LOST_EXPIRED (R91). -/
def Obligations.CommitAndBoot : Prop :=
  (∀ (p : HP) (s : State), mgrOpen p.val rSPL_CTRL s = true → stagedGood s = true → s.spl.commitBusy = false →
    mayClassC s = true →
    ∃ x, exec (.commit p) s = .next (errOutputs x) ∧ x.spl = { s.spl with commitBusy := true, commitRec := s.spl.recovery } ∧
      x.out = s.out ++ [.nvm 0 0 [], .nvm 1 0 (cellsGet s.spl.staging 0 (imageSize s.spl.staging))]) ∧
  (∀ (good : Bool) (s : State), s.spl.commitBusy = true → mayClassC s = true →
    ∃ x, exec (.commitEnd good) s = .next (errOutputs x) ∧ x.spl.commitBusy = false ∧
      x.spl.journalWait = s.spl.journalWait ++ (if good then [⟨0, ⟨0, 0, 0, 0⟩, some s.spl.commitRec, tick s, 0⟩] else [])) ∧
  (∀ (p : HP) (s : State), mgrOpen p.val rSPL_CTRL s = true → s.spl.recovery = true → stagedGood s = true →
    ∃ x, exec (.stageBoot p) s = .next (errOutputs (settle x)) ∧ x.spl.ended.contains 2 = true) ∧
  (∀ (p : HP) (s : State), s.spl.recovery = false → exec (.stageBoot p) s = .next (errOutputs (settle s))) ∧
  (∀ (fn : Fn) (n : Nat) (s : State), mget s.spl.hostLoss fn.val = some n → s.spl.img.hostLossWaitMs * 1000 ≤ n →
    ∃ x, exec (.hostlossWaitExpiry fn) s = .next (errOutputs (settle x)) ∧ bit (regRaw rSPL_EVENT x) 3 = true)

/-- PERST marks the port held in reset with its link down and its IDE streams and keys cleared; PERST_DEASSERT
releases hpN_wake_n, unless it must stay low for the rest of its 100 ticks, and starts training in a port in
service, in the first arrangement of R51 that its lane groups allow; HOST_LINK_TRAINED before phase 5 gives a
port the width and rate it trained at and touches no other port; DL_DOWN and HOT_RESET bring the link of a port
back to training with LINK_DOWN set, and what was on the port is then lost to it; LINK_RECOVERY of a port in
service sets RETRAINED, raises nothing and loses nothing; MANAGER_GROUP 100 ms after recovery posture was
entered fixes the lowest-numbered port whose link is up (R46, R80, R91, R99, R108, R116, R206, R208). -/
def Obligations.HostPortEvents : Prop :=
  (∀ (p : HP) (s : State), (hport p.val s).perst = true → exec (.perst p) s = .next (errOutputs (settle s))) ∧
  (∀ (p : HP) (s : State), (hport p.val s).perst = false →
    exec (.perst p) s = .next (errOutputs (settle (perst p.val (auditO .reset 4 0 noEnv false [BitVec.ofNat 64 p.val] s))))) ∧
  (∀ (p : HP) (s : State), (hport p.val s).st = .down → trained p.val s = false →
    (hport p.val (perst p.val s)).perst = true ∧ (hport p.val (perst p.val s)).link = 0 ∧
      (hport p.val (perst p.val s)).ideRun = [] ∧ (hport p.val (perst p.val s)).ideKeys = [] ∧ (perst p.val s).reg = s.reg ∧
      (perst p.val s).que = s.que ∧ (perst p.val s).rsvr = s.rsvr) ∧
  (∀ (p : HP) (s : State), (hport p.val s).perst = false → exec (.perstDeassert p) s = .next (errOutputs (settle s))) ∧
  (∀ (p : HP) (s : State), (hport p.val s).perst = true →
    (s.spl.ended.contains 1 = false ∨ (s.spl.img.hpEn / 2 ^ p.val % 2 = 0 ∧ s.spl.ended.contains 2 = true) ∨
      arrangement (widthLimit p.val s) (hport p.val s).laneOut = none →
      ∃ x, exec (.perstDeassert p) s = .next (errOutputs (settle x)) ∧ (hport p.val x).perst = false ∧
        (hport p.val x).wakeLow = ((hport p.val s).wakeLow && (hport p.val s).wakeHold != 0) ∧ x.out = s.out ∧ x.reg = s.reg ∧
        x.que = s.que) ∧
    (∀ a : Arrangement, s.spl.ended.contains 1 = true → s.spl.img.hpEn / 2 ^ p.val % 2 = 1 ∨ s.spl.ended.contains 2 = false →
      arrangement (widthLimit p.val s) (hport p.val s).laneOut = some a →
      ∃ x, exec (.perstDeassert p) s = .next (errOutputs (settle x)) ∧ (hport p.val x).perst = false ∧
        (hport p.val x).wakeLow = ((hport p.val s).wakeLow && (hport p.val s).wakeHold != 0) ∧ (hport p.val x).link = 1 ∧
        (hport p.val x).groups = a.groups ∧ (hport p.val x).reversed = a.reversed ∧
        x.out = s.out ++ [.host p.val (.train a.groups a.reversed)] ∧ x.reg = s.reg ∧ x.que = s.que)) ∧
  (∀ (p : HP) (t : Trained) (s : State), mayTrain p.val s = false ∨ (hport p.val s).link ≠ 1 →
    exec (.hostLinkTrained p t) s = .next (errOutputs (settle s))) ∧
  (∀ (p : HP) (t : Trained) (s : State), mayTrain p.val s = true → (hport p.val s).link = 1 →
    let x := trainedLink p.val t s
    let y := if x.spl.ended.contains 5 then portLimits p.val x else x
    exec (.hostLinkTrained p t) s = .next (errOutputs (settle
      (if (hport p.val y).link = 2 ∧ (y.spl.recovery = true ∨ y.spl.ended.contains 5 = true) then portUp p.val y else y)))) ∧
  (∀ (p : HP) (t : Trained) (a : Arrangement) (s : State), t.failed = [] →
    arrangement (max t.width.val (widthLimit p.val s)) (hport p.val s).laneOut = some a → t.flit = true →
    let x := trainedLink p.val t s
    let cxl := if s.spl.ended.contains 2 then (t.cxl &&& BitVec.ofNat 3 (portCfg p.val s).protoEn).toNat else 0
    (hport p.val x).link = 2 ∧ (hport p.val x).width = a.width ∧ (hport p.val x).trained = a.width ∧
      (hport p.val x).groups = a.groups ∧ (hport p.val x).cxl = cxl ∧
      (hport p.val x).rate = (if cxl ≠ 0 then min 5 t.rate.val else t.rate.val) ∧
      (∀ q : HP, q ≠ p → hport q.val x = hport q.val s) ∧ x.out = s.out ∧ x.reg = s.reg ∧ x.que = s.que) ∧
  (∀ (p : HP) (s : State), trained p.val s = false → exec (.dlDown p) s = .next (errOutputs (settle s)) ∧
    exec (.hotReset p) s = .next (errOutputs (settle s))) ∧
  (∀ (p : HP) (s : State), trained p.val s = true →
    let linkAfter := if (arrangement (widthLimit p.val s) (hport p.val s).laneOut).isSome then 1 else 0
    (∃ x, exec (.dlDown p) s = .next (errOutputs (settle (portLost p.val .down x))) ∧ (hport p.val x).link = linkAfter ∧
      bit (regRaw rEPT_EVENT x) p.val = true) ∧
    (∃ x, exec (.hotReset p) s = .next (errOutputs (settle (resetInsts p.val (portLost p.val .down x)))) ∧
      (hport p.val x).link = linkAfter ∧ bit (regRaw rEPT_EVENT x) p.val = true)) ∧
  (∀ (p : HP) (s : State), linkUp p.val s = false → exec (.linkRecovery p) s = .next (errOutputs (settle s))) ∧
  (∀ (p : HP) (s : State), linkUp p.val s = true →
    ∃ x, exec (.linkRecovery p) s = .next (errOutputs (settle (if (hport p.val s).st = .suspect then portUp p.val x else x))) ∧
      bit (regRaw rEPT_EVENT x) (4 + p.val) = true ∧ x.weir.raised = s.weir.raised ∧ x.que = s.que) ∧
  (∀ (p : HP) (s : State), s.spl.recovery = true → s.ep.mgr = [] → 100000 ≤ s.spl.recoveryTicks → firstUp s = some p.val →
    ∃ x, exec .managerGroup s = .next (errOutputs (settle (portChanged p.val x))) ∧ x.ep.mgr = [p.val] ∧
      x.reg = s.reg ∧ x.que = s.que) ∧
  (∀ s : State, s.spl.recovery = false ∨ s.ep.mgr ≠ [] ∨ s.spl.recoveryTicks < 100000 ∨ firstUp s = none →
    exec .managerGroup s = .next (errOutputs (settle s)))

/-- COMPLETION takes the tag of an outstanding request out of the port's table; with a current generation its data
reach what asked for them, poisoned where EP is set, and with a stale one they are discarded and counted in
EPT_LATE_CPL (R115). FLUSH_COMPLETION covers every entry issued before the flush (R207); one of a stale
generation covers nothing and is counted. COMPLETION_TIMEOUT of a flush sets its event, raises the port's error
and makes the port SUSPECT; a read is sent once more on another port that its function can use, and comes back
poisoned where there is none or it has been sent twice (R210); a translation request comes back refused (R163).
REPLAY_COMPLETE sends the requests that were outstanding again (R208). BUCKET_MOVE moves a bucket that a flush
has covered (R201). ASPM_L1_ENTRY, L0P_REQUEST and HOST_L0P_REQUEST change the link state (R110). PME_RESEND
sends the message again, out of L1 where the port is in it (R109). -/
def Obligations.HostTraffic : Prop :=
  (∀ (p : HP) (tag : BitVec 14) (data : List Byte) (ep : Bool) (n : NpReq) (s : State),
    (hport p.val s).nps.find? (fun n => n.tag == tag.toNat) = some n → (∀ u, n.purpose ≠ .flush u) →
    (npFresh n s = false →
      ∃ x, exec (.completion p tag data ep) s = .next (errOutputs (settle x)) ∧ x.ep.lateCpl = min (s.ep.lateCpl + 1) 4294967295 ∧
        (hport p.val x).nps = (hport p.val s).nps.filter (fun n => n.tag != tag.toNat) ∧ x.que = s.que ∧ x.rsvr = s.rsvr) ∧
    (npFresh n s = true →
      ∃ x, exec (.completion p tag data ep) s = .next (errOutputs (settle (npData n data ep x))) ∧
        (hport p.val x).nps = (hport p.val s).nps.filter (fun n => n.tag != tag.toNat) ∧ x.ep.lateCpl = s.ep.lateCpl ∧
        x.que = s.que ∧ x.rsvr = s.rsvr ∧ x.out = s.out)) ∧
  (∀ (p : HP) (tag : BitVec 14) (u : Nat) (n : NpReq) (s : State),
    (hport p.val s).nps.find? (fun n => n.tag == tag.toNat) = some n → n.purpose = .flush u →
    ∃ x, exec (.flushCompletion p tag) s = .next (errOutputs (settle (if npFresh n s then flushDoneAt p.val u x else lateCompletion x))) ∧
      (hport p.val x).nps = (hport p.val s).nps.filter (fun n => n.tag != tag.toNat) ∧ x.ep.lateCpl = s.ep.lateCpl ∧ x.que = s.que) ∧
  (∀ (p : HP) (tag : BitVec 14) (n : NpReq) (s : State),
    s.tr.ats.find? (fun a => a.tag == tag.toNat && a.port == p.val) = none →
    (hport p.val s).nps.find? (fun n => n.tag == tag.toNat) = some n → npFresh n s = false →
    ∃ x, exec (.completionTimeout p tag) s = .next (errOutputs (settle x)) ∧
      (hport p.val x).nps = (hport p.val s).nps.filter (fun n => n.tag != tag.toNat) ∧ x.que = s.que ∧ x.out = s.out ∧ x.reg = s.reg) ∧
  (∀ (p : HP) (tag : BitVec 14) (s : State),
    (hport p.val s).nps.find? (fun n => n.tag == tag.toNat) = none →
    (∀ (d : List Byte) (ep : Bool), exec (.completion p tag d ep) s = .next (errOutputs (settle s))) ∧
    exec (.flushCompletion p tag) s = .next (errOutputs (settle s)) ∧
    (s.tr.ats.find? (fun a => a.tag == tag.toNat && a.port == p.val) = none →
      exec (.completionTimeout p tag) s = .next (errOutputs (settle s)))) ∧
  (∀ (p : HP) (tag : BitVec 14) (n : NpReq) (s : State),
    s.tr.ats.find? (fun a => a.tag == tag.toNat && a.port == p.val) = none →
    (hport p.val s).nps.find? (fun n => n.tag == tag.toNat) = some n → npFresh n s = true →
      (∀ u : Nat, n.purpose = .flush u → ∃ x, exec (.completionTimeout p tag) s = .next (errOutputs (settle (portLost p.val .suspect x))) ∧
        bit (regRaw rDPA_EVENT x) (4 + p.val) = true ∧ x.que = s.que ∧
        (∀ v ∈ x.tr.invals, ∀ f ∈ v.fl, ¬ (f.1 = p.val ∧ f.2 ≤ u)) ∧
        (s.spl.recovery = false → x.weir.raised = s.weir.raised ++ [⟨32 + p.val, .partnerTimeout, none, none, 0⟩])) ∧
      ∃ x, (hport p.val x).nps = (hport p.val s).nps.filter (fun n => n.tag != tag.toNat) ∧ x.que = s.que ∧
      ((∀ u, n.purpose ≠ .flush u) → n.resent = false → ∀ q, otherPort n.fn p.val x = some q →
        exec (.completionTimeout p tag) s = .next (errOutputs (settle (resendNp q true n x)))) ∧
      ((∀ u, n.purpose ≠ .flush u) → (∀ q k, n.purpose ≠ .fetch q k) → (n.resent = true ∨ otherPort n.fn p.val x = none) →
        exec (.completionTimeout p tag) s = .next (errOutputs (settle (npData n [] true x)))) ∧
      (∀ q k, n.purpose = .fetch q k → (n.resent = true ∨ otherPort n.fn p.val x = none) →
        exec (.completionTimeout p tag) s = .next (errOutputs (settle (fetchFail q k n.fn x))))) ∧
  (∀ (p : HP) (tag : BitVec 14) (a : Ats) (s : State),
    s.tr.ats.find? (fun a => a.tag == tag.toNat && a.port == p.val) = some a →
    exec (.completionTimeout p tag) s = .next (errOutputs (settle
      (if atsFresh a s then atsDone p.val tag.toNat .refused s else atsDrop a s)))) ∧
  (∀ (lost : HP) (fn : Fn) (r : Replay) (s : State),
    s.ep.replays.find? (fun r => r.lost == lost.val && r.fn == fn.val) = some r →
    (r.coverSeq ≠ 0 ∨ r.entries ≠ [] →
      exec (.replayComplete lost fn) s = .next (errOutputs (settle (kickWaiting (prgSendAll s))))) ∧
    (r.coverSeq = 0 → r.entries = [] →
      let t := each r.nps (resendNp r.port false) s
      let n := (hport r.port t).seq
      let u := coverLost lost.val fn.val r.port n { t with ep := { t.ep with
        replays := t.ep.replays.map fun y => if y.lost == lost.val && y.fn == fn.val then { y with nps := [], coverSeq := n } else y } }
      exec (.replayComplete lost fn) s = .next (errOutputs (settle (kickWaiting (prgSendAll
        (if n ≤ (hport r.port u).covered then u else flushWork r.port fn.val u))))))) ∧
  (∀ (lost : HP) (fn : Fn) (s : State), s.ep.replays.find? (fun r => r.lost == lost.val && r.fn == fn.val) = none →
    exec (.replayComplete lost fn) s = .next (errOutputs (settle (kickWaiting (prgSendAll s))))) ∧
  (∀ (fn : Fn) (b : Fin 64) (s : State), s.ep.moves.find? (fun m => m.fn == fn.val && m.bucket == b.val) = none →
    exec (.bucketMove fn b) s = .next (errOutputs (settle s))) ∧
  (∀ (fn : Fn) (b : Fin 64) (m : BucketMove) (s : State),
    s.ep.moves.find? (fun m => m.fn == fn.val && m.bucket == b.val) = some m →
    ((hport m.src s).covered < m.need → exec (.bucketMove fn b) s = .next (errOutputs (settle s))) ∧
    (m.need ≤ (hport m.src s).covered → ∃ x, exec (.bucketMove fn b) s = .next (errOutputs (settle (kickWaiting x))) ∧
      mget (func fn.val x).route b.val = some m.dst ∧ (∀ y ∈ x.ep.moves, ¬(y.fn = fn.val ∧ y.bucket = b.val)) ∧
      x.que = s.que ∧ x.reg = s.reg)) ∧
  (∀ (p : HP) (s : State), linkUp p.val s = true → (hport p.val s).lstate = .l0 → 64 ≤ (hport p.val s).idle →
    (hport p.val s).nps = [] → (hport p.val s).uq = [] → cfgBit 0 p.val 0x18 1 s = true →
    ∃ x, exec (.aspmL1Entry p) s = .next (errOutputs x) ∧ hport p.val x = { hport p.val s with lstate := .l1 } ∧
      x.out = s.out ++ [.host p.val .enterL1] ∧ (∀ q : HP, q ≠ p → hport q.val x = hport q.val s) ∧ x.que = s.que) ∧
  (∀ (p : HP) (s : State), linkUp p.val s = false ∨ (hport p.val s).lstate ≠ .l0 ∨ (hport p.val s).idle < 64 ∨
    (hport p.val s).nps ≠ [] ∨ (hport p.val s).uq ≠ [] ∨ cfgBit 0 p.val 0x18 1 s = false →
    exec (.aspmL1Entry p) s = .next (errOutputs s)) ∧
  (∀ (p : HP) (s : State), linkUp p.val s = false ∨ (hport p.val s).lstate = .l1 →
    exec (.l0pRequest p) s = .next (errOutputs s)) ∧
  (∀ (p : HP) (s : State), linkUp p.val s = true → (hport p.val s).lstate ≠ .l1 →
    let h := hport p.val s
    (h.lstate = .l0p → portUnits (lanesOf h.width) h.rate * 60 / 100 < h.queued →
      ∃ x, exec (.l0pRequest p) s = .next (errOutputs x) ∧ hport p.val x = { h with width := h.trained, lstate := .l0, lowTicks := 0 } ∧
        x.out = s.out ++ [.host p.val (.l0p (lanesOf h.trained))]) ∧
    (h.lstate ≠ .l0p ∨ h.queued ≤ portUnits (lanesOf h.width) h.rate * 60 / 100 →
      (1024 ≤ h.lowTicks → 4 < lanesOf h.width →
        ∃ x, exec (.l0pRequest p) s = .next (errOutputs x) ∧ hport p.val x = { h with width := h.width + 1, lstate := .l0p, lowTicks := 0 } ∧
          x.out = s.out ++ [.host p.val (.l0p (lanesOf h.width / 2))]) ∧
      (h.lowTicks < 1024 ∨ lanesOf h.width ≤ 4 → exec (.l0pRequest p) s = .next (errOutputs s)))) ∧
  (∀ (p : HP) (w : Fin 3) (s : State), linkUp p.val s = true →
    ∃ x, exec (.hostL0pRequest p w) s = .next (errOutputs x) ∧ (hport p.val x).width = max w.val (hport p.val s).trained ∧
      x.out.getLast? = some (.host p.val (.l0pGrant (lanesOf w.val))) ∧ x.que = s.que ∧ x.reg = s.reg) ∧
  (∀ (p : HP) (w : Fin 3) (s : State), linkUp p.val s = false → exec (.hostL0pRequest p w) s = .next (errOutputs s)) ∧
  (∀ (fn : Fn) (p : HP) (s : State), (mgetD s.ep.insts (4 * fn.val + p.val) {}).pmeStatus = false ∨ linkUp p.val s = false →
    exec (.pmeResend fn p) s = .next (errOutputs s)) ∧
  (∀ (fn : Fn) (p : HP) (s : State), (mgetD s.ep.insts (4 * fn.val + p.val) {}).pmeStatus = true → linkUp p.val s = true →
    ∃ x, exec (.pmeResend fn p) s = .next (errOutputs x) ∧ x = tell p.val (.pme fn.val) s ∧ x.out = told p.val (.pme fn.val) s ∧ (hport p.val x).lstate ≠ .l1 ∧
      x.que = s.que ∧ x.reg = s.reg)

/-- CONFIG_REQUEST answers Request Retry Status before phase 5 has ended, afterwards a read returns its double word
and a plain write stores the bits that a host may write; a write to the instance that received a function-level
reset is held until the reset ends (R80, R100, R112, log 20). VF_ENABLE_CHANGE writes VF Enable and makes the
instances follow it (R101, R114). PRI_ENABLE_WRITE ends the stop of PRI with the first set after a clear (R164).
POWER_STATE_CHANGE moves an instance between D0 and D3hot (R108). MSIX_TABLE_WRITE writes an entry, or nothing
where the page is not open or beyond the function's count (R105, R106). -/
def Obligations.ConfigurationSpace : Prop :=
  (∀ (p : HP) (fn : Fn) (r : CfgReq) (s : State), (hport p.val s).link = 2 →
    (mgetD s.ep.insts (4 * fn.val + p.val) {}).cold = false → s.spl.recovery = false → s.spl.ended.contains 5 = false →
    exec (.configRequest p fn r) s = .next (errOutputs (settle (tell p.val (.cfgRetry fn.val) s)))) ∧
  (∀ (p : HP) (fn : Fn) (dw : Fin 1024) (s : State), (hport p.val s).link = 2 → instAt fn.val p.val s = true →
    (mgetD s.ep.insts (4 * fn.val + p.val) {}).cold = false → s.spl.ended.contains 5 = true →
    exec (.configRequest p fn (.read dw)) s = .next (errOutputs (settle (tell p.val (.cfgCpl fn.val (cfgRead fn.val p.val dw.val s)) s)))) ∧
  (∀ (p : HP) (fn : Fn) (be : BitVec 4) (v : W32) (s : State), (hport p.val s).link = 2 → instAt fn.val p.val s = true →
    (mgetD s.ep.insts (4 * fn.val + p.val) {}).cold = false → s.spl.ended.contains 5 = true → cfgHeld fn.val p.val s = false →
    ∃ x, exec (.configRequest p fn (.write 15 be v)) s = .next (errOutputs (settle x)) ∧
      x.out = told p.val (.cfgCpl fn.val 0) s ∧ x.reg = s.reg ∧ x.que = s.que ∧
      (be = 1 → (cfgDw fn.val p.val 15 x).toNat % 256 = v.toNat % 256)) ∧
  (∀ (p : HP) (fn : Fn) (dw : Fin 1024) (be : BitVec 4) (v : W32) (s : State), (hport p.val s).link = 2 → instAt fn.val p.val s = true →
    (mgetD s.ep.insts (4 * fn.val + p.val) {}).cold = false → s.spl.ended.contains 5 = true → cfgHeld fn.val p.val s = true →
    ∃ x, exec (.configRequest p fn (.write dw be v)) s = .next (errOutputs (settle x)) ∧ x.out = s.out ∧ x.ep.insts = s.ep.insts ∧
      (func fn.val x).heldCfg = (func fn.val s).heldCfg ++ [⟨p.val, true, .write dw be v⟩]) ∧
  (∀ (p : HP) (on : Bool) (num : BitVec 16) (s : State), instAt 0 p.val s = true → linkUp p.val s = true → cfgHeld 0 p.val s = false →
    ∃ x, exec (.vfEnableChange p on num) s = .next (errOutputs (settle (vfApply p.val x))) ∧
      cfgBit 0 p.val 0xC2 0 x = on ∧ (cfgDw 0 p.val 0xC4 x).toNat = num.toNat ∧ x.reg = s.reg ∧ x.que = s.que) ∧
  (∀ (fn : Fn) (p : HP) (s : State), instAt fn.val p.val s = true → linkUp p.val s = true → cfgHeld fn.val p.val s = false → (func fn.val s).priStopped = true →
    ∃ x, exec (.priEnableWrite fn p false) s = .next (errOutputs (settle x)) ∧ instPri fn.val p.val x = false ∧
      (func fn.val x).priStopped = true ∧ (func fn.val x).priCleared = true ∧ x.out = s.out) ∧
  (∀ (fn : Fn) (p : HP) (s : State), instAt fn.val p.val s = true → linkUp p.val s = true → cfgHeld fn.val p.val s = false → (func fn.val s).priStopped = true →
    (func fn.val s).priCleared = true →
    ∃ x, exec (.priEnableWrite fn p true) s = .next (errOutputs (settle (prgSendAll x))) ∧ instPri fn.val p.val x = true ∧
      (func fn.val x).priStopped = false ∧ (func fn.val x).priCleared = false) ∧
  (∀ (fn : Fn) (p : HP) (hot : Bool) (s : State), instAt fn.val p.val s = true → linkUp p.val s = true →
    (mgetD s.ep.insts (4 * fn.val + p.val) {}).cold = false → cfgHeld fn.val p.val s = false →
    ∃ x, exec (.powerStateChange fn p hot) s = .next (errOutputs (settle (instChanged fn.val p.val x))) ∧
      (cfgDw fn.val p.val 0x11 x).toNat % 4 = (if hot then 3 else 0) ∧ x.reg = s.reg ∧ x.que = s.que) ∧
  (∀ (t : Tlp) (p : HP) (fn : Fn) (vec : Fin 2048) (dw : Fin 4) (v : W32) (s : State), outsideIde t p.val s = false →
    fnOpen p.val fn.val s = true → vec.val < (func fn.val s).vectors → s.ep.msixPending.contains (vecKey fn.val vec.val) = false →
    exec (.msixTableWrite ⟨t, p⟩ fn vec dw v) s = .next (errOutputs (settle { s with ep := { s.ep with
      msix := mset s.ep.msix (vecKey fn.val vec.val) (msixPut dw.val v (mgetD s.ep.msix (vecKey fn.val vec.val) {})) } }))) ∧
  (∀ (t : Tlp) (p : HP) (fn : Fn) (vec : Fin 2048) (dw : Fin 4) (v : W32) (s : State), outsideIde t p.val s = false →
    (fnOpen p.val fn.val s = false ∨ (func fn.val s).vectors ≤ vec.val) →
    exec (.msixTableWrite ⟨t, p⟩ fn vec dw v) s = .next (errOutputs (settle s)))

/-- FUNCTION_LEVEL_RESET through an instance on a port whose link is up raises the generation of the function, stops
its admission, completes its host-window reads with zero data, destroys its contexts, drops its admin queues and
discards its posted writes at every port; of the physical function it also clears VF Enable; during a reset a
second one starts nothing (R112, R113). FLR_COMPLETE, once its contexts are gone, ends it: the MSI-X table is
that of reset, FLR_DONE is set and the configuration writes that waited are made (R111, R112); before that it
does nothing. ADMIN_ENABLE with aligned rings and K in 4 to 12 makes the admin queue of the function run;
otherwise it sets only ERROR (R125). -/
def Obligations.FunctionResets : Prop :=
  (∀ (fn : Fn) (p : HP) (s : State), fn ≠ 0 → instAt fn.val p.val s = true → linkUp p.val s = true →
    s.spl.ended.contains 5 = true → (func fn.val s).flrBusy = false → AuditRoom s → s.que.ctxs = [] → s.que.queues = [] → s.que.reqs = [] →
    ∃ x, exec (.functionLevelReset fn p) s = .next (errOutputs (settle x)) ∧ (func fn.val x).flrBusy = true ∧
      (func fn.val x).gen = ((func fn.val s).gen + 1) % 65536 ∧ (func fn.val x).winActive = false ∧ (∀ w ∈ x.ep.winReads, w.fn ≠ fn.val) ∧
      (∀ q : HP, (hport q.val x).replay = (hport q.val s).replay.filter (fun e => e.fn != fn.val)) ∧
      x.que = s.que ∧ x.reg = s.reg ∧ x.rsvr = s.rsvr ∧ x.env = s.env) ∧
  (∀ (fn : Fn) (p : HP) (s : State), instAt fn.val p.val s = true → linkUp p.val s = true →
    s.spl.ended.contains 5 = true → (func fn.val s).flrBusy = false →
    let a := dropLanding fn.val (winReadsEnd fn.val (auditO .reset 4 fn.val ((func fn.val s).env.getD noEnv) false [BitVec.ofNat 64 fn.val] s))
    let b : State := { a with ep := { a.ep with funcs := mset a.ep.funcs fn.val { func fn.val a with
      gen := ((func fn.val a).gen + 1) % 65536, flrBusy := true, flrPort := p.val, winActive := false } } }
    let c := each (ctxsOfFn fn.val b) (fun c x => destroyCtx c none x) b
    let d := each ((c.que.queues.filter fun e => e.2.ctx.isNone && e.2.fn == fn.val).map (·.1)) dropQueue c
    let e : State := { d with ep := { d.ep with
      ports := mmap (fun _ h => { h with uq := h.uq.filter fun e => e.fn != fn.val, replay := h.replay.filter fun e => e.fn != fn.val }) d.ep.ports
      parked := d.ep.parked.filter fun e => e.fn != fn.val
      replays := d.ep.replays.filter fun r => r.fn != fn.val
      moves := d.ep.moves.filter fun m => m.fn != fn.val } }
    (fn ≠ 0 → exec (.functionLevelReset fn p) s = .next (errOutputs (settle e))) ∧
    (fn = 0 → exec (.functionLevelReset fn p) s = .next (errOutputs (settle (vfApply p.val (setCfg 0 p.val 0xC2 0 e)))))) ∧
  (∀ (fn : Fn) (p : HP) (s : State), (func fn.val s).flrBusy = true ∨ instAt fn.val p.val s = false ∨
    linkUp p.val s = false ∨ s.spl.ended.contains 5 = false →
    exec (.functionLevelReset fn p) s = .next (errOutputs (settle s))) ∧
  (∀ (fn : Fn) (s : State), (func fn.val s).flrBusy = true → ctxsOfFn fn.val s = [] →
    ∃ x, exec (.flrComplete fn) s = .next (errOutputs (settle (fnChanged fn.val (each (func fn.val s).heldCfg (heldReq fn.val) x)))) ∧
      (func fn.val x).flrBusy = false ∧ (func fn.val x).heldCfg = [] ∧
      bit (regRaw rEPT_EVENT x) 16 = true ∧ (∀ e ∈ x.ep.msix, e.1 / 2048 ≠ fn.val)) ∧
  (∀ (fn : Fn) (s : State), (func fn.val s).flrBusy = false ∨ ctxsOfFn fn.val s ≠ [] →
    exec (.flrComplete fn) s = .next (errOutputs (settle s))) ∧
  (∀ (p : HP) (fn : Fn) (s : State), fnOpen p.val fn.val s = false ∨ bit (regRaw (fnKey fn.val fQUE_ADMIN_CTRL) s) 0 = true →
    exec (.adminEnable p fn) s = .next (errOutputs (settle s))) ∧
  (∀ (p : HP) (fn : Fn) (s : State), fnOpen p.val fn.val s = true →
    bit (regRaw (fnKey fn.val fQUE_ADMIN_CTRL) s) 0 = false →
    fld (regRaw (fnKey fn.val fQUE_ADMIN_RING) s) 0 12 = 0 → fld (regRaw (fnKey fn.val fQUE_ADMIN_CPL) s) 0 12 = 0 →
    4 ≤ regFld (fnKey fn.val fQUE_ADMIN_CFG) 0 5 s → regFld (fnKey fn.val fQUE_ADMIN_CFG) 0 5 s ≤ 12 →
    let t := each ((s.que.queues.filter fun e => e.2.ctx.isNone && e.2.fn == fn.val).map (·.1)) dropQueue s
    (takeSlot 65536 t.que.queSlots = none → ∃ x, exec (.adminEnable p fn) s = .next (errOutputs (settle x)) ∧
      (func fn.val x).adminErr = true ∧ x.que = t.que ∧ x.reg = t.reg) ∧
    (∀ (i : Nat) (sl : Slots), takeSlot 65536 t.que.queSlots = some (i, sl) →
      ∃ x, exec (.adminEnable p fn) s = .next (errOutputs (settle x)) ∧
        bit (regRaw (fnKey fn.val fQUE_ADMIN_CTRL) x) 0 = true ∧ (func fn.val x).adminErr = false ∧ x.que.queSlots = sl ∧
        (∃ q, mget x.que.queues i = some q ∧ q.fn = fn.val ∧ q.ctx = none ∧ q.fetchMax = 64 ∧ q.db = 0 ∧ q.head = 0 ∧ q.tail = 0 ∧
          q.ring = (regRaw (fnKey fn.val fQUE_ADMIN_RING) s).toNat ∧ q.cpl = (regRaw (fnKey fn.val fQUE_ADMIN_CPL) s).toNat ∧
          q.k = regFld (fnKey fn.val fQUE_ADMIN_CFG) 0 5 s ∧ q.vector = regFld (fnKey fn.val fQUE_ADMIN_CFG) 16 11 s))) ∧
  (∀ (p : HP) (fn : Fn) (s : State), fnOpen p.val fn.val s = true →
    bit (regRaw (fnKey fn.val fQUE_ADMIN_CTRL) s) 0 = false →
    fld (regRaw (fnKey fn.val fQUE_ADMIN_RING) s) 0 12 ≠ 0 ∨ fld (regRaw (fnKey fn.val fQUE_ADMIN_CPL) s) 0 12 ≠ 0 ∨
      regFld (fnKey fn.val fQUE_ADMIN_CFG) 0 5 s < 4 ∨ 12 < regFld (fnKey fn.val fQUE_ADMIN_CFG) 0 5 s →
    ∃ x, exec (.adminEnable p fn) s = .next (errOutputs (settle x)) ∧ (func fn.val x).adminErr = true ∧
      x.que = s.que ∧ x.reg = s.reg)

/-- DOE_REQUEST lists its protocols, takes note of an SPDM session set up or ended, and inside one programs an IDE
key, starts and stops a stream; outside one IDE_KM does nothing (R116); the SPDM answers are the model's own
(log 23). IDE_INTEGRITY_FAILURE raises a fault of the port and makes it insecure (R118). VEC_ALLOC sets the
count of the selected virtual function where the pool holds it, and refuses a count of 0 (R105); HDM_MAP_WRITE
takes effect at the next edge, and a change of ENV or OFFSET_GIB of a valid map under a committed decoder is
discarded with HDM_REFUSED and leaves nothing for a later upper half (R11, R97). Both registers are written
under the audit log's rule (R414). -/
def Obligations.DoeAndPools : Prop :=
  (∀ (p : HP) (i : Nat) (s : State), (hport p.val s).link = 2 → instAt 0 p.val s = true → i < 2 →
    exec (.doeRequest p (.discovery i)) s = .next (errOutputs (settle (tell p.val (.doe [1, i, i + 1]) s)))) ∧
  (∀ (p : HP) (n : List Byte) (o : Option Bool) (s : State), (hport p.val s).link = 2 → instAt 0 p.val s = true →
    ∃ x, exec (.doeRequest p (.spdm n o)) s = .next (errOutputs (settle x)) ∧ (hport p.val x).spdm = o.getD (hport p.val s).spdm ∧
      (hport p.val x).ideKeys = (hport p.val s).ideKeys ∧ (hport p.val x).ideRun = (hport p.val s).ideRun) ∧
  (∀ (p : HP) (st : Fin 9) (k : Nat) (s : State), (hport p.val s).link = 2 → instAt 0 p.val s = true → (hport p.val s).spdm = true →
    ∃ x, exec (.doeRequest p (.ideKeyProg st k)) s = .next (errOutputs (settle x)) ∧ mget (hport p.val x).ideKeys st.val = some k ∧
      (hport p.val x).ideRun = (hport p.val s).ideRun ∧ (AuditRoom s → x.reg = s.reg)) ∧
  (∀ (p : HP) (st : Fin 9) (k : Nat) (s : State), (hport p.val s).spdm = false →
    exec (.doeRequest p (.ideKeyProg st k)) s = .next (errOutputs (settle s)) ∧
    exec (.doeRequest p (.ideGo st)) s = .next (errOutputs (settle s)) ∧
    exec (.doeRequest p (.ideStop st)) s = .next (errOutputs (settle s))) ∧
  (∀ (p : HP) (st : Fin 9) (s : State), (hport p.val s).link = 2 → instAt 0 p.val s = true → (hport p.val s).spdm = true →
    (mget (hport p.val s).ideKeys st.val).isSome = true → (hport p.val s).st = .up →
    ∃ x, exec (.doeRequest p (.ideGo st)) s = .next (errOutputs (settle (tell p.val (.doe [5]) (portChanged p.val x)))) ∧
      hport p.val x = { hport p.val s with ideRun := insNat st.val (hport p.val s).ideRun, ideSecure := true }) ∧
  (∀ (p : HP) (s : State), ideUp p.val s = true → s.spl.recovery = false →
    ∃ x, exec (.ideIntegrityFailure p) s = .next (errOutputs (settle (portLost p.val .down x))) ∧
      (hport p.val x).ideSecure = false ∧ ideUp p.val x = false ∧ (hport p.val x).ideKeys = [] ∧
      bit (regRaw rEPT_EVENT x) (12 + p.val) = true ∧
      x.weir.raised = s.weir.raised ++ [⟨32 + p.val, .ideFail, none, none, 0⟩]) ∧
  (∀ (p : HP) (v : W32) (s : State), mgrOpen p.val rEPT_VEC_ALLOC s = false → exec (.vecAlloc p v) s = .next (errOutputs s)) ∧
  (∀ (p : HP) (v : W32) (s : State), mgrOpen p.val rEPT_VEC_ALLOC s = true → mayClassC s = true →
    exec (.vecAlloc p v) s = .next (errOutputs (vecAllocDo p.val v s))) ∧
  (∀ (p : HP) (v : W32) (s : State),
    let fn := (selGet p.val rEPT_FUNC_SEL s).toNat
    let n := v.toNat % 4096
    let own := if (func fn s).env.isSome ∨ (func fn s).vectors ≠ 1 then (func fn s).vectors else 0
    (fn = 0 ∨ 256 < fn ∨ n = 0 ∨ 2048 < n ∨ (∃ q : HP, instAt fn q.val s = true ∧ instMsixEn fn q.val s = true) ∨
      65536 < 2048 + (vecUsed s - own) + n →
      (vecAllocDo p.val v s).ep = { s.ep with vecRefused := true } ∧ (vecAllocDo p.val v s).que = s.que) ∧
    (0 < fn → fn ≤ 256 → 0 < n → n ≤ 2048 → (∀ q : HP, instAt fn q.val s = false ∨ instMsixEn fn q.val s = false) →
      2048 + (vecUsed s - own) + n ≤ 65536 →
      (func fn (vecAllocDo p.val v s)).vectors = n ∧ (vecAllocDo p.val v s).ep.vecRefused = false ∧
        (∀ g : Nat, g ≠ fn → func g (vecAllocDo p.val v s) = func g s) ∧ (vecAllocDo p.val v s).que = s.que)) ∧
  (∀ (p : HP) (n : Fin 16) (w : RegW) (v : W64) (s s' : State), mgrOffer p.val (rEPT_HDM_MAP + 8 * n.val) w s = (some v, s') →
    mayClassC s' = true → exec (.hdmMapWrite p n w) s = .next (errOutputs (hdmDo n.val v s'))) ∧
  (∀ (p : HP) (n : Fin 16) (w : RegW) (s s' : State), mgrOffer p.val (rEPT_HDM_MAP + 8 * n.val) w s = (none, s') →
    exec (.hdmMapWrite p n w) s = .next (errOutputs s')) ∧
  (∀ (n : Fin 16) (v : W64) (s : State), let k := rEPT_HDM_MAP + 8 * n.val
    (mget s.ep.hdm n.val = none ∨ bit (regRaw k s) 0 = false ∨
      (fld (regRaw k s) 1 8 = fld v 1 8 ∧ fld (regRaw k s) 32 13 = fld v 32 13) →
      mget (hdmDo n.val v s).ep.hdmNext n.val = some (v &&& 0x00001FFF000001FF) ∧ regRaw k (hdmDo n.val v s) = regRaw k s ∧
        mget (hdmDo n.val v s).reg.last k = some (v &&& 0x00001FFF000001FF)) ∧
    ((mget s.ep.hdm n.val).isSome = true → bit (regRaw k s) 0 = true →
      fld (regRaw k s) 1 8 ≠ fld v 1 8 ∨ fld (regRaw k s) 32 13 ≠ fld v 32 13 →
      (hdmDo n.val v s).ep.hdmNext = s.ep.hdmNext ∧ (hdmDo n.val v s).reg.last = s.reg.last ∧
        bit (regRaw rEPT_EVENT (hdmDo n.val v s)) 18 = true))

/-- TICK_EDGE is the work of Table 2-2 in its order, of which a chip that a sluice stop freezes does the tether, the
sync and the flushes of its ports only; in it the tether goes to the next multiple of 16,000, or makes the step
that STEP_GO asked for, the counts of ticks with and without sync go on, and ERR_BOUND grows by 0.05 ps per tick
in HOLDOVER and 2 ps per tick in FREE_RUN and STEP_PENDING (R24, R34, R36, R38, R40). LINK_DELAY_EXCHANGE stamps
a request on every link that is up; DELAY turns the returned stamps into the link's delay, half of the round
trip less the time at the far end (R31). SYNC of the domain on a link of a follower is kept, and a lone link
gives the offset and the hops (R32); of two links heard in the tick, the edge excludes the one that differs from
the chosen one by more than 400 ps, with LINK_DISAGREE (R32; that it is judged at the edge and that an excluded
link's sync is ignored are the model's choices of log 116). -/
def Obligations.TetherClock : Prop :=
  (∀ (cycles : BitVec 16) (ref10m : Bool) (s e m : State),
    e = (if frozen s then edgeFirst cycles.toNat ref10m s else parkPieces (edgeFirst cycles.toNat ref10m s)) →
    m = each (List.range 4) portTick (syncSend (if frozen e then e else bindingEdge (guaranteeEdge e))) →
    exec (.tickEdge cycles ref10m) s = .next (errOutputs (settle (if frozen m then m else edgeWork m)))) ∧
  (∀ (cycles : Nat) (ref10m : Bool) (s : State), s.time.stepGo = false →
    (tetherEdge cycles ref10m s).time.now = (if (tick s + 1) * 16000 < 2 ^ 64 then BitVec.ofNat 64 ((tick s + 1) * 16000) else 0) ∧
    (tetherEdge cycles ref10m s).time.cycPerTick = cycles ∧
    (tetherEdge cycles ref10m s).time.noSync = (if s.time.syncThisTick then 0 else s.time.noSync + 1) ∧
    (tetherEdge cycles ref10m s).time.syncRun = (if s.time.syncThisTick then s.time.syncRun + 1 else 0) ∧
    (s.time.st = .holdover → s.time.slewTicks = none →
      (tetherEdge cycles ref10m s).time.errBound20 = s.time.errBound20 + 1) ∧
    (s.time.st = .freeRun → s.time.slewTicks = none →
      (tetherEdge cycles ref10m s).time.errBound20 = s.time.errBound20 + 40)) ∧
  (∀ (cycles : Nat) (ref10m : Bool) (s : State), s.time.stepGo = true → s.time.st = .stepPending →
    (tetherEdge cycles ref10m s).time.now =
      (if (tick s + 1) * 16000 < 2 ^ 64 then BitVec.ofNat 64 ((tick s + 1) * 16000) else 0) - BitVec.ofInt 64 s.time.stepOffset ∧
    (tetherEdge cycles ref10m s).time.st = .locked ∧
    (tetherEdge cycles ref10m s).time.stepCount = min (s.time.stepCount + 1) 65535) ∧
  (∀ (ofs : BitVec 18) (s : State), exec (.linkDelayExchange ofs) s = .next (errOutputs (each (linksUp s) (fun l x =>
    flSend l 0 1 (.delayReq (BitVec.ofNat 68 (s.time.now.toNat * 16 + ofs.toNat)))
      { x with time := { x.time with exchange := mset x.time.exchange l (BitVec.ofNat 68 (s.time.now.toNat * 16 + ofs.toNat)) } }) s))) ∧
  (∀ (l : FL) (t2 t3 t4 : Stamp) (s : State),
    (∀ t1 : Stamp, mget s.time.exchange l.val = some t1 →
      exec (.delay l t2 t3 t4) s = .next (errOutputs { s with time := { s.time with
        exchange := mdel s.time.exchange l.val
        linkDelay := mset s.time.linkDelay l.val (linkDelayOf t1 t2 t3 t4) } })) ∧
    (mget s.time.exchange l.val = none → exec (.delay l t2 t3 t4) s = .next (errOutputs s))) ∧
  (∀ (t1 t2 t3 t4 : Stamp) (d : Nat), d < 2 ^ 24 → t3.toNat - t2.toNat + 2 * d < 2 ^ 67 → t2.toNat ≤ t3.toNat →
    t4 = t1 + (t3 - t2) + BitVec.ofNat 68 (2 * d) → linkDelayOf t1 t2 t3 t4 = d) ∧
  (∀ (l : FL) (m : SyncMsg) (s : State), s.time.isRoot = false → (linksUp s).contains l.val = true → m.domain = s.spl.img.domainId →
    (s.time.excluded.contains l.val = false → ∃ x : Int × Nat, exec (.sync l m) s = .next (errOutputs { s with time := { s.time with
      heard := mset s.time.heard l.val (syncOffset l.val m s, m), syncThisTick := true, offset := x.1, hops := x.2 } })) ∧
    (s.time.excluded.contains l.val = false → s.time.heard = [] →
      exec (.sync l m) s = .next (errOutputs { s with time := { s.time with
        heard := [(l.val, (syncOffset l.val m s, m))], syncThisTick := true,
        offset := syncOffset l.val m s, hops := min 7 m.hops } })) ∧
    (s.time.excluded.contains l.val = true → exec (.sync l m) s = .next (errOutputs s))) ∧
  (∀ (a b : Nat) (x y : Int × SyncMsg) (s : State), s.time.heard = [(a, x), (b, y)] → a < b → s.time.excluded = [] →
    (linksUp s).contains a = true → (linksUp s).contains b = true → x.2.hops ≤ y.2.hops →
    (disagree y.1 x.1 = true → (syncJudge s).time.excluded = [b] ∧ bit (regRaw rTTH_EVENT (syncJudge s)) 4 = true) ∧
    (disagree y.1 x.1 = false → (syncJudge s).time.excluded = [] ∧ (syncJudge s).reg = s.reg))

/-- ELECT by the manager starts an election; ELECTION_COMPLETE records the lowest claim as the root and ends the
election (R28). The 1 PPS edge advances the tether of a new root of REF_QUALITY 0 to the next multiple of
16,000,000,000, and is otherwise noted only (R29, R48). REFERENCE_ABSENT marks an input absent; at the time root
whose input was present a new election starts, with a level-0 event (R48). -/
def Obligations.Elections : Prop :=
  (∀ (p : HP) (s : State), mgrOpen p.val rTTH_CTRL s = true → mayClassC s = true →
    ∃ x, exec (.elect p) s = .next (errOutputs x) ∧ x.time = { s.time with st := .acquire, election := some 0 } ∧
      x.reg = s.reg ∧ x.out = s.out ∧ x.stalled = s.stalled) ∧
  (∀ (n : Nat) (c : RootClaim) (s : State), s.time.election = some n → winner s = some c →
    ∃ x, exec .electionComplete s = .next (errOutputs x) ∧ x.time.election = none ∧ x.time.rootChip = c.chip ∧
      x.time.rootPriority = c.priority ∧ x.time.isRoot = (rootCapable s && c.chip == s.spl.chip) ∧
      (s.time.isRoot = true → x.time.now = s.time.now) ∧ x.que = s.que ∧ x.spl = s.spl ∧ x.weir.raised = s.weir.raised) ∧
  (∀ (n : Nat) (s : State), s.time.election = some n → winner s = none →
    exec .electionComplete s = .next (errOutputs { s with time := { s.time with election := none } })) ∧
  (∀ s : State, s.time.isRoot = true → s.time.awaitPps = true →
    ∃ t : State, exec .ppsEdge s = .next (errOutputs t) ∧ t.port.refPps = true ∧ t.time.awaitPps = false ∧
      (s.time.now.toNat + 16000000000 ≤ 2 ^ 64 → t.time.now.toNat % 16000000000 = 0 ∧ s.time.now.toNat ≤ t.time.now.toNat ∧
        t.time.now.toNat < s.time.now.toNat + 16000000000)) ∧
  (∀ s : State, s.time.isRoot = false ∨ s.time.awaitPps = false →
    exec .ppsEdge s = .next (errOutputs { s with port := { s.port with refPps := true } })) ∧
  (∀ s : State, s.time.isRoot = true → s.port.refPps = true → s.spl.recovery = false →
    ∃ x, exec (.referenceAbsent true) s = .next (errOutputs x) ∧ x.port = { s.port with refPps := false } ∧
      x.time = { s.time with election := some 0 } ∧ x.weir.raised = s.weir.raised ++ [⟨0, .timeEvent, none, none, 0⟩]) ∧
  (∀ s : State, s.time.isRoot = false →
    exec (.referenceAbsent false) s = .next (errOutputs { s with port := { s.port with ref10m := false } }))

/-- HOLDOVER_ENTRY of a locked follower without valid sync for 4 ticks and FREE_RUN_ENTRY after HOLDOVER_TICKS in
HOLDOVER or an ERR_BOUND above 1,000 ps enter the state, set its event bit, raise a level-0 event and fire the
manager's TTH vector; before those limits they change nothing (R38, R39). After 16 ticks of valid sync
SYNC_REGAINED slews an offset of 100 ns or less away, and makes a larger one a pending step, with the vector
(R40). STEP_GO in STEP_PENDING asks for the step at the next edge behind its audit record, and is ignored
elsewhere (R40, Table 2-6). -/
def Obligations.LosingTheTether : Prop :=
  (∀ s : State, s.time.st = .locked → s.time.isRoot = false → 4 ≤ s.time.noSync → s.spl.recovery = false →
    ∃ x, exec .holdoverEntry s = .next (errOutputs x) ∧ x.time.st = .holdover ∧ x.time.election = some 0 ∧
      bit (regRaw rTTH_EVENT x) 0 = true ∧ x.weir.raised = s.weir.raised ++ [⟨0, .timeEvent, none, none, 0⟩] ∧
      x.time.now = s.time.now ∧ x.que = s.que ∧ x.spl = s.spl) ∧
  (∀ s : State, s.time.st ≠ .locked ∨ s.time.isRoot = true ∨ s.time.noSync < 4 → exec .holdoverEntry s = .next (errOutputs s)) ∧
  (∀ s : State, s.time.st = .holdover → s.spl.img.holdoverTicks ≤ s.time.holdTicks ∨ 20000 < s.time.errBound20 →
    s.spl.recovery = false →
    ∃ x, exec .freeRunEntry s = .next (errOutputs x) ∧ x.time.st = .freeRun ∧ bit (regRaw rTTH_EVENT x) 1 = true ∧
      x.weir.raised = s.weir.raised ++ [⟨0, .timeEvent, none, none, 0⟩] ∧ x.time.now = s.time.now ∧ x.que = s.que) ∧
  (∀ s : State, s.time.st ≠ .holdover ∨ (s.time.holdTicks < s.spl.img.holdoverTicks ∧ s.time.errBound20 ≤ 20000) →
    exec .freeRunEntry s = .next (errOutputs s)) ∧
  (∀ s : State, s.time.st = .holdover ∨ s.time.st = .freeRun → 16 ≤ s.time.syncRun → s.time.slewTicks = none →
    s.time.isRoot = false → s.time.offset.natAbs ≤ 25600 →
    ∃ x, exec .syncRegained s = .next (errOutputs x) ∧ x.time.stepCount = s.time.stepCount ∧
      ((s.time.offset = 0 ∧ x.time.st = .locked) ∨ (∃ n, 0 < n ∧ n ≤ 2000 ∧ x.time.slewTicks = some n ∧ x.time.st = s.time.st)) ∧
      x.out = s.out ∧ x.reg = s.reg) ∧
  (∀ s : State, s.time.st = .holdover ∨ s.time.st = .freeRun → 16 ≤ s.time.syncRun → s.time.slewTicks = none →
    s.time.isRoot = false → 25600 < s.time.offset.natAbs →
    exec .syncRegained s = .next (errOutputs (fire 0 (regFld rSYN_MGR_VEC 0 11 s) { s with time := { s.time with
      st := .stepPending, stepOffset := s.time.offset / 16 } }))) ∧
  (∀ (p : HP) (s : State), mgrOpen p.val rTTH_CTRL s = true → s.time.st = .stepPending → mayClassC s = true →
    ∃ x, exec (.stepGo p) s = .next (errOutputs x) ∧ x.time = { s.time with stepGo := true } ∧ x.out = s.out ∧ x.reg = s.reg ∧
      (s.obs.auditOn = true → x.obs.auditSeq = s.obs.auditSeq + 1)) ∧
  (∀ (p : HP) (s : State), s.time.st ≠ .stepPending → exec (.stepGo p) s = .next (errOutputs s))

/-- REGISTER_WRITE, inside the IDE stream where the port requires one (R117), through an open window: a 32-bit
register takes the bits with access RW and clears the bits written 1 with access W1C (R9); the lower half of a
64-bit register is only held, for its port, and the upper half makes the held value take effect (R11); a write
of another size or alignment, and one through a port without the window, changes nothing (R10, R99). The
registers named here stand for the others with their access codes. -/
def Obligations.PlainRegisters : Prop :=
  (∀ (t : Tlp) (p : HP) (v : W64) (s : State), outsideIde t p.val s = false → mgrOpen p.val rTRN_PRI_TIMEOUT s = true → (regRaw rTRN_PRI_TIMEOUT s).toNat < 2 ^ 32 →
    exec (.registerWrite ⟨t, p⟩ 0 0x20018 (some (.full v))) s = .next (errOutputs { s with reg := { s.reg with
      val := mset s.reg.val rTRN_PRI_TIMEOUT (BitVec.ofNat 64 (v.toNat % 2 ^ 32)) } })) ∧
  (∀ (t : Tlp) (p : HP) (v : W64) (s : State), outsideIde t p.val s = false → mgrOpen p.val rTTH_EVENT s = true →
    exec (.registerWrite ⟨t, p⟩ 0 0x10008 (some (.full v))) s = .next (errOutputs { s with reg := { s.reg with
      val := mset s.reg.val rTTH_EVENT (regRaw rTTH_EVENT s &&& ~~~(BitVec.ofNat 64 (v.toNat % 64))) } })) ∧
  (∀ (t : Tlp) (p : HP) (v : W32) (s : State), outsideIde t p.val s = false → mgrOpen p.val rCOH_CTRL s = true →
    exec (.registerWrite ⟨t, p⟩ 0 0x2C000 (some (.lower v))) s = .next (errOutputs { s with reg := { s.reg with
      half := mset s.reg.half (4 * rCOH_CTRL + p.val) v } })) ∧
  (∀ (t : Tlp) (p : HP) (lo hi : W32) (s : State), outsideIde t p.val s = false → regRaw rSYN_MGR_VEC s &&& ~~~0x7FF07FF07FF = 0 → mget s.reg.half (4 * rSYN_MGR_VEC + p.val) = some lo →
    mgrOpen p.val rSYN_MGR_VEC s = true →
    ∃ x, exec (.registerWrite ⟨t, p⟩ 0 0x28010 (some (.upper hi))) s = .next (errOutputs x) ∧
      regRaw rSYN_MGR_VEC x = BitVec.ofNat 64 (lo.toNat % 2 ^ 11 + lo.toNat / 2 ^ 16 % 2 ^ 11 * 2 ^ 16 + hi.toNat % 2 ^ 11 * 2 ^ 32) ∧
      (∀ k, k ≠ rSYN_MGR_VEC → regRaw k x = regRaw k s) ∧ x.out = s.out ∧ x.que = s.que) ∧
  (∀ (t : Tlp) (p : HP) (v : W64) (s : State), outsideIde t p.val s = false → mgrOpen p.val rQUE_CTX_SEL s = true →
    exec (.registerWrite ⟨t, p⟩ 0 0x1C020 (some (.full v))) s = .next (errOutputs { s with reg := { s.reg with
      sel := mset s.reg.sel (4 * rQUE_CTX_SEL + p.val) (BitVec.ofNat 64 (v.toNat % 4096)) } })) ∧
  (∀ (t : Tlp) (p : HP) (fn : Fn) (off : BitVec 24) (w : Option RegW) (s : State), outsideIde t p.val s = true →
    exec (.registerWrite ⟨t, p⟩ fn off w) s = .next (errOutputs (countOutside p.val s))) ∧
  (∀ (t : Tlp) (p : HP) (fn : Fn) (off : BitVec 24) (s : State), outsideIde t p.val s = false →
    exec (.registerWrite ⟨t, p⟩ fn off none) s = .next (errOutputs s)) ∧
  (∀ (t : Tlp) (p : HP) (fn : Fn) (off : BitVec 24) (w : Option RegW) (s : State), outsideIde t p.val s = false →
    (off.toNat < 0x10000 → fnOpen p.val fn.val s = false) → (0x10000 ≤ off.toNat → mgrOpen p.val off.toNat s = false) →
    exec (.registerWrite ⟨t, p⟩ fn off w) s = .next (errOutputs s))

/-- COUNT_READ of the counts of an event register, four at once or two, returns them and clears exactly those;
elsewhere it returns 0 (R248, R420). FAULT_RECORD_READ of word 0 returns the record's first bits and latches it
for the port, later words come from what was latched, and the read of the last word clears the record (R178).
CTX_FAULT_READ returns the selected context's fault record, or a half of it, and clears what it returned (R10,
Table 6-16). Each answers with the attributes of its request (R119), and outside the IDE stream of a port that
requires one with Unsupported Request (R117). HOLD_EXPIRY clears HOLD 1,000 ticks after it was set and not
before (R402). -/
def Obligations.ReadsThatClear : Prop :=
  (∀ (t : Tlp) (p : HP) (tag : BitVec 14) (s : State), outsideIde t p.val s = false → mgrOpen p.val 0x13000 s = true →
    readArrives p.val 0 s = true → instMse 0 p.val s = true → instD0 0 p.val s = true → ideOk p.val s = true →
    ∃ x, exec (.countRead ⟨t, p⟩ 0 0x13000 true tag) s = .next (errOutputs x) ∧
      x.out = told p.val (.cpl 0 tag.toNat (toBytes 8 (countWord rTTH_EVENT 0 4 s)) false t.attr) s ∧
      x.reg = { s.reg with cnt := mdel (mdel (mdel (mdel s.reg.cnt (64 * rTTH_EVENT)) (64 * rTTH_EVENT + 1))
        (64 * rTTH_EVENT + 2)) (64 * rTTH_EVENT + 3) } ∧ x.que = s.que) ∧
  (∀ (t : Tlp) (p : HP) (fn : Fn) (off : BitVec 24) (wide : Bool) (tag : BitVec 14) (s : State),
    outsideIde t p.val s = true → readArrives p.val fn.val s = true →
    exec (.countRead ⟨t, p⟩ fn off wide tag) s =
      .next (errOutputs (tell p.val (.unsupported fn.val tag.toNat t.attr) (countOutside p.val s)))) ∧
  (∀ (t : Tlp) (p : HP) (fn : Fn) (tag : BitVec 14) (s : State), outsideIde t p.val s = false →
    fnOpen p.val fn.val s = true → readArrives p.val fn.val s = true →
    instMse fn.val p.val s = true → instD0 fn.val p.val s = true → ideOk p.val s = true →
    ∃ x, exec (.faultRecordRead ⟨t, p⟩ fn 0 false tag) s = .next (errOutputs x) ∧
      x.out = told p.val (.cpl fn.val tag.toNat
        (toBytes 4 ((faultWords (func fn.val s).fault).1.toNat % 2 ^ 32)) false t.attr) s ∧
      mget x.reg.latch (4 * fn.val + p.val) = some (faultWords (func fn.val s).fault) ∧
      (func fn.val x).fault = { (func fn.val s).fault with since := mset (func fn.val s).fault.since p.val none } ∧
      x.que = s.que) ∧
  (∀ (t : Tlp) (p : HP) (tag : BitVec 14) (c : Ctx) (s : State), outsideIde t p.val s = false →
    mgrOpen p.val rQUE_CTX_SEL s = true → readArrives p.val 0 s = true →
    instMse 0 p.val s = true → instD0 0 p.val s = true → ideOk p.val s = true →
    mget s.que.ctxs ((selGet p.val rQUE_CTX_SEL s).toNat % 4096) = some c →
    exec (.ctxFaultRead ⟨t, p⟩ false true tag) s = .next (errOutputs (tell p.val
      (.cpl 0 tag.toNat (toBytes 8 c.fault.toNat) false t.attr) { s with
      que := { s.que with ctxs := mset s.que.ctxs ((selGet p.val rQUE_CTX_SEL s).toNat % 4096) { c with fault := 0 } } }))) ∧
  (∀ (p fn tag : Nat) (a : BitVec 3) (d : List Byte) (s : State),
    (readArrives p fn s = false → cplRead p fn tag a d s = s) ∧
    (readArrives p fn s = true → instMse fn p s = false ∨ instD0 fn p s = false ∨ ideOk p s = false →
      cplRead p fn tag a d s = tell p (.unsupported fn tag a) s) ∧
    (readArrives p fn s = true → instMse fn p s = true → instD0 fn p s = true → ideOk p s = true →
      cplRead p fn tag a d s = tell p (.cpl fn tag d false a) s)) ∧
  (∀ (t : Tlp) (p : HP) (fn : Fn) (off : BitVec 24) (wide : Bool) (tag : BitVec 14) (s : State), outsideIde t p.val s = false →
    let n := if wide then 4 else 2
    let ok := if off.toNat < 0x10000 then fnOpen p.val fn.val s else mgrOpen p.val off.toNat s
    (∀ key o : Nat, countBlock fn.val off.toNat = some (key, o) → ok = true → o % (2 * n) = 0 →
      exec (.countRead ⟨t, p⟩ fn off wide tag) s = .next (errOutputs (cplRead p.val fn.val tag.toNat t.attr
        (toBytes (2 * n) (countWord key o n s)) { s with reg := { s.reg with
          cnt := (List.range n).foldl (fun c i => mdel c (64 * key + (o / 2 + i))) s.reg.cnt } }))) ∧
    (∀ key o : Nat, countBlock fn.val off.toNat = some (key, o) → ok = false ∨ o % (2 * n) ≠ 0 →
      exec (.countRead ⟨t, p⟩ fn off wide tag) s =
        .next (errOutputs (cplRead p.val fn.val tag.toNat t.attr (toBytes (2 * n) 0) s))) ∧
    (countBlock fn.val off.toNat = none → exec (.countRead ⟨t, p⟩ fn off wide tag) s =
      .next (errOutputs (cplRead p.val fn.val tag.toNat t.attr (toBytes (2 * n) 0) s)))) ∧
  (∀ (t : Tlp) (p : HP) (fn : Fn) (word : Fin 4) (wide : Bool) (tag : BitVec 14) (s : State), outsideIde t p.val s = false →
    let n := if wide then 8 else 4
    let cur := faultWords (func fn.val s).fault
    let vals := if word.val = 0 then cur else mgetD s.reg.latch (4 * fn.val + p.val) cur
    let a : State := if word.val = 0 then { s with
        reg := { s.reg with latch := mset s.reg.latch (4 * fn.val + p.val) cur }
        ep := { s.ep with funcs := mset s.ep.funcs fn.val { func fn.val s with fault :=
          { (func fn.val s).fault with since := mset (func fn.val s).fault.since p.val none } } } }
      else s
    let b : State := if word.val = 3 ∨ (wide = true ∧ word.val = 2) then { a with ep := { a.ep with
        funcs := mset a.ep.funcs fn.val { func fn.val a with fault := faultClear p.val (func fn.val a).fault } } }
      else a
    (fnOpen p.val fn.val s = true → wide = false ∨ word.val % 2 = 0 →
      exec (.faultRecordRead ⟨t, p⟩ fn word wide tag) s = .next (errOutputs (cplRead p.val fn.val tag.toNat t.attr
        (toBytes n ((vals.1.toNat + 2 ^ 64 * vals.2.toNat) / 2 ^ (32 * word.val) % 2 ^ (8 * n))) b))) ∧
    (fnOpen p.val fn.val s = false ∨ (wide = true ∧ word.val % 2 = 1) →
      exec (.faultRecordRead ⟨t, p⟩ fn word wide tag) s =
        .next (errOutputs (cplRead p.val fn.val tag.toNat t.attr (toBytes n 0) s)))) ∧
  (∀ (t : Tlp) (p : HP) (tag : BitVec 14) (s : State), outsideIde t p.val s = false →
    let i := (selGet p.val rQUE_CTX_SEL s).toNat % 4096
    (∀ hi wide : Bool, mgrOpen p.val rQUE_CTX_SEL s = false ∨ (wide = true ∧ hi = true) ∨ mget s.que.ctxs i = none →
      exec (.ctxFaultRead ⟨t, p⟩ hi wide tag) s =
        .next (errOutputs (cplRead p.val 0 tag.toNat t.attr (toBytes (if wide then 8 else 4) 0) s))) ∧
    (∀ c : Ctx, mgrOpen p.val rQUE_CTX_SEL s = true → mget s.que.ctxs i = some c →
      let left (v : W64) : State := { s with que := { s.que with ctxs := mset s.que.ctxs i { c with fault := v } } }
      let answers (hi wide : Bool) (d : List Byte) (v : W64) : Prop := exec (.ctxFaultRead ⟨t, p⟩ hi wide tag) s =
        .next (errOutputs (cplRead p.val 0 tag.toNat t.attr d (left v)))
      answers false true (toBytes 8 c.fault.toNat) 0 ∧
      answers false false (toBytes 4 (c.fault.toNat % 2 ^ 32)) (BitVec.ofNat 64 (c.fault.toNat - c.fault.toNat % 2 ^ 32)) ∧
      answers true false (toBytes 4 (c.fault.toNat / 2 ^ 32)) (BitVec.ofNat 64 (c.fault.toNat % 2 ^ 32)))) ∧
  (∀ s : State, regFld rOBS_SNAP 0 1 s = 1 → 1000 ≤ s.obs.holdTicks →
    ∃ x, exec .holdExpiry s = .next (errOutputs x) ∧ regFld rOBS_SNAP 0 1 x = 0 ∧ x.obs = s.obs ∧ x.out = s.out) ∧
  (∀ s : State, s.obs.holdTicks < 1000 → exec .holdExpiry s = .next (errOutputs s))

/-- TRACE_MARK with trace enabled, every type passed and the tail buffer as destination appends one marker record
with the written value, which an upper half completes with the lower half written before it (R11, R406, R407).
TRACE_DUMP sets EN, DEST and FREEZE as written, and where DUMP and FREEZE are written 1 and a ring is configured
sets the records of the buffer to be copied, oldest first (R9, R409). AUDIT_HEAD_WRITE advances OBS_AUDIT_HEAD
(R413, R415). -/
def Obligations.TraceAndAudit : Prop :=
  (∀ (p : HP) (v : W64) (s : State), mgrOpen p.val rOBS_TRACE_MARK s = true → regRaw rOBS_TRACE_CTL s = 1 →
    bit (regRaw rOBS_TRACE_FILTER s) 16 = true → regRaw rOBS_TRACE_MATCH s = 0x201000 → s.obs.traceDest = 0 →
    s.obs.gap = none → s.obs.tail.length < 262144 →
    exec (.traceMark p (.full v)) s = .next (errOutputs { s with
      reg := { s.reg with last := mset s.reg.last rOBS_TRACE_MARK v }
      obs := { s.obs with
        gen := s.obs.gen + 1, tail := s.obs.tail ++ [⟨s.time.now, 0, 0, 0x10, 0, 0xFFF, 0xFF, 0, v⟩] } })) ∧
  (∀ (p : HP) (v : W64) (s : State), mgrOpen p.val rOBS_TRACE_MARK s = true → regFld rOBS_TRACE_CTL 0 1 s = 0 →
    exec (.traceMark p (.full v)) s = .next (errOutputs { s with reg := { s.reg with last := mset s.reg.last rOBS_TRACE_MARK v } })) ∧
  (∀ (p : HP) (lo hi : W32) (s t : State), mgrOpen p.val rOBS_TRACE_MARK s = true →
    t = { s with reg := { s.reg with half := mset s.reg.half (4 * rOBS_TRACE_MARK + p.val) lo } } →
    exec (.traceMark p (.lower lo)) s = .next (errOutputs t) ∧
    (∃ x, exec (.traceMark p (.upper hi)) t = .next (errOutputs x) ∧
      mget x.reg.last rOBS_TRACE_MARK = some (BitVec.ofNat 64 (lo.toNat + hi.toNat * 2 ^ 32)))) ∧
  (∀ (p : HP) (v : W64) (s : State), mgrOpen p.val rOBS_TRACE_CTL s = true → s.obs.gap = none →
    ∃ x, exec (.traceDump ⟨p, .full v⟩) s = .next (errOutputs x) ∧ regFld rOBS_TRACE_CTL 0 3 x = fld v 0 3 ∧
      x.obs = (if bit v 3 = true ∧ bit v 2 = true ∧ regRaw rOBS_TRACE_RING s ≠ 0 ∧ s.obs.dump = []
        then { s.obs with dump := s.obs.tail } else s.obs) ∧
      (∀ k, k ≠ rOBS_TRACE_CTL → regRaw k x = regRaw k s) ∧ x.out = s.out) ∧
  (∀ (p : HP) (v : W64) (s : State), mgrOpen p.val rOBS_AUDIT_HEAD s = true →
    ∃ x, exec (.auditHeadWrite p (.full v)) s = .next (errOutputs x) ∧ regRaw rOBS_AUDIT_HEAD x = v ∧
      (∀ k, k ≠ rOBS_AUDIT_HEAD → regRaw k x = regRaw k s) ∧ x.obs = s.obs ∧ x.out = s.out)

/-- MP_REQ_CREDIT and MP_WD_CREDIT return one credit, at most 255 (R54), and what the credits allow then issues.
MP_RESPONSE: a write-done ends the request and takes its tag out of use; the beats of a read end it with its
last sector, in sector order (R55, R57); a good word becomes the data at the home, unless the slice has a newer
sector, and requests that waited for it are tried again (R290). MP_TIMEOUT of an open request of the wide or the
narrow path raises the port's timeout and makes the port failing (R56). A response with an unknown tag changes
nothing. -/
def Obligations.MemoryPortTraffic : Prop :=
  (∀ (p : MP) (s : State),
    exec (.mpReqCredit p) s = .next (errOutputs (mpIssue p.val 1 { s with port := { s.port with
      mp := mset s.port.mp p.val { mport p.val s with reqCred := min 255 ((mport p.val s).reqCred + 1) } } }))) ∧
  (∀ (p : MP) (s : State),
    exec (.mpWdCredit p) s = .next (errOutputs (mpIssue p.val 1 { s with port := { s.port with
      mp := mset s.port.mp p.val { mport p.val s with wdCred := min 255 ((mport p.val s).wdCred + 1) } } }))) ∧
  (∀ (p : MP) (tag : BitVec 9) (o : MpOpen) (s : State),
    (mport p.val s).opened.find? (fun o => o.tag == tag.toNat) = some o → o.req.write = true →
    exec (.mpResponse p tag .writeDone) s = .next (errOutputs (settle (keyIssue p.val (mpIssue p.val 4 { s with
      port := { s.port with mp := mset s.port.mp p.val { mport p.val s with
        opened := (mport p.val s).opened.filter fun o => o.tag != tag.toNat } } }))))) ∧
  (∀ (p : MP) (tag : BitVec 9) (sec : Fin 4) (ws : List CodeWord) (bad : Bool) (o : MpOpen) (s : State),
    (mport p.val s).opened.find? (fun o => o.tag == tag.toNat) = some o → o.req.write = false → o.left = [sec.val] →
    exec (.mpResponse p tag (.data sec ws bad)) s =
      .next (errOutputs (settle (kickWaiting (mpClose p.val tag.toNat (unkeyed o.req.kslot
        (mpData p.val o sec.val (ws.map fun c => codeIn c bad) s))))))) ∧
  (∀ (p : MP) (tag : BitVec 9) (sec : Fin 4) (ws : List CodeWord) (bad : Bool) (o : MpOpen) (s : State),
    (mport p.val s).opened.find? (fun o => o.tag == tag.toNat) = some o → o.left.head? ≠ some sec.val →
    exec (.mpResponse p tag (.data sec ws bad)) s = .next (errOutputs (settle s))) ∧
  (∀ (n k a : Nat) (d : W64) (s : State), s.rsvr.poison.contains (a / 8) = false →
    mpWord n k a false (.good d) s = { s with rsvr := { s.rsvr with mem := cellsSet s.rsvr.mem a (toBytes 8 d.toNat) } }) ∧
  (∀ (p : MP) (tag : BitVec 9) (b : MpBeat) (s : State), (∀ o ∈ (mport p.val s).opened, o.tag ≠ tag.toNat) →
    exec (.mpResponse p tag b) s = .next (errOutputs (settle s))) ∧
  (∀ (p : MP) (tag : BitVec 9) (o : MpOpen) (s : State), o ∈ (mport p.val s).opened → o.tag = tag.toNat → s.spl.recovery = false →
    exec (.mpTimeout p ⟨false, tag⟩) s = .next (errOutputs (settle (failPort p.val { s with weir := { s.weir with
      raised := s.weir.raised ++ [⟨224 + p.val, .partnerTimeout, none, none, tag.toNat⟩] } })))) ∧
  (∀ (p : MP) (tag : BitVec 9) (r : NrReq) (s : State), r ∈ (mport p.val s).narrow → r.tag = tag.toNat → s.spl.recovery = false →
    exec (.mpTimeout p ⟨true, tag⟩) s = .next (errOutputs (settle (failPort p.val { s with weir := { s.weir with
      raised := s.weir.raised ++ [⟨224 + p.val, .partnerTimeout, none, none, tag.toNat⟩] } }))))

/-- TRAIN_DONE with a pass and a capacity returns a training port to service with that capacity and RESUME; without
them, and on TRAIN_TIMEOUT, the port is failing (R59, R82, R286, R294). LANE_FAIL notes the lane: for repair at
the next edge in service, for the report in training (R294). MP_QUIESCED lets a leaving port go out of service,
starts the self-test of a port under test, or the training of a repaired one (R59, R294, R296). BIST_DONE
returns a passing port to service (Table 16-8). CTRL_ERROR raises the port's error and makes it failing (R295). -/
def Obligations.MemoryPortTraining : Prop :=
  (∀ (p : MP) (g : BitVec 11) (s : State), (mport p.val s).st = .training → g ≠ 0 →
    ∃ x, exec (.trainDone p true g 0) s = .next (errOutputs (mpIssue p.val 512 x)) ∧
      mport p.val x = { mport p.val s with st := .inService, gib := g.toNat, quiet := false } ∧ bit (regRaw rMPT_EVENT x) 0 = true ∧
      x.out = s.out ++ [.mpSideband p.val 4 0] ∧ x.rsvr = s.rsvr) ∧
  (∀ (p : MP) (g : BitVec 11) (n : BitVec 12) (s : State), (mport p.val s).st = .training → n ≠ 0 →
    exec (.trainDone p true g n) s = .next (errOutputs (failPort p.val s))) ∧
  (∀ (p : MP) (s : State), (mport p.val s).st = .training →
    exec (.trainTimeout p) s = .next (errOutputs (failPort p.val s))) ∧
  (∀ (p : MP) (s : State), (mport p.val s).st ≠ .training → exec (.trainTimeout p) s = .next (errOutputs s)) ∧
  (∀ (p : MP) (lane : BitVec 12) (s : State), (mport p.val s).st = .inService →
    exec (.laneFail p lane) s = .next (errOutputs { s with port := { s.port with
      mp := mset s.port.mp p.val { mport p.val s with laneDue := (mport p.val s).laneDue ++ [lane.toNat] } } })) ∧
  (∀ (p : MP) (lane : BitVec 12) (s : State), (mport p.val s).st = .training →
    exec (.laneFail p lane) s = .next (errOutputs { s with port := { s.port with
      mp := mset s.port.mp p.val { mport p.val s with failLanes := insNat lane.toNat (mport p.val s).failLanes } } })) ∧
  (∀ (p : MP) (s : State), (mport p.val s).leaving = true → (mport p.val s).mapOut = false →
    ∃ x, exec (.mpQuiesced p) s = .next (errOutputs x) ∧
      mport p.val x = { mport p.val s with st := .outOfService, leaving := false } ∧ bit (regRaw rMPT_EVENT x) 2 = true ∧
      x.out = s.out ∧ x.rsvr = s.rsvr) ∧
  (∀ (p : MP) (s : State), (mport p.val s).leaving = true → (mport p.val s).mapOut = true →
    ∃ x, exec (.mpQuiesced p) s = .next (errOutputs x) ∧
      mport p.val x = { mport p.val s with st := .mappedOut, leaving := false, mapOut := false }) ∧
  (∀ (p : MP) (op : UnitOp) (s : State), (mport p.val s).leaving = false → (mport p.val s).st = .quiescing →
    s.weir.unitBusy = some (5, p.val, op) →
    ∃ x, exec (.mpQuiesced p) s = .next (errOutputs x) ∧ (mport p.val x).st = .bist ∧ x.out = s.out ++ [.mpSideband p.val 5 0] ∧
      x.reg = s.reg ∧ x.rsvr = s.rsvr) ∧
  (∀ (p : MP) (s : State), (mport p.val s).leaving = false → (mport p.val s).st = .quiescing → s.weir.unitBusy = none →
    ∃ x, exec (.mpQuiesced p) s = .next (errOutputs x) ∧ (mport p.val x).st = .training ∧ (mport p.val x).failLanes = [] ∧
      x.out.getLast? = some (.mpSideband p.val 1 1) ∧ x.reg = s.reg) ∧
  (∀ (p : MP) (s : State), (mport p.val s).st = .bist → s.weir.unitBusy = none →
    ∃ x, exec (.bistDone p true) s = .next (errOutputs (mpIssue p.val 512 x)) ∧
      mport p.val x = { mport p.val s with st := .inService, quiet := false } ∧ x.out = s.out ++ [.mpSideband p.val 4 0] ∧
      x.reg = s.reg) ∧
  (∀ (p : MP) (s : State), (mport p.val s).st = .bist → s.weir.unitBusy = none → s.spl.recovery = false →
    exec (.bistDone p false) s = .next (errOutputs (failPort p.val { s with weir := { s.weir with
      raised := s.weir.raised ++ [⟨224 + p.val, .bistFail, none, none, 0⟩] } }))) ∧
  (∀ (p : MP) (code : BitVec 16) (s : State), s.spl.recovery = false →
    exec (.ctrlError p code) s = .next (errOutputs (failPort p.val { s with weir := { s.weir with
      raised := s.weir.raised ++ [⟨224 + p.val, .partnerTimeout, none, none, code.toNat⟩] } })))

/-- A port that becomes failing gets a level-0 event and MPT_EVENT.PORT_FAILING, and one that already is does not
(R295). RETIRE takes MPT_CTRL and makes the selected port failing (R295). BUCKET_COPY_DONE, where the policy
checker accepts the place, puts the bucket on its target, publishes the table under the next epoch and lets the
next move begin (R63, R296); ILV_PUBLISH publishes the table again under the same epoch after 1,024 ticks (R63). -/
def Obligations.FailingPorts : Prop :=
  (∀ (n : Nat) (s : State), (mport n s).st = .inService → s.spl.recovery = false →
    (mport n (failPort n s)).st = .failing ∧ bit (regRaw rMPT_EVENT (failPort n s)) 1 = true ∧
    (s.weir.raised ++ [⟨224 + n, .portFailing, none, none, 0⟩]) <+: (failPort n s).weir.raised ∧
    (failPort n s).rsvr.buckets = s.rsvr.buckets ∧ s.rsvr.moves <+: (failPort n s).rsvr.moves ∧
    (failPort n s).rsvr.mem = s.rsvr.mem ∧ (failPort n s).que.reqs = s.que.reqs ∧ (failPort n s).que.cmds = s.que.cmds) ∧
  (∀ (n : Nat) (s : State), (mport n s).st = .failing → failPort n s = s) ∧
  (∀ (p : HP) (v : W32) (s : State), mgrOpen p.val rMPT_CTRL s = true → mayClassC s = true →
    ∃ x, exec (.retire p v) s = .next (errOutputs (if v.toNat % 2 = 1 ∧ (selGet p.val rMPT_SEL s).toNat < 72
        then failPort (selGet p.val rMPT_SEL s).toNat x else x)) ∧
      regFld rMPT_CTRL 8 8 x = v.toNat / 256 % 256 ∧ x.port = s.port ∧ x.rsvr = s.rsvr ∧ x.out = s.out) ∧
  (∀ (v : BMove) (r : List BMove) (s : State), s.rsvr.moves = v :: r → policyBucket v s = true →
    ∃ x, exec .bucketCopyDone s = .next (errOutputs (settle x)) ∧ x.rsvr.moves = r ∧
      bucket v.bucket x = { bucket v.bucket s with port := v.port, base := v.base } ∧
      (∀ b, b ≠ v.bucket → bucket b x = bucket b s) ∧ x.port.ilvEpoch = (s.port.ilvEpoch + 1) % 65536 ∧
      x.rsvr.mem = s.rsvr.mem ∧
      x.out = s.out ++ [.ilv ((List.range 256).map fun b => (bucket b x).port) x.port.ilvEpoch (tick s + 4)]) ∧
  (∀ (v : BMove) (r : List BMove) (s : State), s.rsvr.moves = v :: r → policyBucket v s = false →
    exec .bucketCopyDone s = .next (errOutputs (settle (auditO .policyRefused 0 0 noEnv true
      [BitVec.ofNat 64 (v.bucket + 2 ^ 8 * v.port + 2 ^ 32 * v.base), BitVec.ofNat 64 (statusCode .invalid)] s)))) ∧
  (∀ s : State, s.rsvr.moves = [] → exec .bucketCopyDone s = .next (errOutputs (settle s))) ∧
  (∀ s : State, 1024 ≤ s.port.ilvTicks → s.spl.ended.contains 3 = true →
    exec .ilvPublish s = .next (errOutputs { s with
      port := { s.port with ilvTicks := 0 }
      out := s.out ++ [.ilv ((List.range 256).map fun b => (bucket b s).port) s.port.ilvEpoch (tick s + 4)] })) ∧
  (∀ s : State, s.port.ilvTicks < 1024 → exec .ilvPublish s = .next (errOutputs s))

/-- NARROW_GO for a word of an envelope completes with RIGHTS and does not reach the port; for another word it makes
the path busy (R293), and the granule's dirty lines go to the port first; without any, a read goes out at once
when nothing is open or waiting for its granule (R292). NARROW_RESPONSE ends the manager's read with the word in
MPT_NR_DATA, or with POISON. KEY_ACK of the last outstanding load marks the slot loaded, of a zeroise unloaded,
and lets the next operation of the port start (R60, R62, R370). -/
def Obligations.NarrowPathAndKeys : Prop :=
  (∀ (p : HP) (w : Bool) (l e : Nat) (s : State), mgrOpen p.val rMPT_NR_CTL s = true → s.rsvr.nrBusy = false →
    granLocal (selGet p.val rMPT_SEL s).toNat ((regRaw rMPT_NR_ADDR s).toNat / 32) s = some l → ownerEnv l s = some e →
    (selGet p.val rMPT_SEL s).toNat < 72 →
    ∃ x, exec (.narrowGo p w) s = .next (errOutputs x) ∧ x.rsvr = { s.rsvr with nrStatus := statusCode .rights } ∧
      x.port = s.port ∧ x.out = s.out) ∧
  (∀ (p : HP) (w : Bool) (s : State), mgrOpen p.val rMPT_NR_CTL s = true →
    s.rsvr.nrBusy = true ∨ 72 ≤ (selGet p.val rMPT_SEL s).toNat →
    exec (.narrowGo p w) s = .next (errOutputs (setRaw rMPT_NR_CTL (if w then 1 else 0) s))) ∧
  (∀ (p : HP) (w : Bool) (s : State), mgrOpen p.val rMPT_NR_CTL s = true → s.rsvr.nrBusy = false →
    (selGet p.val rMPT_SEL s).toNat < 72 →
    (∀ l : Nat, granLocal (selGet p.val rMPT_SEL s).toNat ((regRaw rMPT_NR_ADDR s).toNat / 32) s = some l → ownerEnv l s = none) →
    ∃ x, exec (.narrowGo p w) s = .next (errOutputs (nrIssue (selGet p.val rMPT_SEL s).toNat 1 x)) ∧ x.rsvr.nrBusy = true ∧
      x.rsvr.nrStatus = s.rsvr.nrStatus ∧
      (mport (selGet p.val rMPT_SEL s).toNat x).narrowWait.getLast? =
        some ⟨0, w, (regRaw rMPT_NR_ADDR s).toNat, 0, if w then regRaw rMPT_NR_DATA s else 0, true, false, false⟩ ∧
      ((∀ l : Nat, granLocal (selGet p.val rMPT_SEL s).toNat ((regRaw rMPT_NR_ADDR s).toNat / 32) s = some l →
        granDirty (l / 64) s = false) → x.out = s.out ∧
        (mport (selGet p.val rMPT_SEL s).toNat x).narrowWait.dropLast = (mport (selGet p.val rMPT_SEL s).toNat s).narrowWait)) ∧
  (∀ (p : HP) (l : Nat) (s : State), mgrOpen p.val rMPT_NR_CTL s = true → s.rsvr.nrBusy = false →
    granLocal (selGet p.val rMPT_SEL s).toNat ((regRaw rMPT_NR_ADDR s).toNat / 32) s = some l → ownerEnv l s = none →
    (selGet p.val rMPT_SEL s).toNat < 72 → (mport (selGet p.val rMPT_SEL s).toNat s).narrow = [] →
    (mport (selGet p.val rMPT_SEL s).toNat s).narrowWait = [] → granDirty (l / 64) s = false →
    (∀ o ∈ (mport (selGet p.val rMPT_SEL s).toNat s).opened, o.req.gran ≠ (regRaw rMPT_NR_ADDR s).toNat / 32) →
    (∀ q ∈ (mport (selGet p.val rMPT_SEL s).toNat s).waiting, q.gran ≠ (regRaw rMPT_NR_ADDR s).toNat / 32) →
    ∃ x, exec (.narrowGo p false) s = .next (errOutputs x) ∧ x.rsvr = { s.rsvr with nrBusy := true } ∧
      x.out = s.out ++ [.mpNarrow (selGet p.val rMPT_SEL s).toNat
        ⟨0, false, (regRaw rMPT_NR_ADDR s).toNat, 0, 0, true, false, false⟩ (chkOf 0 false)]) ∧
  (∀ (p : MP) (tag : Fin 16) (w : CodeWord) (d : W64) (r : NrReq) (s : State), codeIn w false = .good d →
    (mport p.val s).narrow.find? (fun r => r.tag == tag.val) = some r → r.who = true → r.write = false →
    ∃ x, exec (.narrowResponse p tag ⟨w, false⟩) s = .next (errOutputs (settle x)) ∧ regRaw rMPT_NR_DATA x = d ∧
      x.rsvr = { s.rsvr with nrBusy := false, nrStatus := 0 } ∧ x.que = s.que) ∧
  (∀ (p : MP) (tag : Fin 16) (w : CodeWord) (r : NrReq) (s : State),
    (mport p.val s).narrow.find? (fun r => r.tag == tag.val) = some r → r.who = true →
    ∃ x, exec (.narrowResponse p tag ⟨w, true⟩) s = .next (errOutputs (settle x)) ∧ regRaw rMPT_NR_DATA x = regRaw rMPT_NR_DATA s ∧
      x.rsvr.nrBusy = false ∧ x.rsvr.nrStatus = statusCode .poison ∧ x.rsvr.mem = s.rsvr.mem) ∧
  (∀ (p : MP) (s : State), (mport p.val s).keyBusy = none → exec (.keyAck p) s = .next (errOutputs (settle s))) ∧
  (∀ (p : MP) (k : KeyOp) (s : State), (mport p.val s).keyBusy = some k →
    let t := keyIssue p.val { s with port := { s.port with mp := mset s.port.mp p.val { mport p.val s with keyBusy := none } } }
    exec (.keyAck p) s = .next (errOutputs (settle (if keyLeft k t then t else keyDone k t)))) ∧
  (∀ (p : MP) (k : KeyOp) (s : State), (mport p.val s).keyBusy = some k → k.op = 0 →
    keyLeft k (keyIssue p.val (modMp p.val (fun m => { m with keyBusy := none }) s)) = false → AuditRoom s →
    ∃ x, exec (.keyAck p) s = .next (errOutputs (settle x)) ∧ k.slot ∈ x.env.loaded ∧ x.rsvr = s.rsvr ∧ x.reg = s.reg) ∧
  (∀ (p : MP) (k : KeyOp) (s : State), (mport p.val s).keyBusy = some k → k.op = 1 →
    keyLeft k (keyIssue p.val (modMp p.val (fun m => { m with keyBusy := none }) s)) = false → AuditRoom s →
    ∃ x, exec (.keyAck p) s = .next (errOutputs (settle x)) ∧ k.slot ∉ x.env.loaded ∧ x.rsvr = s.rsvr) ∧
  (∀ (p : MP) (k : KeyOp) (s : State), (mport p.val s).keyBusy = some k → (mport p.val s).keyWait = [] →
    keyLeft k (keyIssue p.val (modMp p.val (fun m => { m with keyBusy := none }) s)) = true →
    exec (.keyAck p) s = .next (errOutputs (settle { s with port := { s.port with
      mp := mset s.port.mp p.val { mport p.val s with keyBusy := none } } })))

/-- The bucket of a local address is the XOR of the five bytes of PA[47:8], whose bits [47:44] are the low 4 bits of
this chip's number; for a fixed block the map from PA[15:8] to buckets is one to one, so that every 64 KiB block
has exactly one 256-byte granule in each of the 256 buckets (R285). -/
def Obligations.BucketsOfABlock : Prop :=
  (∀ (l : Nat) (s : State), l < 2 ^ 44 →
    bucketOf l s = Nat.xor (l / 2 ^ 8 % 256) (Nat.xor (l / 2 ^ 16 % 256) (Nat.xor (l / 2 ^ 24 % 256)
      (Nat.xor (l / 2 ^ 32 % 256) (l / 2 ^ 40 % 16 + s.spl.chip % 16 * 16))))) ∧
  (∀ (blk b : Nat) (s : State), blk < 2 ^ 28 → b < 256 →
    ∃ g, g < 256 ∧ bucketOf (blk * 65536 + g * 256) s = b ∧
      ∀ g', g' < 256 → bucketOf (blk * 65536 + g' * 256) s = b → g' = g)

/-- The check bits of R386: a data word with its check bits decodes to itself, one with its poison bit set decodes
to poison, and whatever one or two of the 80 bits are wrong the word is corrected; three wrong bits are
detected. -/
def Obligations.WordCode : Prop :=
  (∀ (d : W64) (p : Bool), codeIn ⟨d, chkOf d p⟩ false = if p then .poison else .good d) ∧
  (∀ (d e : W64) (f : BitVec 16), e.cpop.toNat + f.cpop.toNat ∈ [1, 2] →
    codeIn ⟨d ^^^ e, chkOf d false ^^^ f⟩ false = .corrected d) ∧
  (∀ (d e : W64) (f : BitVec 16) (p : Bool), e.cpop.toNat + f.cpop.toNat = 3 →
    codeIn ⟨d ^^^ e, chkOf d p ^^^ f⟩ false = .poison)

/-- A VC0 request with a live token enters as a request with the identity of the token, and its VC0 credit returns
while its core's wait list has room; beyond it the request enters listed, with its credit withheld, and a listed
request does not start (R217): LOAD and STORE of LEN + 1 bytes, TILE_READ, ATOMIC, RELEASE, ACQUIRE,
FENCE_SIGNAL and FENCE_WAIT; a fence operation on a fence of this chip with a handle that passes the check of
R123; TILE_WRITE opens a tile that awaits its data and TILE_WRITE_DATA stages 64 bytes of it (R66, R67, R173,
R239, R283). A chip that a sluice stop has frozen keeps the request for the resume (R395, R399). -/
def Obligations.CoreRequests : Prop :=
  (∀ (p : CF) (h : Vc0Hdr) (t : Token) (s : State), frozen s = false → h.badOp = none → h.rsvd = 0 → vc0Token p h s = some t →
    listFull (vc0Core p h) s = false →
    exec (.load p h) s = .next (errOutputs (settle (newReq (vc0Req p h t (.load h.addr.toNat (h.len.toNat + 1)) s)
      (cfGrant p.val 0 1 s)))) ∧
    (∀ data : List Byte, exec (.store p h data) s = .next (errOutputs (settle (newReq
      (vc0Req p h t (.store h.addr.toNat (dataField (h.len.toNat + 1) data)) s) (cfGrant p.val 0 1 s))))) ∧
    (∀ tl : Tile, tl.rsvdZero = true → tileOk p.val tl s = true →
      exec (.tileRead p h tl) s = .next (errOutputs (settle (newReq (vc0Req p h t (.tileRead tl) s) (cfGrant p.val 0 1 s)))) ∧
      ∃ x, exec (.tileWrite p h tl) s = .next (errOutputs (settle x)) ∧ x.out = s.out ++ [.cfCredit p.val 0 1] ∧
        x.que = { s.que with nextReq := s.que.nextReq + 1, reqs := (mset s.que.reqs s.que.nextReq
          { vc0Req p h t (.tileWrite tl) s with seq := s.que.nextReq, st := .reading, expect := tileBytes tl }) }) ∧
    (∀ (op : BitVec 6) (noret : Bool) (x y : BitVec 128), atomOk (vc0Atom h op noret x y) h.addr.toNat = true →
      exec (.atomic p h op false noret x y) s = .next (errOutputs (settle (newReq
        (vc0Req p h t (.atomic h.addr.toNat (vc0Atom h op noret x y)) s) (cfGrant p.val 0 1 s))))) ∧
    (h.scope.val ≤ 4 →
      exec (.release p h) s = .next (errOutputs (settle (newReq (vc0Req p h t (.release h.scope.val) s) (cfGrant p.val 0 1 s)))) ∧
      exec (.acquire p h) s = .next (errOutputs (settle (newReq (vc0Req p h t (.acquire h.scope.val) s) (cfGrant p.val 0 1 s)))) ∧
      (∀ d : FenceData, d.rsvdZero = true → (∀ o, ownFence d s = some o → vc0Handle o.1 o.2 t s = none) →
        exec (.vc0FenceSignal p h d) s = .next (errOutputs (settle (newReq (vc0Req p h t (.fenceSignal d h.scope.val) s)
          (cfGrant p.val 0 1 s)))) ∧
        exec (.vc0FenceWait p h d) s = .next (errOutputs (settle (newReq (vc0Req p h t (.fenceWait d h.scope.val) s)
          (cfGrant p.val 0 1 s))))))) ∧
  (∀ (p : CF) (h : Vc0Hdr) (t : Token) (s : State), frozen s = false → h.badOp = none → h.rsvd = 0 → vc0Token p h s = some t →
    listFull (vc0Core p h) s = true →
    exec (.load p h) s = .next (errOutputs (settle (newReq (vc0Req p h t (.load h.addr.toNat (h.len.toNat + 1)) s) s))) ∧
    (vc0Req p h t (.load h.addr.toNat (h.len.toNat + 1)) s).listed = true ∧
    (vc0Req p h t (.load h.addr.toNat (h.len.toNat + 1)) s).owed = true) ∧
  (∀ (id : Nat) (r : Req) (s : State), r.listed = true → mayStart id r s = false) ∧
  (∀ (p : CF) (core : Fin 8) (engine : Fin 4) (tag : BitVec 9) (data : List Byte) (id : Nat) (r : Req) (t : Tile) (s : State),
    frozen s = false → tileOf p.val core.val engine.val tag.toNat s = some (id, r) → r.op = .tileWrite t → 64 < r.expect →
    mget s.que.reqs id = some r →
    ∃ x, exec (.tileWriteData p core engine tag data) s = .next (errOutputs (settle x)) ∧ x.out = s.out ++ [.cfCredit p.val 1 1] ∧
      x.que = { s.que with reqs := mset s.que.reqs id { r with
        data := cellsSet r.data (tileBytes t - r.expect) (dataField 64 data), expect := r.expect - 64 } }) ∧
  (∀ (p : CF) (h : Vc0Hdr) (s : State), frozen s = true →
    exec (.load p h) s = .next (errOutputs (settle { s with sluiceHeld := s.sluiceHeld ++ [.load p h] })))

/-- A VC0 request with a reserved operation code, a non-zero reserved field or a scope above 4 is INVALID, one
without a dispatched token or under a revoked one is INVALID and counted against the core's envelope, a fence
operation or a FREE whose handle fails the check of R123 has its status; the response carries CORE, ENGINE, TAG
and the status code of R67 without data, and takes one VC1 credit (R64, R66, R67). -/
def Obligations.CoreRefusals : Prop :=
  (∀ (p : CF) (h : Vc0Hdr) (s : State), frozen s = false → h.rsvd ≠ 0 →
    exec (.load p h) s = .next (errOutputs (settle (cfRespond p.val h.core.val h.engine.val h.tag.toNat .invalid []
      (cfGrant p.val 0 1 s))))) ∧
  (∀ (p : CF) (h : Vc0Hdr) (s : State), frozen s = false → h.badOp.isSome = true →
    exec (.load p h) s = .next (errOutputs (settle (cfRespond p.val h.core.val h.engine.val h.tag.toNat .invalid []
      (cfGrant p.val 0 1 s))))) ∧
  (∀ (p : CF) (h : Vc0Hdr) (s : State), frozen s = false → h.badOp = none → 4 < h.scope.val →
    exec (.release p h) s = .next (errOutputs (settle (cfRespond p.val h.core.val h.engine.val h.tag.toNat .invalid []
      (cfGrant p.val 0 1 s)))) ∧
    exec (.acquire p h) s = .next (errOutputs (settle (cfRespond p.val h.core.val h.engine.val h.tag.toNat .invalid []
      (cfGrant p.val 0 1 s)))) ∧
    (∀ d : FenceData, exec (.vc0FenceSignal p h d) s = .next (errOutputs (settle (vc0Refuse true p h .invalid
      (cfGrant p.val 0 1 s)))))) ∧
  (∀ (p : CF) (h : Vc0Hdr) (data : List Byte) (s : State), frozen s = false → h.badOp = none → h.rsvd = 0 → vc0Token p h s = none →
    exec (.store p h data) s = .next (errOutputs (settle (cfRespond p.val h.core.val h.engine.val h.tag.toNat .invalid []
      (countRefused (agentEnv (vc0Core p h) s) (cfGrant p.val 0 1 s)))))) ∧
  (∀ (p : CF) (h : Vc0Hdr) (t : Token) (s : State), mget s.que.tokens h.token.toNat = some t → t.aborted = true →
    vc0Token p h s = none) ∧
  (∀ (p : CF) (h : Vc0Hdr) (t : Token) (st : Status) (s : State), frozen s = false → h.badOp = none → h.rsvd = 0 →
    vc0Token p h s = some t → listFull (vc0Core p h) s = false →
    (∀ object : W64, vc0Handle object 3 t s = some st →
      exec (.vc0Free p h object) s = .next (errOutputs (settle (cfRespond p.val h.core.val h.engine.val h.tag.toNat st []
        (cfGrant p.val 0 1 s))))) ∧
    (∀ d : FenceData, d.chip.val = s.spl.chip → d.rsvdZero = true → h.scope.val ≤ 4 → vc0Handle d.handle 4 t s = some st →
      exec (.vc0FenceWait p h d) s = .next (errOutputs (settle (cfReply p.val h.core.val h.engine.val h.tag.toNat st
        (toBytes 8 0 ++ toBytes 2 (statusCode st)) (cfGrant p.val 0 1 s)))))) ∧
  (∀ (n core engine tag : Nat) (st : Status) (data : List Byte) (s : State), st ≠ .ok → (cfport n s).waiting = [] →
    0 < mgetD (cfport n s).dn 1 0 →
    cfRespond n core engine tag st data s = { s with
      out := s.out ++ [.cf n 1 (.rsp core engine tag (rspCode st) 0 [] false)]
      port := { s.port with cf := mset s.port.cf n { cfport n s with
        dn := mset (cfport n s).dn 1 (mgetD (cfport n s).dn 1 0 - 1) } } }) ∧
  (rspCode .ok = 0 ∧ rspCode .fault = 1 ∧ rspCode .rights = 2 ∧ rspCode .revoked = 3 ∧ rspCode .poison = 4 ∧
    (∀ st : Status, st = .noMemory ∨ st = .fenceError ∨ st = .fenceTimeout → rspCode st = 1) ∧
    (∀ st : Status, st = .invalid ∨ st = .invalidFormat ∨ st = .invalidOp ∨ st = .staleHandle ∨ st = .noSlot ∨ st = .busy → rspCode st = 5))

/-- A core's ALLOC, FREE and REDUCE enter as requests, behind the barriers of their token; when its turn has come
ALLOC answers with the handle and the address of the block that the allocator gives, after the pieces that write
zeros where ZERO asks for them (R142), FREE makes its object a zombie and answers OK, REDUCE hands its packed
elements to the chunk and answers with the chunk's status (R141, R143, R138, R322). A COMPLETION_REPORT retires
its token, and the last one ends the command (R66); of an aborted token it only frees the token. ABORT_TIMEOUT
retires an aborted token after 150 ticks, with a core error and QUE_EVENT.ABORT_OVERDUE (R140). -/
def Obligations.CoreCalls : Prop :=
  (∀ (p : CF) (h : Vc0Hdr) (t : Token) (s : State), frozen s = false → h.badOp = none → h.rsvd = 0 → vc0Token p h s = some t →
    listFull (vc0Core p h) s = false →
    (∀ (size : W64) (al fl : Byte), fl.toNat < 32 → exec (.vc0Alloc p h size al fl) s = .next (errOutputs (settle (newReq
      (vc0Req p h t (.alloc size.toNat al.toNat fl.toNat) s) (cfGrant p.val 0 1 s))))) ∧
    (∀ object : W64, vc0Handle object 3 t s = none → exec (.vc0Free p h object) s = .next (errOutputs (settle (newReq
      (vc0Req p h t (.free object) s) (cfGrant p.val 0 1 s))))) ∧
    (∀ (id chunk : W32) (first : Fin 1024) (n : Fin 64) (e : BitVec 384), exec (.vc0Reduce p h id chunk first n true e) s =
      .next (errOutputs (settle (newReq (vc0Req p h t (.reduce id.toNat chunk.toNat first.val (n.val + 1) h.fmt.toNat e) s)
        (cfGrant p.val 0 1 s)))))) ∧
  (∀ (r : Req) (cf core engine tag token : Nat) (s : State), r.who = .core cf core engine tag token →
    (∀ (id size al fl i : Nat) (o : Obj) (x : State), r.op = .alloc size al fl → fl % 2 = 0 →
      allocObj r.ident.ctx r.env size al fl false s = ((.ok, i), x) → mget x.que.objs i = some o →
      finishOne (id, r, .ok) s = cfRespond cf core engine tag .ok
        (toBytes 8 (mkHandle 3 i (slotGen x.que.objSlots i)).toNat ++ toBytes 8 (objVa o x)) x) ∧
    (∀ (id size al fl i : Nat) (op : ReqOp) (x : State), r.op = .alloc size al fl → fl % 2 = 1 →
      allocObj r.ident.ctx r.env size al fl false s = ((.ok, i), x) → zeroPiece r.ident.cls i 0 x = some op →
      finishOne (id, r, .ok) s = kick id (park id { r with op := op, paid := [], asked := false, mover := none } .translate x)) ∧
    (∀ (id i : Nat) (object : W64) (o : Obj), r.op = .free object → checkHandle object 3 r.fn r.env s = .slot i →
      mget s.que.objs i = some o → o.isPt = false →
      finishOne (id, r, .ok) s = cfRespond cf core engine tag .ok [] (zombify i s)) ∧
    (∀ (id k chunk first n fmt : Nat) (e : BitVec 384) (f : Fmt) (st : Status) (x : State), r.op = .reduce k chunk first n fmt e →
      fmtOf fmt = some f → 0 < fmtWidth f → n * fmtWidth f ≤ 384 →
      coreContribute r.env k chunk first fmt (packedElems (fmtWidth f) n e) s = (st, x) →
      finishOne (id, r, .ok) s = cfRespond cf core engine tag st [] x)) ∧
  (∀ (p : CF) (core : Fin 8) (token : BitVec 16) (t : Token) (c : Cmd) (s : State), mget s.que.tokens token.toNat = some t →
    t.core = 8 * p.val + core.val → t.aborted = false → mget s.que.cmds t.cmd = some c → c.tokens = [token.toNat] →
    ∃ x, exec (.completionReport p core token none) s = .next (errOutputs (settle (endCmd t.cmd c.status c.res0 0 x))) ∧
      x.que.tokens = mdel s.que.tokens token.toNat ∧ x.que.tokSlots = freeSlot token.toNat s.que.tokSlots ∧
      mget x.que.cmds t.cmd = some { c with tokens := [] } ∧ x.out = s.out ++ [.cfCredit p.val 2 1] ∧ x.reg = s.reg) ∧
  (∀ (p : CF) (core : Fin 8) (token : BitVec 16) (r : Option W64) (t : Token) (s : State), mget s.que.tokens token.toNat = some t →
    t.core = 8 * p.val + core.val → t.aborted = true →
    exec (.completionReport p core token r) s = .next (errOutputs (settle { s with
      out := s.out ++ [.cfCredit p.val 2 1]
      que := { s.que with tokens := mdel s.que.tokens token.toNat, tokSlots := freeSlot token.toNat s.que.tokSlots } }))) ∧
  (∀ (p : CF) (core : Fin 8) (token : BitVec 16) (t : Token) (c : Cmd) (s : State), mget s.que.tokens token.toNat = some t →
    t.core = 8 * p.val + core.val → t.aborted = false → mget s.que.cmds t.cmd = some c → token.toNat ∈ c.tokens →
    (∃ k ∈ c.tokens, k ≠ token.toNat) →
    ∃ x, exec (.completionReport p core token none) s = .next (errOutputs (settle x)) ∧
      x.que.tokens = mdel s.que.tokens token.toNat ∧
      mget x.que.cmds t.cmd = some { c with tokens := c.tokens.filter (· != token.toNat) } ∧
      x.out = s.out ++ [.cfCredit p.val 2 1] ∧ x.reg = s.reg) ∧
  (∀ (p : CF) (core : Fin 8) (token : BitVec 16) (a : W64) (t : Token) (s : State), mget s.que.tokens token.toNat = some t →
    t.core = 8 * p.val + core.val → t.aborted = false →
    exec (.completionReport p core token (some a)) s = .next (errOutputs (settle (redispatch token.toNat t a
      { s with out := s.out ++ [.cfCredit p.val 2 1] })))) ∧
  (∀ (p : CF) (core : Fin 8) (token : BitVec 16) (r : Option W64) (s : State),
    (∀ t, mget s.que.tokens token.toNat = some t → t.core ≠ 8 * p.val + core.val) →
    exec (.completionReport p core token r) s = .next (errOutputs (settle { s with out := s.out ++ [.cfCredit p.val 2 1] }))) ∧
  (∀ (token : BitVec 16) (t : Token) (s : State), mget s.que.tokens token.toNat = some t → t.aborted = true →
    150 ≤ t.abortTicks →
    ∃ x, exec (.abortTimeout token) s = .next (errOutputs (settle x)) ∧ bit (regRaw rQUE_EVENT x) 3 = true ∧
      (s.spl.recovery = false → x.weir.raised = s.weir.raised ++ [⟨512 + t.core, .coreError, some t.ctx, ctxEnv t.ctx s, 0⟩]) ∧
      x.que.tokens = mdel s.que.tokens token.toNat ∧ x.que.tokSlots = freeSlot token.toNat s.que.tokSlots ∧
      x.que.reqs = s.que.reqs ∧ x.que.cmds = s.que.cmds) ∧
  (∀ (token : BitVec 16) (t : Token) (s : State), mget s.que.tokens token.toNat = some t →
    t.aborted = false ∨ t.abortTicks < 150 → exec (.abortTimeout token) s = .next (errOutputs (settle s))) ∧
  (∀ (token : BitVec 16) (s : State), mget s.que.tokens token.toNat = none →
    exec (.abortTimeout token) s = .next (errOutputs (settle s)))

/-- CF_CREDIT_RETURN returns one credit of a channel, at most 255, and a waiting flit then goes (R64).
CF_CREDIT_TIMEOUT of VC1 raises the port's error input, and of VC5 or VC6 it also makes the port's agents dead
and their cores errors; of a channel without the bound it does nothing (R65). CORE_ERROR takes a core out of
service with a core error (R393). CORE_QUIESCED lets the leaving core's agent flush, CORE_RESET_REPLY returns
the core to the pool, CORE_BIST_REPLY puts it in or out of service, CORE_OVERDUE after 120 ticks of a flush is a
core error with ENV_EVENT.CORE_OVERDUE (R20, R362, R363). -/
def Obligations.CoresLeaving : Prop :=
  (∀ (p : CF) (vc : Fin 8) (s : State), exec (.cfCreditReturn p (BitVec.ofNat 8 (2 ^ vc.val))) s =
    .next (errOutputs (cfDrain p.val vc.val 1 { s with port := { s.port with cf := (mset s.port.cf p.val
      { cfport p.val s with dn := mset (cfport p.val s).dn vc.val (min 255 (mgetD (cfport p.val s).dn vc.val 0 + 1)) }) } }))) ∧
  (∀ (p : CF) (mask : BitVec 8) (s : State), exec (.cfCreditReturn p mask) s = .next (errOutputs (each (bitsOf 8 mask.toNat)
    (fun vc x => cfDrain p.val vc 1 { x with port := { x.port with cf := (mset x.port.cf p.val
      { cfport p.val x with dn := mset (cfport p.val x).dn vc (min 255 (mgetD (cfport p.val x).dn vc 0 + 1)) }) } }) s))) ∧
  (∀ (p : CF) (s : State),
    let a := raise (448 + p.val) .partnerTimeout none none 0
      { s with port := { s.port with cf := mset s.port.cf p.val { cfport p.val s with errored := true } } }
    exec (.cfCreditTimeout p 1) s = .next (errOutputs (settle a)) ∧
    ∀ vc : Fin 8, vc = 5 ∨ vc = 6 → exec (.cfCreditTimeout p vc) s = .next (errOutputs (settle (each
      (((List.range 8).map (8 * p.val + ·)).filter fun c => agentSt c a != .absent && agentSt c a != .dead)
      (fun c x => coreFail c 2 x) a)))) ∧
  (∀ (p : CF) (vc : Fin 8) (s : State), vc ≠ 1 → vc ≠ 5 → vc ≠ 6 →
    exec (.cfCreditTimeout p vc) s = .next (errOutputs (settle s))) ∧
  (∀ (c : CoreIx) (s : State), s.port.coreOut.contains c.val = true → exec (.coreError c) s = .next (errOutputs (settle s))) ∧
  (∀ (c : CoreIx) (s : State), s.port.coreOut.contains c.val = false →
    let ctxs := ((tokensOn c.val s).map fun e => e.2.ctx).eraseDups
    let a := if ctxs = [] then raise (512 + c.val) .coreError none (agentEnv c.val s) 0 s
      else each ctxs (fun x y => raise (512 + c.val) .coreError (some x) (ctxEnv x y) 0 y) s
    let b : State := { a with port := { a.port with coreOut := insNat c.val a.port.coreOut } }
    exec (.coreError c) s = .next (errOutputs (settle (each (tokensOn c.val s) failToken
      (if agentSt c.val b = .absent then b else killAgent c.val 1 b))))) ∧
  (∀ (c : CoreIx) (e : Nat × Nat) (s : State), mget s.env.leaving c.val = some (.quiescing, e) → agentSt c.val s = .active →
    ∃ x, exec (.coreQuiesced c) s = .next (errOutputs (settle x)) ∧ mget x.env.leaving c.val = some (.flushing 0, e) ∧
      agentSt c.val x = .flushing ∧ x.que = s.que ∧ x.reg = s.reg) ∧
  (∀ (c : CoreIx) (e : Nat × Nat) (s : State), mget s.env.leaving c.val = some (.quiescing, e) → agentSt c.val s ≠ .active →
    exec (.coreQuiesced c) s = .next (errOutputs (settle (cfSend (c.val / 8) 7 (.ctl (c.val % 8) 2) { s with
      out := s.out ++ [.cfCredit (c.val / 8) 7 1]
      env := { s.env with leaving := mset s.env.leaving c.val (.resetting 0, e) } })))) ∧
  (∀ (c : CoreIx) (s : State), (∀ e, mget s.env.leaving c.val ≠ some (.quiescing, e)) →
    exec (.coreQuiesced c) s = .next (errOutputs (settle { s with out := s.out ++ [.cfCredit (c.val / 8) 7 1] }))) ∧
  (∀ (c : CoreIx) (ok : Bool) (s : State), (∀ n e, mget s.env.leaving c.val ≠ some (.resetting n, e)) →
    exec (.coreResetReply c ok) s = .next (errOutputs (settle { s with out := s.out ++ [.cfCredit (c.val / 8) 7 1] }))) ∧
  (∀ (c : CoreIx) (n : Nat) (e : Nat × Nat) (s : State), mget s.env.leaving c.val = some (.resetting n, e) →
    exec (.coreResetReply c false) s = .next (errOutputs (settle (coreLost c.val
      { s with out := s.out ++ [.cfCredit (c.val / 8) 7 1] })))) ∧
  (∀ (c : CoreIx) (e : Nat × Nat) (s : State), mget s.env.leaving c.val = some (.quiescing, e) → agentSt c.val s = .absent →
    ∃ x, exec (.coreQuiesced c) s = .next (errOutputs (settle x)) ∧ mget x.env.leaving c.val = some (.resetting 0, e) ∧
      x.coh = s.coh ∧ x.que = s.que ∧ x.reg = s.reg) ∧
  (∀ (c : CoreIx) (n : Nat) (e : Nat × Nat) (s : State), mget s.env.leaving c.val = some (.resetting n, e) →
    exec (.coreResetReply c true) s = .next (errOutputs (settle { s with
      out := s.out ++ [.cfCredit (c.val / 8) 7 1]
      env := { s.env with leaving := mset s.env.leaving c.val (.returning, e) } }))) ∧
  (∀ (c : CoreIx) (s : State), exec (.coreBistReply c true) s = .next (errOutputs (settle { s with
      out := s.out ++ [.cfCredit (c.val / 8) 7 1]
      port := { s.port with coreOut := s.port.coreOut.filter (· != c.val) } }))) ∧
  (∀ (c : CoreIx) (s : State), exec (.coreBistReply c false) s = .next (errOutputs (settle
    (raise (512 + c.val) .bistFail none none 0 { s with
      out := s.out ++ [.cfCredit (c.val / 8) 7 1]
      port := { s.port with coreOut := insNat c.val s.port.coreOut } })))) ∧
  (∀ (n : Nat) (c : Cause) (x e : Option Nat) (d : Nat) (s : State),
    (s.spl.recovery = false → raise n c x e d s = { s with weir := { s.weir with raised := s.weir.raised ++ [⟨n, c, x, e, d⟩] } }) ∧
    (s.spl.recovery = true → raise n c x e d s = s)) ∧
  (∀ (c : CoreIx) (n : Nat) (e : Nat × Nat) (s : State), mget s.env.leaving c.val = some (.flushing n, e) → 120 ≤ n →
    ∃ x, exec (.coreOverdue c) s = .next (errOutputs (settle (coreLost c.val x))) ∧ bit (regRaw rENV_EVENT x) 4 = true ∧
      x.env = s.env ∧ x.que = s.que) ∧
  (∀ (c : CoreIx) (n : Nat) (e : Nat × Nat) (s : State), mget s.env.leaving c.val = some (.resetting n, e) →
    (100 ≤ n → exec (.coreOverdue c) s = .next (errOutputs (settle (coreLost c.val (setEvent rENV_EVENT 4 s))))) ∧
    (n < 100 → exec (.coreOverdue c) s = .next (errOutputs (settle s)))) ∧
  (∀ (c : CoreIx) (n : Nat) (e : Nat × Nat) (s : State), mget s.env.leaving c.val = some (.flushing n, e) → n < 120 →
    exec (.coreOverdue c) s = .next (errOutputs (settle s))) ∧
  (∀ (c : CoreIx) (e : Nat × Nat) (s : State), mget s.env.leaving c.val = none ∨ mget s.env.leaving c.val = some (.quiescing, e) ∨
    mget s.env.leaving c.val = some (.returning, e) → exec (.coreOverdue c) s = .next (errOutputs (settle s)))

/-- MGMT_REQUEST answers a sensor read with its value, an unsupported type with its code, and writes TTH_ROOT_SET
before phase 4 only (R69, R29). SENSOR_SAMPLE keeps a connected sensor's value and its tick, and SENSOR_STALE
after 10,000 ticks marks it stale with a level-0 event (R70). TAP_INSTRUCTION always takes IDCODE, BYPASS and
the monitors; an intrusive one is refused while a key slot holds a key (R72). The codes of the answers and the
sensors' numbers are the model's own (log 38). -/
def Obligations.ManagementPorts : Prop :=
  (∀ (v : MgmtVia) (n : Nat) (s : State), mgmtReaches v s = true →
    (∀ l : List W64, sensorRead n s = some l →
      exec (.mgmtRequest ⟨v, .pldmSensor n⟩) s = .next (errOutputs { s with out := s.out ++ [.mgmt v mgmtOk l] })) ∧
    (sensorRead n s = none →
      exec (.mgmtRequest ⟨v, .pldmSensor n⟩) s = .next (errOutputs { s with out := s.out ++ [.mgmt v mgmtSensor []] })) ∧
    (∀ m : MgmtReq, m = .pldmBase n ∨ m = .mctpControl n → ∃ w : W64, exec (.mgmtRequest ⟨v, m⟩) s =
      .next (errOutputs { s with free := s.free + 1, out := s.out ++ [.mgmt v mgmtOk [w]] }))) ∧
  (∀ (v : MgmtVia) (n : Nat) (s : State), mgmtReaches v s = true →
    exec (.mgmtRequest ⟨v, .pldmOther n⟩) s = .next (errOutputs { s with out := s.out ++ [.mgmt v mgmtType []] })) ∧
  (∀ (p : Nat) (m : MgmtReq) (s : State), linkUp p s = false → exec (.mgmtRequest ⟨.vdm p, m⟩) s = .next (errOutputs s)) ∧
  (∀ (v : MgmtVia) (x : W64) (s : State), mgmtReaches v s = true → s.spl.ended.contains 3 = true →
    exec (.mgmtRequest ⟨v, .writeRootSet x⟩) s = .next (errOutputs { s with out := s.out ++ [.mgmt v mgmtOk []] })) ∧
  (∀ (v : W64) (s : State), s.spl.ended.contains 3 = false →
    ∃ x, exec (.mgmtRequest ⟨.i3c, .writeRootSet v⟩) s = .next (errOutputs x) ∧ regRaw rTTH_ROOT_SET x = v ∧
      (∀ k, k ≠ rTTH_ROOT_SET → regRaw k x = regRaw k s) ∧ x.out = s.out ++ [.mgmt .i3c mgmtOk []] ∧ x.time = s.time) ∧
  (∀ (n : Fin 16) (v : BitVec 16) (s : State), sensorOn false n.val s = true →
    exec (.sensorSample false n v) s = .next (errOutputs { s with port := { s.port with
      temp := mset s.port.temp n.val ⟨v.toInt, tick s, false⟩ } })) ∧
  (∀ (n : Fin 16) (v : BitVec 16) (s : State), sensorOn true n.val s = true →
    exec (.sensorSample true n v) s = .next (errOutputs { s with port := { s.port with
      power := mset s.port.power n.val ⟨(v.toNat : Int), tick s, false⟩ } })) ∧
  (∀ (n : Fin 16) (s : State), sensorOn false n.val s = true → (mgetD s.port.temp n.val {}).stale = false →
    (mgetD s.port.temp n.val {}).tick + 10000 ≤ tick s →
    exec (.sensorStale false n) s = .next (errOutputs (raise 2 .sensorStale none none n.val { s with
      port := { s.port with temp := mset s.port.temp n.val { (mgetD s.port.temp n.val {}) with stale := true } } }))) ∧
  (∀ (n : Fin 16) (s : State), sensorOn true n.val s = true → (mgetD s.port.power n.val {}).stale = false →
    (mgetD s.port.power n.val {}).tick + 10000 ≤ tick s →
    exec (.sensorStale true n) s = .next (errOutputs (raise 2 .sensorStale none none (16 + n.val) { s with
      port := { s.port with power := mset s.port.power n.val { (mgetD s.port.power n.val {}) with stale := true } } }))) ∧
  (∀ (b : Bool) (n : Fin 16) (v : BitVec 16) (s : State), sensorOn b n.val s = false →
    exec (.sensorStale b n) s = .next (errOutputs s) ∧ exec (.sensorSample b n v) s = .next (errOutputs s)) ∧
  (∀ (b : Bool) (n : Fin 16) (s : State), (sensorRec b n.val s).stale = true ∨ tick s < (sensorRec b n.val s).tick + 10000 →
    exec (.sensorStale b n) s = .next (errOutputs s)) ∧
  (∀ (t : TapOp) (s : State), t = .idcode ∨ t = .bypass ∨ t = .bistMonitor →
    exec (.tapInstruction t) s = .next (errOutputs { s with
      port := { s.port with tap := t }, out := s.out ++ [.tap true] })) ∧
  (∀ (c : BitVec 16) (s : State), s.spl.phase = 1 ∨ keyHeld s = false →
    exec (.tapInstruction (.intrusive c)) s = .next (errOutputs { s with
      port := { s.port with tap := .intrusive c }, out := s.out ++ [.tap true] })) ∧
  (∀ (c : BitVec 16) (s : State), s.spl.phase ≠ 1 → keyHeld s = true →
    ∃ x, exec (.tapInstruction (.intrusive c)) s = .next (errOutputs x) ∧ x.out.getLast? = some (.tap false) ∧ x.port = s.port) ∧
  (∀ (c : BitVec 16) (s : State), s.spl.phase ≠ 1 → keyHeld s = true → AuditRoom s →
    ∃ x, exec (.tapInstruction (.intrusive c)) s = .next (errOutputs x) ∧ x.out = s.out ++ [.tap false] ∧
      x.port = s.port ∧ (s.obs.auditOn = true → x.obs.auditSeq = s.obs.auditSeq + 1))

/-- A command that a ring brings, on a queue that runs and has no other command, passes the checks of admission and
starts at once: HEAD passes its entries, the command is in the table as running with its deadline count, and its
work begins (R126, R130, R131, R132, R37). This holds for every command of Table 6-4, data and admin. On a queue
that does not run (its context not ACTIVE, its envelope pausing or paused, level 4, or a sluice stop) the
command enters and waits. An INLINE_WRITE whose extension entries TAIL does not cover waits at HEAD (R132). A
queue that is gone takes nothing, and no NOP row brings an opcode that is another row's (log 27). -/
def Obligations.CommandsStart : Prop :=
  (∀ (i : Instr) (q : Nat) (k : Queue) (h : CmdHdr) (b : CmdBody) (s : State), commandOf i = some (q, h, b) →
    startsAtOnce q k h b s →
    exec i s = .next (errOutputs (settle (advance q 63
      (startBody s.que.nextCmd (startedCmd q k h b s) (started q k h b s)))))) ∧
  (∀ (i : Instr) (q : Nat) (k : Queue) (h : CmdHdr) (b : CmdBody) (s : State), commandOf i = some (q, h, b) →
    mget s.que.queues q = some k → arrived 1 k = true → arrived (entriesOf h b) k = true → (k.entries.take 1).any (·.badHdr) = false →
    exec i s = .next (errOutputs (settle (afterEntry q (enterCmd q k h b (cmdOf q k h b s) s)))) ∧
    (queueRuns k s = false → k.entries.length = entriesOf h b → s.que.rung.contains q = false →
      exec i s = .next (errOutputs (settle (enterCmd q k h b (cmdOf q k h b s) s))))) ∧
  (∀ (i : Instr) (q : Nat) (h : CmdHdr) (b : CmdBody) (s : State), commandOf i = some (q, h, b) → mget s.que.queues q = none →
    exec i s = .next (errOutputs (settle s))) ∧
  (∀ (q : BitVec 16) (h : CmdHdr) (op : Byte) (s : State), commandOf (.nop q h op) = none →
    exec (.nop q h op) s = .next (errOutputs (settle s))) ∧
  (∀ (q : BitVec 16) (h : CmdHdr) (d : W64) (n : BitVec 16) (a : Byte) (data : List Byte) (k : Queue) (s : State),
    mget s.que.queues q.toNat = some k → arrived 1 k = true → (k.entries.take 1).any (·.badHdr) = false →
    arrived (1 + h.ext.val) k = false → dist32 k.upTo k.head < 1 + h.ext.val →
    exec (.inlineWrite q h d n a data) s = .next (errOutputs (settle
      (modQueue q.toNat (fun k => { keepEntries 1 k with wait := 1 + h.ext.val }) s))))

/-- A data command that starts at once does this (Table 6-4). NOP ends with OK. DISPATCH of one core takes a
dispatch token and sends the work dispatch on VC2; one of several takes a token for each (R66, R214). COPY and
FILL issue their first piece of at most the size of R198, at its virtual addresses with bit 56 kept, or end at
once for a length of 0 (R192, R193). INLINE_WRITE writes its LENGTH bytes (R132). CONVERT reads its first group,
or ends for a count of 0 (R302). REDUCE reads its plan, which is 64-byte aligned (R316). FENCE_SIGNAL goes to
its signal, at system scope behind the flushes that its release needs (R229); FENCE_WAIT registers its wait with
its timeout (R234, R235). ALLOC returns the handle and the address of the object it made, after the pieces that
write zeros where ZERO asks for them (R142), FREE makes its object a zombie, QUERY returns its item (R138, R141,
R144). -/
def Obligations.DataCommands : Prop :=
  ∀ (q : BitVec 16) (h : CmdHdr) (k : Queue) (s : State),
  (startsAtOnce q.toNat k h .nop s → exec (.nop q h 0) s = .next (errOutputs (settle (advance q.toNat 63
    (endCmd s.que.nextCmd .ok 0 0 (started q.toNat k h .nop s)))))) ∧
  (∀ (en ar : W64) (first : BitVec 16) (items : W32) (a : W64) (x e i : Nat) (cx : Ctx) (v : Env) (sl : Slots),
    startsAtOnce q.toNat k h (.dispatch en ar 1 first items a) s → k.ctx = some x → mget s.que.ctxs x = some cx → cx.env = some e →
    mget s.env.envs e = some v → first.toNat < v.cores.length → first ≠ 0xFFFF → s.que.tokens.length < 65536 →
    takeSlot 65536 s.que.tokSlots = some (i, sl) →
    exec (.dispatch q h en ar 1 first items a) s = .next (errOutputs (settle (advance q.toNat 63
      (modCmd s.que.nextCmd (fun c => { c with tokens := [i], res0 := 1 })
        (cfSend (v.cores.getD first.toNat 0 / 8) 2
          (.dispatch (v.cores.getD first.toNat 0 % 8) i en ar items a 0 1)
          (modQue (fun u => { u with tokSlots := sl, tokens := (mset u.tokens i
            { core := v.cores.getD first.toNat 0, cmd := s.que.nextCmd, ctx := x,
              ctxGen := slotGen s.que.ctxSlots x, relaxed := bit en 63,
              ident := cmdIdent (startedCmd q.toNat k h (.dispatch en ar 1 first items a) s)
                (started q.toNat k h (.dispatch en ar 1 first items a) s) }) })
            (started q.toNat k h (.dispatch en ar 1 first items a) s)))))))) ∧
  (∀ (en ar : W64) (n first : BitVec 16) (items : W32) (a : W64) (x e : Nat) (cx : Ctx) (v : Env),
    startsAtOnce q.toNat k h (.dispatch en ar n first items a) s → k.ctx = some x → mget s.que.ctxs x = some cx → cx.env = some e →
    mget s.env.envs e = some v → s.que.tokens.length + n.toNat ≤ 65536 → n.toNat ≤ freeSlots 65536 s.que.tokSlots →
    ∃ (t : State) (toks : List Nat), exec (.dispatch q h en ar n first items a) s = .next (errOutputs (settle (advance q.toNat 63 t))) ∧
      toks.length = n.toNat ∧ mget t.que.cmds s.que.nextCmd =
        some { startedCmd q.toNat k h (.dispatch en ar n first items a) s with tokens := toks, res0 := n.toNat } ∧
      t.que.reqs = s.que.reqs ∧ t.rsvr = s.rsvr ∧ t.reg = s.reg) ∧
  (∀ (src dst len : W64) (sh dh : Byte), startsAtOnce q.toNat k h (.copy src dst len sh dh) s →
    (len = 0 → exec (.copy q h src dst len sh dh) s = .next (errOutputs (settle (advance q.toNat 63
      (endCmd s.que.nextCmd .ok 0 0 (started q.toNat k h (.copy src dst len sh dh) s)))))) ∧
    (∀ (n sv dv m off : Nat), n = len.toNat → sv = src.toNat % 2 ^ 57 → dv = dst.toNat % 2 ^ 57 → 0 < n →
      m = min (pieceMax h.cls.val (hostHalf sv || hostHalf dv) (offChip sv s || offChip dv s) s) n →
      off = (if sv < dv ∧ dv < sv + n then n - m else 0) →
      exec (.copy q h src dst len sh dh) s = .next (errOutputs (settle (advance q.toNat 63
        (cmdReq s.que.nextCmd (startedCmd q.toNat k h (.copy src dst len sh dh) s)
          (.copy (sv + off) (dv + off) m) (if hostHalf dv then sh.toNat else dh.toNat)
          (modCmd s.que.nextCmd (fun c => { c with next := m }) (started q.toNat k h (.copy src dst len sh dh) s)))))))) ∧
  (∀ (dst len pat : W64) (a : Byte), startsAtOnce q.toNat k h (.fill dst len pat a) s →
    (len = 0 → exec (.fill q h dst len pat a) s = .next (errOutputs (settle (advance q.toNat 63
      (endCmd s.que.nextCmd .ok 0 0 (started q.toNat k h (.fill dst len pat a) s)))))) ∧
    (∀ m : Nat, 0 < len.toNat →
      m = min (pieceMax h.cls.val (hostHalf (dst.toNat % 2 ^ 57)) (offChip (dst.toNat % 2 ^ 57) s) s) len.toNat →
      exec (.fill q h dst len pat a) s = .next (errOutputs (settle (advance q.toNat 63
        (cmdReq s.que.nextCmd (startedCmd q.toNat k h (.fill dst len pat a) s) (.fill (dst.toNat % 2 ^ 57) m pat 0) a.toNat
          (modCmd s.que.nextCmd (fun c => { c with next := m }) (started q.toNat k h (.fill dst len pat a) s)))))))) ∧
  (∀ (dst : W64) (n : BitVec 16) (a : Byte) (d : List Byte), startsAtOnce q.toNat k h (.inlineWrite dst n a d) s →
    exec (.inlineWrite q h dst n a d) s = .next (errOutputs (settle (advance q.toNat 63
      (cmdReq s.que.nextCmd (startedCmd q.toNat k h (.inlineWrite dst n a d) s)
        (.store (dst.toNat % 2 ^ 57) (d.take n.toNat)) a.toNat (started q.toNat k h (.inlineWrite dst n a d) s)))))) ∧
  (∀ (src dst : W64) (n : W32) (a b r f : Byte) (key : W64), startsAtOnce q.toNat k h (.convert src dst n a b r f key) s →
    exec (.convert q h src dst n a b r f key) s = .next (errOutputs (settle (advance q.toNat 63
      (nextGroup s.que.nextCmd (started q.toNat k h (.convert src dst n a b r f key) s))))) ∧
    (n = 0 → nextGroup s.que.nextCmd (started q.toNat k h (.convert src dst n a b r f key) s) =
      endCmd s.que.nextCmd .ok 0 0 (started q.toNat k h (.convert src dst n a b r f key) s)) ∧
    (∀ (g : Fmt) (u : Nat × Nat), fmtOf (a.toNat % 16) = some g → 0 < n.toNat →
      u = (if g = .cxp then (src.toNat % 2 ^ 57, if f.toNat / 4 % 2 = 1 then 64 * min 1024 n.toNat else 32)
        else (src.toNat % 2 ^ 57 + groupOffset g (f.toNat % 2 = 1) 0, arrayBytes g (f.toNat % 2 = 1) (min 1024 n.toNat))) →
      nextGroup s.que.nextCmd (started q.toNat k h (.convert src dst n a b r f key) s) =
      cmdReq s.que.nextCmd (startedCmd q.toNat k h (.convert src dst n a b r f key) s) (.load u.1 u.2) 0
        (modCmd s.que.nextCmd (fun c => { c with inFlight := min 1024 n.toNat, step := 0 })
          (started q.toNat k h (.convert src dst n a b r f key) s)))) ∧
  (∀ (src dst : W64) (n : W32) (f op m r : Byte) (plan : W64), startsAtOnce q.toNat k h (.reduce src dst n f op m r plan) s →
    plan.toNat % 64 = 0 ∧ exec (.reduce q h src dst n f op m r plan) s = .next (errOutputs (settle (advance q.toNat 63
      (cmdReq s.que.nextCmd (startedCmd q.toNat k h (.reduce src dst n f op m r plan) s) (.load (plan.toNat % 2 ^ 57) 64) 0
        (modCmd s.que.nextCmd (fun c => { c with step := 1 }) (started q.toNat k h (.reduce src dst n f op m r plan) s))))))) ∧
  (∀ (f v : W64) (x : Nat) (fe : Fence) (need : List (Nat × Nat)) (t : State), startsAtOnce q.toNat k h (.fenceSignal f v) s →
    k.ctx = some x → mget s.que.fences (handleOf f).index = some fe →
    (need, t) = (if 4 ≤ max h.scope.val fe.scope then releaseFlush x (started q.toNat k h (.fenceSignal f v) s)
      else ([], started q.toNat k h (.fenceSignal f v) s)) →
    exec (.fenceSignal q h f v) s = .next (errOutputs (settle (advance q.toNat 63
      (publish need (.signal s.que.nextCmd) t))))) ∧
  (∀ (f g : W64) (t : W32), startsAtOnce q.toNat k h (.fenceWait f g t) s →
    exec (.fenceWait q h f g t) s = .next (errOutputs (settle (advance q.toNat 63
      (fenceWait { fence := (handleOf f).index, target := g, who := .cmd s.que.nextCmd, scope := h.scope.val, ctx := k.ctx,
                   ident := cmdIdent (startedCmd q.toNat k h (.fenceWait f g t) s) (started q.toNat k h (.fenceWait f g t) s)
                   env := cmdEnv (startedCmd q.toNat k h (.fenceWait f g t) s) (started q.toNat k h (.fenceWait f g t) s)
                   core := 0x1FF, engine := 0, left := (if t = 0 then none else some t.toNat), registered := true }
        (started q.toNat k h (.fenceWait f g t) s)))))) ∧
  (∀ (n : W64) (al fl : Byte) (x i : Nat) (cx : Ctx) (o : Obj) (t : State), startsAtOnce q.toNat k h (.alloc n al fl) s →
    k.ctx = some x → mget s.que.ctxs x = some cx →
    allocObj (some x) cx.env n.toNat al.toNat fl.toNat false (started q.toNat k h (.alloc n al fl) s) = ((.ok, i), t) →
    mget t.que.objs i = some o →
    exec (.alloc q h n al fl) s = .next (errOutputs (settle (advance q.toNat 63
      (match (if fl.toNat % 2 = 1 then zeroPiece h.cls.val i 0 t else none) with
       | some op => cmdReq s.que.nextCmd (startedCmd q.toNat k h (.alloc n al fl) s) op 0 t
       | none => endCmd s.que.nextCmd .ok (mkHandle 3 i (slotGen t.que.objSlots i)).toNat (objVa o t) t))))) ∧
  (∀ (f : W64) (o : Obj), startsAtOnce q.toNat k h (.free f) s → mget s.que.objs (handleOf f).index = some o →
    exec (.free q h f) s = .next (errOutputs (settle (advance q.toNat 63
      (if o.isPt then endCmd s.que.nextCmd .invalid 0 0 (started q.toNat k h (.free f) s)
       else endCmd s.que.nextCmd .ok 0 0 (zombify (handleOf f).index (started q.toNat k h (.free f) s))))))) ∧
  (∀ (it ix : BitVec 16) (r0 r1 : Nat), startsAtOnce q.toNat k h (.query it ix) s →
    queryItem it.toNat ix.toNat k.fn (k.ctx.bind fun x => ctxEnv x s) (started q.toNat k h (.query it ix) s) = some (r0, r1) →
    exec (.query q h it ix) s = .next (errOutputs (settle (advance q.toNat 63
      (endCmd s.que.nextCmd .ok r0 r1 (started q.toNat k h (.query it ix) s))))))

/-- An admin command that starts at once takes effect in that step and then ends with its record (R126, Table 6-4);
R stands for its status and results. CTX_CREATE without a page table for the physical function takes the next
context slot, the pages and the class it names; in general it ends with what its creation gives, and returns the
handle on OK (R121, R124, R150, R424). CTX_DESTROY of a context starts the forced-abort destruction, and is BUSY
while one runs (R139). CTX_RESUME makes a FAULTED context ACTIVE, else BUSY (R422). CTX_RECLAIM makes a
HOST_PATH_LOST context of its function ACTIVE, else BUSY (R136, R422). QUEUE_CREATE returns the handle and the
doorbell index (R127, R128); QUEUE_DESTROY drops the queue; QUEUE_STOP stops an ACTIVE queue and returns HEAD,
QUEUE_START makes a STOPPED one ACTIVE and serves its doorbell, else BUSY (R137). FENCE_CREATE takes a slot for
a LIVE fence with its initial value; FENCE_DESTROY destroys (R233). REGION_REGISTER ends with what the
registration gives; REGION_REVOKE ends the region at the next edge (R187, R190). RILL_BIND binds an assigned
slot to a context and a core of the envelope, RILL_UNBIND unbinds it (R135). -/
def Obligations.AdminCommands : Prop :=
  ∀ (q : BitVec 16) (h : CmdHdr) (k : Queue) (s : State), k.ctx = none →
  let R : CmdBody → Status → Nat → Nat → State → Res := fun _ st r0 r1 t =>
    .next (errOutputs (settle (advance q.toNat 63 (endCmd s.que.nextCmd st r0 r1 t))))
  (∀ (p : W32) (d : Byte) (i : Nat) (sl : Slots), startsAtOnce q.toNat k h (.ctxCreate p 0 d) s → (func k.fn s).env = none →
    takeSlot 4096 s.que.ctxSlots = some (i, sl) →
    exec (.ctxCreate q h p 0 d) s = R (.ctxCreate p 0 d) .ok (mkHandle 1 i (slotGen sl i)).toNat 0
      (modQue (fun u => { u with ctxSlots := sl, ctxs := (mset u.ctxs i
        { st := .active, fn := k.fn, env := none, pasid := p.toNat, ptObj := none, defCls := d.toNat }) })
        (started q.toNat k h (.ctxCreate p 0 d) s))) ∧
  (∀ (p : W32) (root : W64) (d : Byte) (st : Status) (i : Nat) (t : State), startsAtOnce q.toNat k h (.ctxCreate p root d) s →
    ctxCreate k.fn p.toNat root d.toNat (started q.toNat k h (.ctxCreate p root d) s) = ((st, i), t) →
    exec (.ctxCreate q h p root d) s = R (.ctxCreate p root d) st
      (if st = .ok then (mkHandle 1 i (slotGen t.que.ctxSlots i)).toNat else 0) 0 t) ∧
  (∀ (c : W64) (x : Ctx), startsAtOnce q.toNat k h (.ctxDestroy c) s → mget s.que.ctxs (handleOf c).index = some x →
    exec (.ctxDestroy q h c) s = (if x.st = .destroying then R (.ctxDestroy c) .busy 0 0 (started q.toNat k h (.ctxDestroy c) s)
      else .next (errOutputs (settle (advance q.toNat 63
        (destroyCtx (handleOf c).index (some s.que.nextCmd) (started q.toNat k h (.ctxDestroy c) s))))))) ∧
  (∀ (c : W64) (x : Ctx), startsAtOnce q.toNat k h (.ctxResume c) s → mget s.que.ctxs (handleOf c).index = some x →
    exec (.ctxResume q h c) s = (if x.st = .faulted then R (.ctxResume c) .ok 0 0
        { started q.toNat k h (.ctxResume c) s with que := { (started q.toNat k h (.ctxResume c) s).que with
          ctxs := mset s.que.ctxs (handleOf c).index { x with st := .active } } }
      else R (.ctxResume c) .busy 0 0 (started q.toNat k h (.ctxResume c) s))) ∧
  (∀ (i : BitVec 16) (x : Ctx), startsAtOnce q.toNat k h (.ctxReclaim i) s → mget s.que.ctxs i.toNat = some x → x.fn = k.fn →
    exec (.ctxReclaim q h i) s = (if x.st = .hostPathLost then
        R (.ctxReclaim i) .ok (mkHandle 1 i.toNat (slotGen s.que.ctxSlots i.toNat)).toNat 0
          (ctxClear i.toNat (modCtx i.toNat (fun x => { x with st := .active }) (started q.toNat k h (.ctxReclaim i) s)))
      else R (.ctxReclaim i) .busy 0 0 (started q.toNat k h (.ctxReclaim i) s))) ∧
  (∀ (c ring cpl : W64) (n f : Byte) (v : BitVec 16) (p : Byte) (st : Status) (i d : Nat) (t : State),
    startsAtOnce q.toNat k h (.queueCreate c ring cpl n f v p) s →
    queueCreate k.fn (handleOf c).index ring cpl n.toNat f.toNat v.toNat p.toNat
      (started q.toNat k h (.queueCreate c ring cpl n f v p) s) = ((st, i, d), t) →
    exec (.queueCreate q h c ring cpl n f v p) s = R (.queueCreate c ring cpl n f v p) st
      (if st = .ok then (mkHandle 2 i (slotGen t.que.queSlots i)).toNat else 0) d t) ∧
  (∀ x : W64, startsAtOnce q.toNat k h (.queueDestroy x) s →
    exec (.queueDestroy q h x) s = R (.queueDestroy x) .ok 0 0 (dropQueue (handleOf x).index (started q.toNat k h (.queueDestroy x) s))) ∧
  (∀ (x : W64) (u : Queue), startsAtOnce q.toNat k h (.queueStop x) s → (handleOf x).index ≠ q.toNat →
    mget s.que.queues (handleOf x).index = some u →
    exec (.queueStop q h x) s = (if u.st = .active then R (.queueStop x) .ok (fetchHead u) 0
        (modQueue (handleOf x).index (fun u => { u with st := .stopped }) (started q.toNat k h (.queueStop x) s))
      else R (.queueStop x) .busy 0 0 (started q.toNat k h (.queueStop x) s))) ∧
  (∀ (x : W64) (u : Queue), startsAtOnce q.toNat k h (.queueStart x) s → (handleOf x).index ≠ q.toNat →
    mget s.que.queues (handleOf x).index = some u →
    exec (.queueStart q h x) s = (if u.st = .stopped then R (.queueStart x) .ok 0 0
        (modQue (fun y => { y with rung := if y.rung.contains (handleOf x).index then y.rung else y.rung ++ [(handleOf x).index] })
          (modQueue (handleOf x).index (fun u => { u with st := .active }) (started q.toNat k h (.queueStart x) s)))
      else R (.queueStart x) .busy 0 0 (started q.toNat k h (.queueStart x) s))) ∧
  (∀ (c i : W64) (sc m : Byte) (n : Nat) (sl : Slots), startsAtOnce q.toNat k h (.fenceCreate c i sc m) s →
    ctxOpen (handleOf c).index s = true → quotaLeft (ctxEnv (handleOf c).index s) 4 s = true →
    takeSlot 16384 s.que.fenSlots = some (n, sl) →
    exec (.fenceCreate q h c i sc m) s = R (.fenceCreate c i sc m) .ok (mkHandle 4 n (slotGen sl n)).toNat 0
      (modQue (fun u => { u with fenSlots := sl, fences := (mset u.fences n
        { value := i, compat := m == 1, scope := sc.toNat, ctx := (handleOf c).index }) })
        (started q.toNat k h (.fenceCreate c i sc m) s))) ∧
  (∀ f : W64, startsAtOnce q.toNat k h (.fenceDestroy f) s →
    exec (.fenceDestroy q h f) s = R (.fenceDestroy f) .ok 0 0 (destroyFence (handleOf f).index (started q.toNat k h (.fenceDestroy f) s))) ∧
  (∀ (o off len : W64) (r : Byte) (st : Status) (i r1 : Nat) (t : State), startsAtOnce q.toNat k h (.regionRegister o off len r) s →
    regionRegister k.fn (handleOf o).index off.toNat len.toNat (started q.toNat k h (.regionRegister o off len r) s) =
      ((st, i, r1), t) →
    exec (.regionRegister q h o off len r) s = R (.regionRegister o off len r) st
      (if st = .ok then (mkHandle 5 i (slotGen t.que.regSlots i)).toNat else 0) r1 t) ∧
  (∀ (r : W64) (v : Region), startsAtOnce q.toNat k h (.regionRevoke r) s → mget s.que.regions (handleOf r).index = some v →
    exec (.regionRevoke q h r) s = R (.regionRevoke r) .ok 0 0 (modQue (fun u => { u with
      regions := mset u.regions (handleOf r).index { v with ending := true } }) (started q.toNat k h (.regionRevoke r) s))) ∧
  (∀ (sl core : BitVec 16) (c : W64) (e : Nat) (v : Env), startsAtOnce q.toNat k h (.rillBind sl core c) s →
    (func k.fn s).env = some e → mget s.env.envs e = some v → sl.toNat ∈ v.rill → core.toNat < v.cores.length →
    ctxOpen (handleOf c).index s = true →
    exec (.rillBind q h sl core c) s = R (.rillBind sl core c) .ok 0 0 (modQue (fun u => { u with
      rills := mset u.rills sl.toNat { mgetD u.rills sl.toNat {} with ctx := some (handleOf c).index, core := core.toNat } })
      (started q.toNat k h (.rillBind sl core c) s))) ∧
  (∀ (sl : BitVec 16) (e : Nat) (v : Env) (r : Rill), startsAtOnce q.toNat k h (.rillUnbind sl) s →
    (func k.fn s).env = some e → mget s.env.envs e = some v → sl.toNat ∈ v.rill → mget s.que.rills sl.toNat = some r →
    exec (.rillUnbind q h sl) s = R (.rillUnbind sl) .ok 0 0 (modQue (fun u => { u with
      rills := mset u.rills sl.toNat { r with ctx := none } }) (started q.toNat k h (.rillUnbind sl) s)))

/-- SUBMIT_DOORBELL with the generation of a queue that takes doorbells moves TAIL and the queue is recorded for
service; a value behind TAIL is counted as stale, one beyond the ring is RING_OVERRUN, one that does not match
is counted as dropped, and a lower half is held until its upper half comes (R11, R128, R129).
COMPLETION_DOORBELL moves the completion head, and not beyond what the completion reports have reached (R133).
RILL_WRITE writes the bytes of the page of a bound slot, notifies the core when it writes the last 8 bytes, and
is counted as dropped where the slot is not bound to an ACTIVE context of the function (R135). Behind earlier
inbound requests of the port each waits for its place in the order of arrival (R191), and outside the IDE stream
of a port that requires one it is discarded (R117). MODERATION_DELAY sends the message after the delay (R250).
WINDOW_SLIDE opens the window over the context that it names with its generation, closes it where bit 12 is 0,
and sets ERROR where the context or the base is not usable (R183). -/
def Obligations.DoorbellsAndRill : Prop :=
  (∀ (t : Tlp) (p : HP) (fn : Fn) (sl : Fin 32768) (v : W64) (s : State) (i : Nat) (q : Queue), outsideIde t p.val s = false →
    fnOpen p.val fn.val s = true → slotQueue fn.val sl.val s = some (i, q) → inboundAhead p.val s.que.nextReq s = false →
    (s.env.zeroising = false → takesDoorbell i q (fld v 32 24) s = true → dist32 (fld v 0 32) q.tail < 2 ^ 31 →
      dist32 (fld v 0 32) (fetchHead q) ≤ 2 ^ q.k →
      exec (.submitDoorbell ⟨t, p⟩ fn sl (.full v)) s = .next (errOutputs (settle (modQue
        (fun x => { x with
          queues := mmod x.queues i (fun q => { q with tail := fld v 0 32 })
          rung := if x.rung.contains i then x.rung else x.rung ++ [i] })
        (traceRec ⟨s.time.now, 0, 0, 3, 0, traceCtx q.ctx, traceEnv (func fn.val s).env, 8,
          BitVec.ofNat 64 (fld v 0 32 + 2 ^ 32 * sl.val)⟩ s))))) ∧
    (s.env.zeroising = false → takesDoorbell i q (fld v 32 24) s = true → 2 ^ 31 ≤ dist32 (fld v 0 32) q.tail →
      exec (.submitDoorbell ⟨t, p⟩ fn sl (.full v)) s = .next (errOutputs (settle { s with ep := { s.ep with
        funcs := mset s.ep.funcs fn.val { func fn.val s with dbStale := satAdd 32 (func fn.val s).dbStale 1 } } }))) ∧
    (s.env.zeroising = false → takesDoorbell i q (fld v 32 24) s = true → dist32 (fld v 0 32) q.tail < 2 ^ 31 →
      2 ^ q.k < dist32 (fld v 0 32) (fetchHead q) →
      exec (.submitDoorbell ⟨t, p⟩ fn sl (.full v)) s = .next (errOutputs (settle (queueError i .ringOverrun s)))) ∧
    (takesDoorbell i q (fld v 32 24) s = false →
      exec (.submitDoorbell ⟨t, p⟩ fn sl (.full v)) s = .next (errOutputs (settle { s with ep := { s.ep with
        funcs := mset s.ep.funcs fn.val { func fn.val s with dbDropped := satAdd 32 (func fn.val s).dbDropped 1 } } }))) ∧
    (takesDoorbell i q (fld v 32 24) s = true → dist32 (fld v 0 32) q.chead < 2 ^ 31 →
      exec (.completionDoorbell ⟨t, p⟩ fn sl (.full v)) s = .next (errOutputs (settle { s with que := { s.que with
        queues := mmod s.que.queues i (fun y => { y with chead :=
          (if dist32 q.cdone q.chead < dist32 (fld v 0 32) q.chead then q.cdone else fld v 0 32) }) } })))) ∧
  (∀ (t : Tlp) (p : HP) (fn : Fn) (sl : Fin 32768) (v : W32) (s : State), outsideIde t p.val s = false → fnOpen p.val fn.val s = true →
    exec (.submitDoorbell ⟨t, p⟩ fn sl (.lower v)) s = .next (errOutputs (settle { s with reg := { s.reg with
      half := mset s.reg.half (4 * doorbellKey fn.val sl.val 0 + p.val) v } })) ∧
    exec (.completionDoorbell ⟨t, p⟩ fn sl (.lower v)) s = .next (errOutputs (settle { s with reg := { s.reg with
      half := mset s.reg.half (4 * doorbellKey fn.val sl.val 1 + p.val) v } })) ∧
    (∀ lo : W32, mget s.reg.half (4 * doorbellKey fn.val sl.val 0 + p.val) = some lo →
      exec (.submitDoorbell ⟨t, p⟩ fn sl (.upper v)) s = exec (.submitDoorbell ⟨t, p⟩ fn sl
        (.full (BitVec.ofNat 64 (lo.toNat + v.toNat * 2 ^ 32))))
        { s with reg := { s.reg with half := mdel s.reg.half (4 * doorbellKey fn.val sl.val 0 + p.val) } })) ∧
  (∀ (t : Tlp) (p : HP) (fn : Fn) (sl : Fin 32768) (r : Fin 1024) (off : BitVec 12) (d : List Byte) (v : W64) (s : State),
    outsideIde t p.val s = false → fnOpen p.val fn.val s = true → inboundAhead p.val s.que.nextReq s = true →
    exec (.submitDoorbell ⟨t, p⟩ fn sl (.full v)) s = .next (errOutputs (settle (newReq
      { who := .inbound p.val, fn := fn.val, env := (func fn.val s).env, ident := {}, op := .ring fn.val sl.val 0 v } s))) ∧
    (frozen s = false → fn ≠ 0 → exec (.rillWrite ⟨t, p⟩ fn r off d) s = .next (errOutputs (settle (newReq
      { who := .inbound p.val, fn := fn.val, env := (func fn.val s).env, ident := {}, op := .rill fn.val r.val off.toNat d } s)))) ∧
    landed p.val (.ring fn.val sl.val 0 v) s = submit fn.val sl.val v s ∧
    landed p.val (.rill fn.val r.val off.toNat d) s = rillLand p.val fn.val r.val off.toNat d s) ∧
  (∀ (t : Tlp) (p : HP) (fn : Fn) (sl : Fin 32768) (r : Fin 1024) (off : BitVec 12) (d : List Byte) (w : RegW) (s : State),
    outsideIde t p.val s = true → frozen s = false →
    exec (.submitDoorbell ⟨t, p⟩ fn sl w) s = .next (errOutputs (settle (countOutside p.val s))) ∧
    exec (.rillWrite ⟨t, p⟩ fn r off d) s = .next (errOutputs (settle (countOutside p.val s)))) ∧
  (∀ (t : Tlp) (p : HP) (fn : Fn) (sl : Fin 1024) (off : BitVec 12) (d : List Byte) (s : State) (r : Rill) (c : Nat) (x : Ctx),
    outsideIde t p.val s = false → frozen s = false → fn ≠ 0 → fnOpen p.val fn.val s = true →
    inboundAhead p.val s.que.nextReq s = false → sl.val ∈ rillOf fn.val s → mget s.que.rills sl.val = some r →
    r.ctx = some c → mget s.que.ctxs c = some x → x.st = .active → x.fn = fn.val →
    (off.toNat + d.length < 4096 →
      exec (.rillWrite ⟨t, p⟩ fn sl off d) s = .next (errOutputs (settle (count 7 1 p.val d.length { s with que := { s.que with
        rills := mset s.que.rills sl.val { r with mem := cellsSet r.mem off.toNat d } } })))) ∧
    (∀ (e : Nat) (v : Env), off.toNat ≤ 4088 → off.toNat + d.length = 4096 → (func fn.val s).env = some e →
      mget s.env.envs e = some v → v.st ≠ .pausing → v.st ≠ .paused →
      exec (.rillWrite ⟨t, p⟩ fn sl off d) s = .next (errOutputs (settle (rillNotify fn.val sl.val (v.cores.getD r.core 0)
        (ofBytes (cellsGet (cellsSet r.mem off.toNat d) 4088 4))
        (ofBytes (cellsGet (cellsSet r.mem off.toNat d) 4092 2) % 4096)
        (count 7 1 p.val d.length { s with que := { s.que with
          rills := mset s.que.rills sl.val { r with mem := cellsSet r.mem off.toNat d } } })))))) ∧
  (∀ (t : Tlp) (p : HP) (fn : Fn) (sl : Fin 1024) (off : BitVec 12) (d : List Byte) (s : State), outsideIde t p.val s = false →
    frozen s = false → fn ≠ 0 → fnOpen p.val fn.val s = true → inboundAhead p.val s.que.nextReq s = false →
    sl.val ∉ rillOf fn.val s →
    exec (.rillWrite ⟨t, p⟩ fn sl off d) s = .next (errOutputs (settle { s with ep := { s.ep with
      funcs := mset s.ep.funcs fn.val { func fn.val s with rillDropped := satAdd 32 (func fn.val s).rillDropped 1 } } }))) ∧
  (∀ (fn : Fn) (v : Fin 2048) (s : State) (m : ModAcc), mget s.ep.mods (vecKey fn.val v.val) = some m → m.firings ≠ 0 →
    regFld (fnKey fn.val (fSYN_MOD + 8 * v.val)) 8 12 s ≠ 0 → regFld (fnKey fn.val (fSYN_MOD + 8 * v.val)) 8 12 s ≤ m.ticks →
    exec (.moderationDelay fn v) s = .next (errOutputs (settle (sendMsix fn.val v.val { s with ep := { s.ep with
      mods := mdel s.ep.mods (vecKey fn.val v.val) } })))) ∧
  (∀ (fn : Fn) (v : Fin 2048) (s : State) (m : ModAcc), mget s.ep.mods (vecKey fn.val v.val) = some m →
    m.firings = 0 ∨ regFld (fnKey fn.val (fSYN_MOD + 8 * v.val)) 8 12 s = 0 ∨
      m.ticks < regFld (fnKey fn.val (fSYN_MOD + 8 * v.val)) 8 12 s →
    exec (.moderationDelay fn v) s = .next (errOutputs (settle s))) ∧
  (∀ (p : HP) (fn : Fn) (v : W64) (s : State), fnOpen p.val fn.val s = true →
    ∃ x, exec (.windowSlide p fn (.full v)) s = .next (errOutputs (settle x)) ∧ x.que = s.que ∧ x.out = s.out ∧
      regRaw (fnKey fn.val fDPA_WIN_CTL) x = (v &&& 0xFFFFFFFF00003FFF) ∧
      (bit v 12 = false → (func fn.val x).winActive = false ∧ (func fn.val x).winError = false) ∧
      (∀ c : Ctx, bit v 12 = true → mget s.que.ctxs (fld v 0 12) = some c → c.fn = fn.val → c.st = .active →
        slotGen s.que.ctxSlots (fld v 0 12) = fld v 32 32 → fld (regRaw (fnKey fn.val fDPA_WIN_BASE) s) 0 57 < 2 ^ 56 →
        fld (regRaw (fnKey fn.val fDPA_WIN_BASE) s) 0 57 % winSize fn.val = 0 →
        (func fn.val x).winActive = true ∧ (func fn.val x).winCtx = fld v 0 12 ∧ (func fn.val x).winGen = fld v 32 32 ∧
        (func fn.val x).winBase = fld (regRaw (fnKey fn.val fDPA_WIN_BASE) s) 0 57) ∧
      (bit v 12 = true → slotGen s.que.ctxSlots (fld v 0 12) ≠ fld v 32 32 →
        (func fn.val x).winActive = false ∧ (func fn.val x).winError = true))

/-- Through an open window, HOST_WINDOW_READ, HOST_WINDOW_WRITE and HOST_WINDOW_ATOMIC enter a request of the
function, with the context and the generation of the window, at the base plus the offset; through one that is
not open a write is dropped and a read answered with zeros, both counted (R183 to R185; that the AtomicOp is
answered so too is log 25). WINDOW_READ_LATE answers a read that waits with zeros as a poisoned completion and
counts it (R185). PLACEMENT_WRITE with the key of the region, within its length, enters a store at its place in
the object; with another key it is refused and counted (R187, R188). PLACEMENT_READ is answered with zeros, and
an AtomicOp as an Unsupported Request (R190). Completions carry the attributes of their requests (R119); outside
the IDE stream of a port that requires one a write is discarded and a read is an Unsupported Request (R117). -/
def Obligations.WindowAndPlacement : Prop :=
  (∀ (t : Tlp) (p : HP) (fn : Fn) (off : BitVec 29) (len : Fin 4096) (tag : BitVec 14) (s : State), outsideIde t p.val s = false →
    fnOpen p.val fn.val s = true → off.toNat + (len.val + 1) ≤ winSize fn.val →
    ((func fn.val s).winActive = true → exec (.hostWindowRead ⟨t, p⟩ fn off len tag) s = .next (errOutputs (settle
      (newReq (winReq p.val fn.val tag.toNat off.toNat true (fun va => .load va (len.val + 1)) s)
        { s with ep := { s.ep with winReads := s.ep.winReads ++ [⟨s.que.nextReq, p.val, fn.val, tag.toNat, t.attr⟩] } })))) ∧
    ((func fn.val s).winActive = false → exec (.hostWindowRead ⟨t, p⟩ fn off len tag) s = .next (errOutputs (settle
      (tell p.val (.cpl fn.val tag.toNat (List.replicate (len.val + 1) 0) false t.attr) { s with
        ep := { s.ep with funcs := mset s.ep.funcs fn.val { func fn.val s with
          winDropped := satAdd 16 (func fn.val s).winDropped 1 } } }))))) ∧
  (∀ (t : Tlp) (p : HP) (fn : Fn) (off : BitVec 29) (len : Fin 4096) (tag : BitVec 14) (d : List Byte) (s : State),
    outsideIde t p.val s = true → frozen s = false →
    (readArrives p.val fn.val s = true → exec (.hostWindowRead ⟨t, p⟩ fn off len tag) s = .next (errOutputs (settle
      (tell p.val (.unsupported fn.val tag.toNat t.attr) (countOutside p.val s))))) ∧
    exec (.hostWindowWrite ⟨t, p⟩ fn off d) s = .next (errOutputs (settle (countOutside p.val s)))) ∧
  (∀ (t : Tlp) (p : HP) (fn : Fn) (off : BitVec 29) (d : List Byte) (s : State), outsideIde t p.val s = false → frozen s = false →
    fnOpen p.val fn.val s = true → off.toNat + d.length ≤ winSize fn.val → d ≠ [] →
    ((func fn.val s).winActive = true → exec (.hostWindowWrite ⟨t, p⟩ fn off d) s = .next (errOutputs (settle
      (newReq (winReq p.val fn.val 0 off.toNat false (fun va => .store va d) s) (count 7 1 p.val d.length s))))) ∧
    ((func fn.val s).winActive = false → exec (.hostWindowWrite ⟨t, p⟩ fn off d) s = .next (errOutputs (settle { s with
      ep := { s.ep with funcs := mset s.ep.funcs fn.val { func fn.val s with
        winDropped := satAdd 16 (func fn.val s).winDropped 1 } } })))) ∧
  (∀ (t : Tlp) (p : HP) (fn : Fn) (off : BitVec 29) (kind width : Fin 3) (x y : BitVec 128) (tag : BitVec 14) (s : State),
    outsideIde t p.val s = false → frozen s = false → fnOpen p.val fn.val s = true →
    off.toNat + (hostAtom kind.val width.val x y).width ≤ winSize fn.val →
    (width.val ≠ 2 ∨ kind.val = 2 → (func fn.val s).winActive = true →
      exec (.hostWindowAtomic ⟨t, p⟩ fn off kind width x y tag) s = .next (errOutputs (settle
        (newReq (winReq p.val fn.val tag.toNat off.toNat true (fun va => .atomic va (hostAtom kind.val width.val x y)) s)
          { s with ep := { s.ep with winReads := s.ep.winReads ++ [⟨s.que.nextReq, p.val, fn.val, tag.toNat, t.attr⟩] } })))) ∧
    (width.val ≠ 2 ∨ kind.val = 2 → (func fn.val s).winActive = false →
      exec (.hostWindowAtomic ⟨t, p⟩ fn off kind width x y tag) s = .next (errOutputs (settle (tell p.val
        (.cpl fn.val tag.toNat (List.replicate (hostAtom kind.val width.val x y).width 0) false t.attr) { s with
        ep := { s.ep with funcs := mset s.ep.funcs fn.val { func fn.val s with
          winDropped := satAdd 16 (func fn.val s).winDropped 1 } } })))) ∧
    (width.val = 2 → kind.val ≠ 2 → exec (.hostWindowAtomic ⟨t, p⟩ fn off kind width x y tag) s =
      .next (errOutputs (settle (tell p.val (.unsupported fn.val tag.toNat t.attr) s))))) ∧
  (∀ (p : HP) (fn : Fn) (tag : BitVec 14) (w : WinRead) (s : State),
    (s.ep.winReads.find? fun w => w.port == p.val && w.fn == fn.val && w.tag == tag.toNat) = some w →
    exec (.windowReadLate p fn tag) s = .next (errOutputs (settle (tell p.val
      (.cpl fn.val tag.toNat (List.replicate (winLen w s) 0) true w.attr) { s with
      ep := { s.ep with winReads := s.ep.winReads.filter (fun y => y.id != w.id)
                        funcs := mset s.ep.funcs fn.val { func fn.val s with winLate := satAdd 16 (func fn.val s).winLate 1 } } })))) ∧
  (∀ (t : Tlp) (p : HP) (off : BitVec 36) (key : BitVec 20) (d : List Byte) (i : Nat) (r : Region) (s : State),
    outsideIde t p.val s = false → frozen s = false → barOpen p.val 0 s = true → s.spl.recovery = false → d ≠ [] →
    (s.que.regions.find? fun e => e.2.win ≤ off.toNat / 2 ^ 20 && off.toNat / 2 ^ 20 < e.2.win + e.2.nwin) = some (i, r) →
    (∀ (ob : Obj) (x : Ctx), mgrPort p.val s = true → r.key = key.toNat → off.toNat - r.win * 2 ^ 20 + d.length ≤ r.len →
      mget s.que.objs r.obj = some ob → mget s.que.ctxs r.ctx = some x →
      exec (.placementWrite ⟨t, p⟩ off (some key) d) s = .next (errOutputs (settle (newReq
        { who := .inbound p.val, fn := x.fn, env := ctxEnv r.ctx s
          ident := { ctx := some r.ctx, gen := slotGen s.que.ctxSlots r.ctx, cls := x.defCls }
          op := .place (objVa ob s + r.off + (off.toNat - r.win * 2 ^ 20)) d i } (count 7 1 p.val d.length s))))) ∧
    (mgrPort p.val s = false ∨ r.key ≠ key.toNat ∨ r.len < off.toNat - r.win * 2 ^ 20 + d.length →
      exec (.placementWrite ⟨t, p⟩ off (some key) d) s = .next (errOutputs (settle (plcRefused p.val (ctxEnv r.ctx s) s)))) ∧
    (exec (.placementWrite ⟨t, p⟩ off none d) s = .next (errOutputs (settle (plcRefused p.val (ctxEnv r.ctx s) s))))) ∧
  (∀ (t : Tlp) (p : HP) (len : Fin 4096) (tag : BitVec 14) (s : State), outsideIde t p.val s = false → barOpen p.val 0 s = true →
    exec (.placementRead ⟨t, p⟩ len false tag) s = .next (errOutputs (tell p.val
      (.cpl 0 tag.toNat (List.replicate (len.val + 1) 0) false t.attr) s)) ∧
    exec (.placementRead ⟨t, p⟩ len true tag) s = .next (errOutputs (tell p.val (.unsupported 0 tag.toNat t.attr) s)))

/-- CLASS_WRITE with a value that a class may hold is taken at the next edge and clears the refusal, and another
value is refused (R194, R197). PIECE_ADMISSION admits the request that arbitration chooses at the resource: its
cost is spent of its class or borrowed, the turn moves behind the class and the request goes on (R195, R196);
where none can be admitted, and during a sluice stop, nothing happens. DEADLINE_MISS of a started command, or of
a request, whose time has run out is counted against its class, once for each (R199, log 28). -/
def Obligations.ClassesAndAdmission : Prop :=
  (∀ (p : HP) (n : Cls) (v : W64) (s : State), mgrOpen p.val (rDPA_CLASS + 8 * n.val) s = true → mayClassC s = true →
    ∃ x, exec (.classWrite p n (.full v)) s = .next (errOutputs x) ∧ x.que = s.que ∧
      (classBad n.val v s = false → mget x.ep.classNext n.val = some (v &&& 0x7FFFFFFFFFF) ∧ x.ep.classRefused = false) ∧
      (classBad n.val v s = true → x.ep.classNext = s.ep.classNext ∧ x.ep.classRefused = true)) ∧
  (∀ (res : Fin 108) (late : Bool) (s : State), (frozen s = true ∨ arbiter res.val late s = none) →
    exec (.pieceAdmission res late) s = .next (errOutputs (settle s))) ∧
  (∀ (res : Fin 108) (late : Bool) (id : Nat) (r : Req) (s : State), frozen s = false → arbiter res.val late s = some id →
    mget s.que.reqs id = some r → eligible res.val r.ident.cls r.cost s = true →
    exec (.pieceAdmission res late) s = .next (errOutputs (settle (kick id
      { spend res.val r.ident.cls r.cost s with
        ep := { s.ep with spent := mupd s.ep.spent (resKey res.val r.ident.cls) 0 (· + r.cost)
                          turn := mset s.ep.turn res.val ((r.ident.cls + 1) % 16) }
        que := { s.que with reqs := mmod s.que.reqs id (fun r => { r with st := .translate, paid := insNat res.val r.paid }) } })))) ∧
  (∀ (res : Fin 108) (late : Bool) (id : Nat) (r : Req) (s : State), frozen s = false → arbiter res.val late s = some id →
    mget s.que.reqs id = some r →
    ∃ x, exec (.pieceAdmission res late) s = .next (errOutputs (settle (kick id x))) ∧
      mget x.que.reqs id = some { r with st := .translate, paid := insNat res.val r.paid } ∧
      mgetD x.ep.turn res.val 0 = (r.ident.cls + 1) % 16 ∧ x.rsvr = s.rsvr ∧ x.reg = s.reg) ∧
  (∀ (id : Nat) (c : Cmd) (s : State), mget s.que.cmds id = some c →
    (c.hdr.deadline ≠ 0 → c.dlLeft = 0 → c.dlMiss = false → c.st ≠ .queued →
      exec (.deadlineMiss true id) s = .next (errOutputs (missed (cmdIdent c s) (cmdFn c s) (cmdEnv c s)
        { s with que := { s.que with cmds := mmod s.que.cmds id (fun c => { c with dlMiss := true }) } }))) ∧
    (c.dlMiss = true → exec (.deadlineMiss true id) s = .next (errOutputs s))) ∧
  (∀ (id : Nat) (r : Req) (s : State), mget s.que.reqs id = some r →
    (r.ident.deadline ≠ 0 → r.dlLeft = 0 → r.dlMissed = false →
      exec (.deadlineMiss false id) s = .next (errOutputs (missed r.ident r.fn r.env
        { s with que := { s.que with reqs := mmod s.que.reqs id (fun r => { r with dlMissed := true }) } }))) ∧
    (r.dlMissed = true → exec (.deadlineMiss false id) s = .next (errOutputs s))) ∧
  (∀ (i : Ident) (fn : Nat) (env : Option Nat) (s : State),
    mgetD (missed i fn env s).ep.dlmiss i.cls 0 = satAdd 32 (mgetD s.ep.dlmiss i.cls 0) 1 ∧
    (missed i fn env s).que.cmds = s.que.cmds ∧ (missed i fn env s).que.reqs = s.que.reqs)

/-- ATS_COMPLETION of a request in flight whose generations are current installs the page it grants in the IOTLB for
every context that waits or was to be warmed, unless an invalidation has made it stale, and wakes the requests;
a page without rights awaits PRI, a refusal faults them and sets ATS_ERROR; one of an older generation is
counted as late (R115, R163). ATS_INVALIDATE_REQUEST without a PASID is entered and needs nothing more, one with
a PASID notes the reads that its completion awaits; INVALIDATE_COMPLETION sends the message once its flushes
have been sent and covered, and frees the filter entry (R169). PRG_SEND sends the groups that wait, as far as
the limits allow (R164). PRG_RESPONSE Success of the whole group wakes its request, of a part sends the next
part, Invalid faults it with cause 2, Failure also stops page requests of the function (R164); PRI_TIMEOUT
faults it with cause 12 after TRN_PRI_TIMEOUT ticks (R165). WALK_COMPLETE of a walk that has its place and its
lines installs the leaf it finds or fails the waiting requests, PEER_MAP_FILL installs the page of an ACTIVE
peer (R152, R154, R155). FILTER_SWEEP_DONE drops the entries that the filter covers and counts the sweep in each
slice (R168). -/
def Obligations.TranslationTraffic : Prop :=
  ∀ s : State,
  (∀ (p : HP) (tag : BitVec 14) (a : Ats) (x : State), (s.tr.ats.find? fun a => a.tag == tag.toNat && a.port == p.val) = some a →
    x = { s with tr := { s.tr with ats := s.tr.ats.filter fun x => !(x.tag == tag.toNat && x.port == p.val) } } →
    (∀ r : AtsRes, atsFresh a s = false → exec (.atsCompletion p tag r) s = .next (errOutputs (settle
      (wakeAll (a.waiters.map (·.2)) none { x with ep := { s.ep with lateCpl := satAdd 32 s.ep.lateCpl 1 } })))) ∧
    (∀ r : AtsRes, atsFresh a s = true → a.stale = true → exec (.atsCompletion p tag r) s = .next (errOutputs (settle
      (wakeAll (a.waiters.map (·.2)) none x)))) ∧
    (atsFresh a s = true → a.stale = false → a.waiters ≠ [] →
      exec (.atsCompletion p tag .refused) s = .next (errOutputs (settle (setEvent rTRN_EVENT 1
        (fillFails (a.waiters.map (·.2)) (2 ^ 56 + a.page * 4096) 4096 .fault 5 x))))) ∧
    (∀ addr n : Nat, atsFresh a s = true → a.stale = false →
      exec (.atsCompletion p tag (.grant addr n false false)) s = .next (errOutputs (settle (wakeAll (a.waiters.map (·.2)) none
        { x with tr := { x.tr with noTrans := a.waiters.map (fun w => (w.2, a.page)) ++ x.tr.noTrans } })))) ∧
    (∀ (addr n : Nat) (rd wr : Bool), atsFresh a s = true → a.stale = false → rd = true ∨ wr = true →
      exec (.atsCompletion p tag (.grant addr n rd wr)) s = .next (errOutputs (settle (wakeAll (a.waiters.map (·.2)) none
        (each ((a.waiters.map (·.1) ++ a.pre).eraseDups) (fun c => tlbInstall (2 ^ 56 + a.page * 4096)
          { src := 1, size := grantSize n, r := rd, w := wr, a := rd && wr && hasCache a.fn s, ctx := c, pasid := a.pasid
            va := (2 ^ 56 + a.page * 4096) / 2 ^ sizeLog (grantSize n) * 2 ^ sizeLog (grantSize n)
            pa := addr / 2 ^ sizeLog (grantSize n) * 2 ^ sizeLog (grantSize n), born := a.born }) x)))))) ∧
  (∀ (p : HP) (tag : BitVec 14) (r : AtsRes), (s.tr.ats.find? fun a => a.tag == tag.toNat && a.port == p.val) = none →
    exec (.atsCompletion p tag r) s = .next (errOutputs (settle s))) ∧
  (∀ (t : Tlp) (p : HP) (fn : Fn) (pg n : BitVec 52) (itag : Fin 32), outsideIde t p.val s = false →
    instAt fn.val p.val s = true → linkUp p.val s = true →
    (s.tr.invals.any fun v => v.port == p.val && v.itag == itag.val) = false →
    exec (.atsInvalidateRequest ⟨t, p⟩ fn none pg n itag) s = .next (errOutputs (settle { s with tr := { s.tr with
      invals := s.tr.invals ++ [⟨p.val, fn.val, itag.val, 2 ^ 20, s.tr.nextFilt, [], true, []⟩], nextFilt := s.tr.nextFilt + 1 } })) ∧
    (∀ a : BitVec 20, s.tr.filter.length < 256 →
      ∃ x, exec (.atsInvalidateRequest ⟨t, p⟩ fn (some a) pg n itag) s = .next (errOutputs (settle x)) ∧
        x.tr.invals = s.tr.invals ++ [⟨p.val, fn.val, itag.val, a.toNat, s.tr.nextFilt,
          invalReads a.toNat (pg.toNat * 4096) (n.toNat * 4096) s, false, []⟩] ∧
        (∃ f ∈ x.tr.filter, f.id = s.tr.nextFilt ∧ f.m = .host a.toNat (pg.toNat * 4096) (n.toNat * 4096) ∧ f.active = true ∧
          f.hold = true) ∧ x.que = s.que ∧ x.out = s.out)) ∧
  (∀ (t : Tlp) (p : HP) (fn : Fn) (o : Option (BitVec 20)) (pg n : BitVec 52) (itag : Fin 32), outsideIde t p.val s = true →
    exec (.atsInvalidateRequest ⟨t, p⟩ fn o pg n itag) s = .next (errOutputs (settle (countOutside p.val s)))) ∧
  (∀ (p : HP) (itag : Fin 32) (v : Inval), (s.tr.invals.find? fun v => v.port == p.val && v.itag == itag.val) = some v →
    (v.flushed = false ∨ needMet v.fl s = false → exec (.invalidateCompletion p itag) s = .next (errOutputs (settle s))) ∧
    (v.flushed = true → needMet v.fl s = true → exec (.invalidateCompletion p itag) s = .next (errOutputs (settle
      (sendU p.val ⟨1, v.fn, none, .invalCpl v.fn itag.val, 1, none⟩ (filtRelease { s with tr := { s.tr with
        invals := s.tr.invals.filter fun x => !(x.port == p.val && x.itag == itag.val)
        filter := s.tr.filter.map fun f => if f.id = v.filt then { f with hold := false } else f } })))))) ∧
  (exec .prgSend s = .next (errOutputs (settle (prgSendAll s)))) ∧
  (∀ g : Prg, s.tr.prgs = [g] → g.out = 0 → prgSendAll s = prgSendOne g.index s) ∧
  (∀ (i n p : Nat) (g : Prg), (s.tr.prgs.find? fun g => g.index == i) = some g → g.out = 0 →
    n = min (priAlloc g.fn s) g.pages.length → 0 < n → priOut s + n ≤ 1024 → priOutFn g.fn s + n ≤ priAlloc g.fn s →
    priInst g.fn s = some p → (usablePorts g.fn s).contains p = true →
    (prgSendOne i s).tr.prgs = s.tr.prgs.map fun x => if x.index == i then { x with out := n, port := p, ticks := 0 } else x) ∧
  (∀ (t : Tlp) (p : HP) (fn : Fn) (i : BitVec 9) (g : Prg), outsideIde t p.val s = false →
    linkUp p.val s = true → instAt fn.val p.val s = true →
    (s.tr.prgs.find? fun g => g.fn == fn.val && g.index % 512 == i.toNat && g.out ≠ 0) = some g →
    exec (.prgResponse ⟨t, p⟩ fn i .invalid) s = .next (errOutputs (settle (prgSendAll (prgFails g 2
      { s with tr := { s.tr with prgs := s.tr.prgs.filter fun x => x.index != g.index } })))) ∧
    (g.pages.length ≤ g.out → ∃ x, exec (.prgResponse ⟨t, p⟩ fn i .success) s = .next (errOutputs (settle (prgSendAll
        (wakeAll [g.req] none x)))) ∧ x.tr.prgs = s.tr.prgs.filter (fun y => y.index != g.index) ∧ x.que = s.que ∧
        x.out = s.out ∧ (∀ e ∈ x.tr.l2, e ∈ s.tr.l2)) ∧
    (g.out < g.pages.length → ∃ x, exec (.prgResponse ⟨t, p⟩ fn i .success) s = .next (errOutputs (settle (prgSendAll
        (prgSendOne g.index x)))) ∧ x.tr.prgs = s.tr.prgs.map (fun y =>
          if y.index == g.index then { y with pages := y.pages.drop y.out, out := 0 } else y) ∧ x.que = s.que) ∧
    (∃ x, exec (.prgResponse ⟨t, p⟩ fn i .failure) s = .next (errOutputs (settle (prgSendAll (setEvent rTRN_EVENT 2
      (prgFails g 2 x))))) ∧ (func fn.val x).priStopped = true ∧
      x.tr.prgs = s.tr.prgs.filter (fun y => y.index != g.index))) ∧
  (∀ (g : Prg) (c : Nat), prgFails g c s =
    fillFails [g.req] (2 ^ 56 + (g.pages.headD (0, false, false)).1 * 4096) 4096 .fault c s) ∧
  (∀ (fn : Fn) (i : BitVec 9) (g : Prg),
    (s.tr.prgs.find? fun g => g.fn == fn.val && g.index % 512 == i.toNat && g.out ≠ 0) = some g →
    exec (.priTimeout fn i) s = .next (errOutputs (settle (if g.ticks < (regRaw rTRN_PRI_TIMEOUT s).toNat then s
      else prgSendAll (setEvent rTRN_EVENT 3 (prgFails g 12
        { s with tr := { s.tr with prgs := s.tr.prgs.filter fun x => x.index != g.index } })))))) ∧
  (∀ (c : Fin 4096) (pg : BitVec 45) (w : Walk) (x y : State),
    (s.tr.walks.find? fun w => w.ctx == c.val && w.page == pg.toNat) = some w →
    (walkRuns w s = false → exec (.walkComplete c pg) s = .next (errOutputs (settle s))) ∧
    (walkRuns w s = true → x = walkAsk c.val pg.toNat w s →
      ((walkLines c.val pg.toNat x).any (fun l => fillOpen l x)) = true →
      exec (.walkComplete c pg) s = .next (errOutputs (settle x))) ∧
    (walkRuns w s = true → w.stale = true → x = walkAsk c.val pg.toNat w s →
      ((walkLines c.val pg.toNat x).any (fun l => fillOpen l x)) = false →
      exec (.walkComplete c pg) s = .next (errOutputs (settle (wakeAll w.waiters none { x with tr := { x.tr with
        walks := x.tr.walks.filter fun x => !(x.ctx == c.val && x.page == pg.toNat) } })))) ∧
    (walkRuns w s = true → w.stale = false → x = walkAsk c.val pg.toNat w s →
      ((walkLines c.val pg.toNat x).any (fun l => fillOpen l x)) = false →
      y = walkKeep c.val (pg.toNat * 4096) { x with tr := { x.tr with walks := x.tr.walks.filter fun x =>
        !(x.ctx == c.val && x.page == pg.toNat) } } →
      (∀ (pa sz : Nat) (r wr a : Bool), walkCtx c.val (pg.toNat * 4096) y = .leaf pa sz r wr a →
        exec (.walkComplete c pg) s = .next (errOutputs (settle (wakeAll w.waiters none (tlbInstall (pg.toNat * 4096)
          { src := 0, size := sz, r := r, w := wr, a := a, ctx := c.val, pasid := 0
            va := pg.toNat * 4096 / 2 ^ sizeLog sz * 2 ^ sizeLog sz, pa := pa, born := w.born } y))))) ∧
      (∀ (st : Status) (cause : Nat), walkCtx c.val (pg.toNat * 4096) y = .fail st cause false →
        exec (.walkComplete c pg) s = .next (errOutputs (settle (fillFails w.waiters (pg.toNat * 4096) 4096 st cause y)))) ∧
      (∀ (st : Status) (cause : Nat), walkCtx c.val (pg.toNat * 4096) y = .fail st cause true →
        exec (.walkComplete c pg) s = .next (errOutputs (settle (fillFails w.waiters (pg.toNat * 4096) 4096 st cause
          (raise (48 + tlbSlice c.val (pg.toNat * 4096) y) .advisory (some c.val) none 0 y))))))) ∧
  (∀ (c : Fin 4096) (pg : BitVec 27) (w : Walk) (x : Ctx) (e : Nat) (v : Env) (m : PeerMap),
    (s.tr.peers.find? fun w => w.ctx == c.val && w.page == pg.toNat) = some w → w.stale = false →
    mget s.que.ctxs c.val = some x → x.env = some e → mget s.env.envs e = some v →
    mget v.peers (vaChip (pg.toNat * 2 ^ 30)) = some m → pg.toNat * 2 ^ 30 % 2 ^ 43 / 2 ^ 30 < m.llen →
    (mgetD s.spl.peers (vaChip (pg.toNat * 2 ^ 30)) {}).st = .active →
    exec (.peerMapFill c pg) s = .next (errOutputs (settle (wakeAll w.waiters none (tlbInstall (pg.toNat * 2 ^ 30)
      { src := 2, size := 3, r := m.rights % 2 == 1, w := m.rights / 2 % 2 == 1, a := m.rights / 4 % 2 == 1, ctx := c.val, pasid := 0, va := pg.toNat * 2 ^ 30
        pa := vaChip (pg.toNat * 2 ^ 30) * 2 ^ 44 + (m.lbase * gib + pg.toNat * 2 ^ 30 % 2 ^ 43) % 2 ^ 44, born := w.born }
      { s with tr := { s.tr with peers := s.tr.peers.filter fun x => !(x.ctx == c.val && x.page == pg.toNat) } }))))) ∧
  (∀ n : Nat, (s.tr.filter.find? fun f => f.id == n && f.active && !f.swept) = none →
    exec (.filterSweepDone n) s = .next (errOutputs s)) ∧
  (∀ (n : Nat) (f : FiltEnt), (s.tr.filter.find? fun f => f.id == n && f.active && !f.swept) = some f →
    ∃ x, exec (.filterSweepDone n) s = .next (errOutputs x) ∧
      x.tr.l2 = s.tr.l2.filter (fun e => !(filtOlder f e.born && fcovers f.m e)) ∧ x.que = s.que ∧ x.out = s.out ∧ x.reg = s.reg ∧
      x.tr.filter = (s.tr.filter.map fun y => if y.id == n then { y with swept := true } else y).filter
        (fun y => !(y.swept && !y.hold)))

/-- DESTRUCTION_END of a context whose tokens are all back releases what it held and completes the command that
destroyed it (R139, R140); while a token is out nothing happens. QUARANTINE_END of a zombie that has been
through two edges, with no command left that names it and no request in flight to it, gives its block and its
slot back, under the next generation (R141, R145). PATROL_SCRUB starts the next round once its period has passed
(R388). AUDIT_STALL_RELEASE lets the oldest held action of class C take effect once the log has room (R414). -/
def Obligations.EndsAndReleases : Prop :=
  ∀ s : State,
  (∀ (c : Fin 4096) (x : Ctx), mget s.que.ctxs c.val = some x →
    (x.st ≠ .destroying ∨ tokensOf c.val s ≠ [] → exec (.destructionEnd c) s = .next (errOutputs (settle s))) ∧
    (∀ (n m id : Nat) (t : State), x.st = .destroying → tokensOf c.val s = [] → endDestroy c.val s = ((n, m, some id), t) →
      exec (.destructionEnd c) s = .next (errOutputs (settle (endCmd id .ok n m
        (modCmd id (fun k => { k with effTick := some x.destroyAt }) t))))) ∧
    (∀ (n m : Nat) (t : State), x.st = .destroying → tokensOf c.val s = [] → endDestroy c.val s = ((n, m, none), t) →
      exec (.destructionEnd c) s = .next (errOutputs (settle t)))) ∧
  (∀ (n : BitVec 24) (o : Obj), mget s.que.objs n.toNat = some o →
    (o.st ≠ .quarantine ∨ o.edges < 2 ∨ objBusy o s = true → exec (.quarantineEnd n) s = .next (errOutputs (settle s))) ∧
    (o.st = .quarantine → 2 ≤ o.edges → objBusy o s = false → exec (.quarantineEnd n) s = .next (errOutputs (settle
      (withRetire (fun t => modQue (fun q => { q with
          objs := mdel q.objs n.toNat, objSlots := freeSlot n.toNat (bumpSlot n.toNat q.objSlots) }) t)
        (modEnv o.env (fun v => { v with blocks := joinBlock 40 (o.log2, o.off) v.blocks }) (unmapAll o 0 s))))))) ∧
  (∀ (n : Nat) (k : Slots),
    (slotGen k n ≠ 0xFFFFFFFF → n ∉ k.retired → slotGen (freeSlot n (bumpSlot n k)) n = slotGen k n + 1 ∧
      (freeSlot n (bumpSlot n k)).freed = k.freed ++ [n]) ∧
    (slotGen k n = 0xFFFFFFFF → slotGen (freeSlot n (bumpSlot n k)) n = 0xFFFFFFFF ∧
      (freeSlot n (bumpSlot n k)).freed = k.freed ∧ n ∈ (freeSlot n (bumpSlot n k)).retired)) ∧
  (∀ n : Nat, s.weir.scrubTicks = n →
    (regRaw rWEIR_SCRUB_TICKS s ≤ BitVec.ofNat 64 n →
      exec .patrolScrub s = .next (errOutputs { s with weir := { s.weir with scrubTicks := 0, patrol := some 0 } })) ∧
    (¬ regRaw rWEIR_SCRUB_TICKS s ≤ BitVec.ofNat 64 n → exec .patrolScrub s = .next (errOutputs s))) ∧
  (s.stalled = [] → exec .auditStallRelease s = .next (errOutputs (settle s))) ∧
  (∀ (c : Instr) (r : List Instr), s.stalled = c :: r → (s.obs.auditOn = false ∨ freeC s = true) →
    exec .auditStallRelease s = .next (errOutputs (settle (stalledEffect c { s with stalled := r })))) ∧
  (∀ (c : Instr) (r : List Instr), s.stalled = c :: r → s.obs.auditOn = true → freeC s = false →
    exec .auditStallRelease s = .next (errOutputs (settle s)))

/-- CXL_MEM_REQUEST, with its decoder as the host has programmed it, that the decoder's map places at local address
l: a read without caching, or a write, enters a request for that line on behalf of the port; MemRd with
MetaValue A is RdOwn and with S is RdShared of the port's agent 544 + port at the home of the line (R97, R271).
Outside its map a read is answered with zeros marked poison, a write is answered and discarded, and both are
counted (R271). BIConflict is acknowledged, and the snoop stays open (R272). H2D_SNOOP of a line enters the
snoop at the proxy, which answers at once where its transaction awaits the host's GO and no holder must answer;
HOST_GO records the state and the data that the host gives and lets the waiting request go on, or refuses it
where the state does not suffice (R273). BISNP_RESPONSE completes the snoop of a line, with the host keeping it
shared or giving it up, and one that nothing asked for is a protocol violation; BI_TIMEOUT makes the host agent
dead (R272, R275). -/
def Obligations.HostMemoryAndCache : Prop :=
  (∀ (p : HP) (dec : Fin 4) (hd : HdmDec) (addr : BitVec 52) (tag : BitVec 16) (s s1 : State), frozen s = false →
    cxlMemOn p.val s = true → agentSt (544 + p.val) s ≠ .dead →
    s1 = { s with
      ep := { s.ep with hdm := mset s.ep.hdm (4 * p.val + dec.val) hd },
      coh := (if agentSt (544 + p.val) s = .absent then { s.coh with
        agents := mset s.coh.agents (544 + p.val) { agentRec (544 + p.val) s with st := .active, en := true } } else s.coh) } →
    (∀ l : Nat, ((hdmOffset hd addr.toNat).bind fun x => hdmLocal p.val dec.val x s) = some l →
      exec (.cxlMemRequest p dec ⟨hd, addr⟩ tag .rdI) s = .next (errOutputs (settle (newReq
        { who := .cxl p.val tag.toNat, fn := 0, env := none, ident := {},
          op := .paRead (s.spl.chip * 2 ^ 44 + l / 64 * 64) 64 } s1))) ∧
      (∀ (d : List Byte) (bad : Bool), exec (.cxlMemRequest p dec ⟨hd, addr⟩ tag (.wrI d bad)) s = .next (errOutputs (settle (newReq
        { who := .cxl p.val tag.toNat, fn := 0, env := none, ident := {}, poisoned := bad,
          op := .paWrite (s.spl.chip * 2 ^ 44 + l / 64 * 64) (dataField 64 d) } s1)))) ∧
      exec (.cxlMemRequest p dec ⟨hd, addr⟩ tag .rdA) s = .next (errOutputs (settle
        (coherentArrive (l / 64) { kind := .rdOwn, agent := 544 + p.val, txn := tag.toNat } s1))) ∧
      exec (.cxlMemRequest p dec ⟨hd, addr⟩ tag .rdS) s = .next (errOutputs (settle
        (coherentArrive (l / 64) { kind := .rdShared, agent := 544 + p.val, txn := tag.toNat } s1))) ∧
      (∀ (d : List Byte) (bad : Bool), (∀ t, (dirEnt (l / 64) s).txn = some t → 544 + p.val ∉ t.snooped) →
        exec (.cxlMemRequest p dec ⟨hd, addr⟩ tag (.evict d bad)) s = .next (errOutputs (settle (arrive (l / 64)
          { kind := .wrBack, agent := 544 + p.val, txn := tag.toNat, data := dataField 64 d, poison := bad } s1)))) ∧
      (∀ (d : List Byte) (bad : Bool) (t : CohTxn), (dirEnt (l / 64) s).txn = some t → 544 + p.val ∈ t.snooped →
        exec (.cxlMemRequest p dec ⟨hd, addr⟩ tag (.evict d bad)) s = .next (errOutputs (settle
          (tell p.val (.cxlRsp tag.toNat 0x22 []) (mergeData (l / 64) (dataField 64 d) bad s1)))))) ∧
    (((hdmOffset hd addr.toNat).bind fun x => hdmLocal p.val dec.val x s) = none → ∀ op : CxlOp, op ≠ .conflict →
      exec (.cxlMemRequest p dec ⟨hd, addr⟩ tag op) s = .next (errOutputs (settle (tell p.val (match op with
          | .wrI _ _ => .cxlRsp tag.toNat 0x22 []
          | .evict _ _ => .cxlRsp tag.toNat 0x22 []
          | _ => .cxlRsp tag.toNat 0xFF (List.replicate 64 0))
        { s1 with coh := { s1.coh with hostOutside := satAdd 32 s.coh.hostOutside 1 } }))))) ∧
  (∀ (p : HP) (addr : BitVec 56) (kind : Fin 3) (s : State), cxlCacheOn p.val s = false →
    exec (.h2dSnoop p addr kind) s = .next (errOutputs (settle s))) ∧
  (∀ (p : HP) (addr : BitVec 56) (kind : Fin 3) (s : State), cxlCacheOn p.val s = true →
    ((∀ t, (dirEnt (hostKey addr.toNat) s).txn = some t → t.st ≠ .go) →
      exec (.h2dSnoop p addr kind) s = .next (errOutputs (settle
        (arrive (hostKey addr.toNat) { kind := .h2d kind.val, agent := 544 + p.val } s)))) ∧
    (∀ t : CohTxn, (dirEnt (hostKey addr.toNat) s).txn = some t → t.st = .go →
      (dirEnt (hostKey addr.toNat) s).owner ≠ none ∨ (kind = 1 ∧ holders (dirEnt (hostKey addr.toNat) s) s ≠ []) →
      exec (.h2dSnoop p addr kind) s = .next (errOutputs (settle
        (arrive (hostKey addr.toNat) { kind := .h2d kind.val, agent := 544 + p.val } s)))) ∧
    (∀ t : CohTxn, (dirEnt (hostKey addr.toNat) s).txn = some t → t.st = .go → (dirEnt (hostKey addr.toNat) s).owner = none →
      kind ≠ 1 ∨ holders (dirEnt (hostKey addr.toNat) s) s = [] →
      ∃ x, exec (.h2dSnoop p addr kind) s = .next (errOutputs (settle x)) ∧
        (dirEnt (hostKey addr.toNat) x).txn = some t ∧ x.que = s.que ∧
        x.out = told p.val (.h2dRsp (keyAddr (hostKey addr.toNat))
          (if kind = 1 then 0 else if kind = 0 then min 1 (dirEnt (hostKey addr.toNat) s).hstate else (dirEnt (hostKey addr.toNat) s).hstate)
          (if (dirEnt (hostKey addr.toNat) s).hstate = 3 then mgetD s.coh.hostData (hostKey addr.toNat) [] else [])
          ((dirEnt (hostKey addr.toNat) s).hstate = 3 && s.coh.poisoned.contains (hostKey addr.toNat))) s)) ∧
  (∀ (p : HP) (addr : BitVec 56) (st : Fin 4) (d : List Byte) (t : CohTxn) (s : State), cxlCacheOn p.val s = true →
    (dirEnt (hostKey addr.toNat) s).txn = some t → t.st = .go →
    let y : State :=
      { s with coh := { s.coh with hostData := (if st = 0 then mdel s.coh.hostData (hostKey addr.toNat)
        else mset s.coh.hostData (hostKey addr.toNat) (if d = [] then mgetD s.coh.hostData (hostKey addr.toNat) (List.replicate 64 0)
          else dataField 64 d)) } }
    let x := setDir (hostKey addr.toNat) { dirEnt (hostKey addr.toNat) s with txn := none, hstate := st.val }
      (if st = 0 ∨ d ≠ [] then markHost (hostKey addr.toNat) false y else y)
    exec (.hostGo p addr st d) s = .next (errOutputs (settle (nextOf (hostKey addr.toNat) 64
      (if (d2hNeed { dirEnt (hostKey addr.toNat) s with txn := none, hstate := st.val } t.r.kind).isSome
       then goRefused (hostKey addr.toNat) t.r x else takeReq (hostKey addr.toNat) t.r x))))) ∧
  (∀ (p : HP) (addr : BitVec 56) (st : Fin 4) (d : List Byte) (s : State), (dirEnt (hostKey addr.toNat) s).txn = none →
    exec (.hostGo p addr st d) s = .next (errOutputs (settle s))) ∧
  (∀ (p : HP) (k : BitVec 38) (sh : Bool) (t : CohTxn) (s : State), agentSt (544 + p.val) s ≠ .dead →
    (dirEnt k.toNat s).txn = some t →
    let a := 544 + p.val
    let e := dirEnt k.toNat s
    let left := { t with snooped := t.snooped.filter (· != a) }
    let owner := if e.owner = some a then none else e.owner
    (a ∈ t.snooped → t.st = .xSd ∨ t.st = .xSi ∨ t.st = .sSi →
      exec (.bisnpResponse p k false) s = .next (errOutputs (settle (complete k.toNat (setDir k.toNat
        { dropSharer a e with owner := owner, txn := some left } s))))) ∧
    (a ∈ t.snooped → t.st = .xSd →
      exec (.bisnpResponse p k true) s = .next (errOutputs (settle (complete k.toNat (setDir k.toNat
        { addSharer a { e with owner := owner } with txn := some left } s))))) ∧
    (a ∉ t.snooped ∨ (t.st ≠ .xSd ∧ (sh = true ∨ (t.st ≠ .xSi ∧ t.st ≠ .sSi))) →
      exec (.bisnpResponse p k sh) s = .next (errOutputs (settle (violation a s))))) ∧
  (∀ (p : HP) (k : BitVec 38) (sh : Bool) (s : State), agentSt (544 + p.val) s = .dead →
    exec (.bisnpResponse p k sh) s = .next (errOutputs (settle s))) ∧
  (∀ (p : HP) (k : BitVec 38) (sh : Bool) (s : State), agentSt (544 + p.val) s ≠ .dead → (dirEnt k.toNat s).txn = none →
    exec (.bisnpResponse p k sh) s = .next (errOutputs (settle (violation (544 + p.val) s)))) ∧
  (∀ (p : HP) (k : BitVec 38) (t : CohTxn) (s : State), (dirEnt k.toNat s).txn = some t →
    (544 + p.val ∈ t.snooped → exec (.biTimeout p k) s = .next (errOutputs (settle (killAgent (544 + p.val) 4
      (raise (agentSrc (544 + p.val)) .partnerTimeout none none (544 + p.val) s))))) ∧
    (544 + p.val ∉ t.snooped → exec (.biTimeout p k) s = .next (errOutputs (settle s)))) ∧
  (∀ (p : HP) (k : BitVec 38) (s : State), (dirEnt k.toNat s).txn = none →
    exec (.biTimeout p k) s = .next (errOutputs (settle s))) ∧
  (∀ (p : HP) (dec : Fin 4) (a : HdmAddr) (tag : BitVec 16) (s : State), cxlMemOn p.val s = true → agentSt (544 + p.val) s ≠ .dead →
    exec (.cxlMemRequest p dec a tag .conflict) s = .next (errOutputs (settle (tell p.val (.biConflictAck tag.toNat) s))))

/-- A write of SYN_FN_HANDLE whose handle names a fence of the function starts the action that SYN_FN_ACTION.OP
selects (R244, R245). FENCE_READ gives VALUE and STATE, and INVALID for the operations 6 and 7. FENCE_RESET is
BUSY on a LIVE fence, and on one in ERROR or EXHAUSTED takes SYN_FN_ARG, makes it LIVE, clears STALE and
ERR_CAUSE, removes the arm and writes the mirror; a value the fence cannot hold gives INVALID and changes
nothing (R238). SET_MIRROR refuses a misaligned address, and otherwise writes the mirror, BUSY until that is
accepted; CLEAR_MIRROR removes it (R246). ARM sets the vector and the target, fires at once where the target is
met or the fence is not LIVE, and refuses a vector outside the count; DISARM removes the arm (R247). While an
action runs another start sets only OVERRUN (R244). FENCE_TIMEOUT ends a wait whose time has run out, with the
VALUE at that edge (R236). MIRROR_WRITE_ACCEPTED frees the mirror for its next write and fires an arm that waits
for it (R246, R247). -/
def Obligations.FenceActions : Prop :=
  ∀ (p : HP) (fn : Fn) (v : W64) (n : Nat) (f : Fence) (s : State),
  (ActsOn p.val fn.val 0 n v f s →
    exec (.fenceRead p fn (.full v)) s = .next (errOutputs (settle
      (actResult fn.val .ok f.value (fenceCode f.st) (actTaken fn.val v s))))) ∧
  (∀ op : Nat, 6 ≤ op → ActsOn p.val fn.val op n v f s → exec (.fenceRead p fn (.full v)) s = .next (errOutputs (settle
    (actResult fn.val .invalid f.value (fenceCode f.st) (actTaken fn.val v s))))) ∧
  (ActsOn p.val fn.val 1 n v f s →
    (f.st = .live → exec (.fenceReset p fn (.full v)) s = .next (errOutputs (settle
      (actResult fn.val .busy f.value 1 (actTaken fn.val v s))))) ∧
    (f.st = .error ∨ f.st = .exhausted → f.compat = false → regRaw (fnKey fn.val fSYN_ARG) s = 0xFFFFFFFFFFFFFFFF →
      exec (.fenceReset p fn (.full v)) s = .next (errOutputs (settle
        (actResult fn.val .invalid f.value (fenceCode f.st) (actTaken fn.val v s))))) ∧
    (f.st = .error ∨ f.st = .exhausted → f.compat = false → regRaw (fnKey fn.val fSYN_ARG) s ≠ 0xFFFFFFFFFFFFFFFF →
      exec (.fenceReset p fn (.full v)) s = .next (errOutputs (settle (actDone fn.val n .ok (mirrorWrite n
        (modFence n (fun f => { f with value := (regRaw (fnKey fn.val fSYN_ARG) s), st := .live, signed := false, stale := 0, cause := 0,
                                       armed := false, armDue := false, armNext := false }) (actTaken fn.val v s))))))) ∧
    (f.st = .error ∨ f.st = .exhausted → f.compat = true → (regRaw (fnKey fn.val fSYN_ARG) s).toNat < 2 ^ 32 →
      exec (.fenceReset p fn (.full v)) s = .next (errOutputs (settle (actDone fn.val n .ok (mirrorWrite n
        (modFence n (fun f => { f with value := (regRaw (fnKey fn.val fSYN_ARG) s), st := .live, signed := false, stale := 0, cause := 0,
                                       armed := false, armDue := false, armNext := false }) (actTaken fn.val v s)))))))) ∧
  (ActsOn p.val fn.val 2 n v f s →
    (fld (regRaw (fnKey fn.val fSYN_ARG) s) 0 57 % 8 ≠ 0 → exec (.setMirror p fn (.full v)) s = .next (errOutputs (settle
      (actResult fn.val .invalid f.value (fenceCode f.st) (actTaken fn.val v s))))) ∧
    (fld (regRaw (fnKey fn.val fSYN_ARG) s) 0 57 % 8 = 0 → exec (.setMirror p fn (.full v)) s = .next (errOutputs (settle
      (mirrorWrite n (modFence n (fun f => { f with mirror := some (fld (regRaw (fnKey fn.val fSYN_ARG) s) 0 57) })
        (modQue (fun q => { q with actBusy := mset q.actBusy fn.val (n, fld (regRaw (fnKey fn.val fSYN_ARG) s) 0 57) })
          (actTaken fn.val v s)))))))) ∧
  (ActsOn p.val fn.val 3 n v f s → exec (.clearMirror p fn (.full v)) s = .next (errOutputs (settle (actDone fn.val n .ok
    (modFence n (fun f => { f with mirror := none, mirrorAgain := false }) (actTaken fn.val v s)))))) ∧
  (ActsOn p.val fn.val 4 n v f s →
    (∀ vec : Nat, regFld (fnKey fn.val fSYN_ACTION) 16 11 s = vec → (func fn.val s).vectors ≤ vec →
      exec (.arm p fn (.full v)) s = .next (errOutputs (settle
        (actResult fn.val .invalid f.value (fenceCode f.st) (actTaken fn.val v s))))) ∧
    (∀ vec : Nat, regFld (fnKey fn.val fSYN_ACTION) 16 11 s = vec → vec < (func fn.val s).vectors →
      (f.compat = true → (regRaw (fnKey fn.val fSYN_ARG) s).toNat < 2 ^ 32) → f.st = .live →
      exec (.arm p fn (.full v)) s = .next (errOutputs (settle (actDone fn.val n .ok
        ((if targetMet f (regRaw (fnKey fn.val fSYN_ARG) s) then fireArm n else id)
          (modFence n (fun f => { f with armVector := vec, armTarget := (regRaw (fnKey fn.val fSYN_ARG) s), armed := true,
                                         armDue := false, armNext := false }) (actTaken fn.val v s))))))) ∧
    (∀ vec : Nat, regFld (fnKey fn.val fSYN_ACTION) 16 11 s = vec → vec < (func fn.val s).vectors →
      (f.compat = true → (regRaw (fnKey fn.val fSYN_ARG) s).toNat < 2 ^ 32) →
      f.st = .error ∨ f.st = .exhausted →
      exec (.arm p fn (.full v)) s = .next (errOutputs (settle (actDone fn.val n .fenceError (fireArm n
        (modFence n (fun f => { f with armVector := vec, armTarget := (regRaw (fnKey fn.val fSYN_ARG) s), armed := true,
                                       armDue := false, armNext := false }) (actTaken fn.val v s)))))))) ∧
  (ActsOn p.val fn.val 5 n v f s → exec (.disarm p fn (.full v)) s = .next (errOutputs (settle (actDone fn.val n .ok
    (modFence n (fun f => { f with armed := false, armDue := false, armNext := false }) (actTaken fn.val v s)))))) ∧
  (∀ b : Nat × Nat, fnOpen p.val fn.val s = true → mget s.que.actBusy fn.val = some b →
    ∀ c ∈ [Instr.fenceRead p fn (.full v), .fenceReset p fn (.full v), .setMirror p fn (.full v), .clearMirror p fn (.full v),
      .arm p fn (.full v), .disarm p fn (.full v)],
    exec c s = .next (errOutputs (settle { s with
      reg := { s.reg with last := mset s.reg.last (fnKey fn.val fSYN_HANDLE) v }
      que := { s.que with actOverrun := insNat fn.val s.que.actOverrun } }))) ∧
  (∀ (i : Nat) (w : Wait), mget s.que.waits i = some w → w.fence = n → mget s.que.fences n = some f →
    (w.left = some 0 → exec (.fenceTimeout i) s = .next (errOutputs (settle { s with que := { s.que with
      waits := mdel s.que.waits i, fenceEnds := s.que.fenceEnds ++ [(w.who, .fenceTimeout, f.value)] } }))) ∧
    (w.left ≠ some 0 → exec (.fenceTimeout i) s = .next (errOutputs (settle s)))) ∧
  (∀ m : Fin 16384, m.val = n → mget s.que.fences n = some f →
    (f.mirrorSent = false → exec (.mirrorWriteAccepted m) s = .next (errOutputs (settle s))) ∧
    (∀ t u : State, f.mirrorSent = true → t = modFence n (fun f => { f with mirrorBusy := false, mirrorSent := false }) s →
      u = (if f.armDue = true ∨ (f.armNext = true ∧ f.mirrorAgain = false) then fireArm n t else t) →
      exec (.mirrorWriteAccepted m) s = .next (errOutputs (settle (if f.mirrorAgain
        then mirrorWrite n (modFence n (fun f => { f with armDue := f.armNext, armNext := false }) u) else u))))) ∧
  (∀ (st : Status) (w : W64) (k : Nat), mget (actResult fn.val st w k s).que.actStatus fn.val = some (statusCode st) ∧
    mget (actResult fn.val st w k s).que.actValue fn.val = some w ∧ mget (actResult fn.val st w k s).que.actState fn.val = some k)

/-- A well-formed RD_SHARED, RD_OWN or UPGRADE of an ACTIVE agent whose context still stands enters a request for
the line on behalf of the agent; otherwise the agent is answered with a coherence error (R259, R260). WR_BACK
and EVICT_CLEAN reach the home of their line at once. At a line without a transaction the home of Table 11-8
grants RdShared of a line with no owner as DataS where it has sharers and as DataE where it has none, grants
RdOwn where nobody else holds the line, otherwise snoops the owner or the sharers and waits for them, and grants
Upgrade of a sharer without data. A WrBack of the owner is pulled, one of another agent is dropped (R266); an
EvictClean removes the agent. A request for a line with a transaction waits behind it. A header that is not well
formed gives nothing but the fault of R274. -/
def Obligations.CoherentRequests : Prop :=
  (∀ (h : CohHdr) (s : State), frozen s = false →
    (∀ x : Ctx, cohHdrOk true h = true → agentSt h.agent.toNat s = .active →
      mget s.que.ctxs (agentRec h.agent.toNat s).ctx = some x →
      slotGen s.que.ctxSlots (agentRec h.agent.toNat s).ctx = (agentRec h.agent.toNat s).gen →
      let R : Nat → Res := fun kind => .next (errOutputs (settle (newReq
        { who := .block, fn := x.fn, env := x.env
          ident := { ctx := some (agentRec h.agent.toNat s).ctx, gen := (agentRec h.agent.toNat s).gen }
          op := .coh kind h.agent.toNat h.txn.toNat h.addr.toNat 0 0 } (cohCredit 3 h s))))
      exec (.rdShared h) s = R 0 ∧ exec (.rdOwn h) s = R 1 ∧ exec (.upgrade h) s = R 2) ∧
    (cohHdrOk true h = true → agentSt h.agent.toNat s ≠ .dead →
      agentSt h.agent.toNat s ≠ .active ∨ mget s.que.ctxs (agentRec h.agent.toNat s).ctx = none ∨
        slotGen s.que.ctxSlots (agentRec h.agent.toNat s).ctx ≠ (agentRec h.agent.toNat s).gen →
      ∀ c ∈ [Instr.rdShared h, .rdOwn h, .upgrade h], exec c s = .next (errOutputs (settle
        (cohSend h.agent.toNat 5 0x24 h.txn.toNat h.addr.toNat 5 [] false (cohCredit 3 h s))))) ∧
    (agentSt h.agent.toNat s = .dead → cohHdrOk true h = true →
      ∀ c ∈ [Instr.rdShared h, .rdOwn h, .upgrade h], exec c s = .next (errOutputs (settle (cohCredit 3 h s)))) ∧
    (cohHdrOk false h = true → agentSt h.agent.toNat s ≠ .dead →
      exec (.wrBack h) s = .next (errOutputs (settle (arrive (cohKey h)
        { kind := .wrBack, agent := h.agent.toNat, txn := h.txn.toNat } (cohCredit 3 h s)))) ∧
      exec (.evictClean h) s = .next (errOutputs (settle (arrive (cohKey h)
        { kind := .evictClean, agent := h.agent.toNat, txn := h.txn.toNat } (cohCredit 3 h s))))) ∧
    (cohHdrOk true h = false → exec (.rdShared h) s = .next (errOutputs (settle (cohBad h (cohCredit 3 h s)))) ∧
      exec (.rdOwn h) s = .next (errOutputs (settle (cohBad h (cohCredit 3 h s)))) ∧
      exec (.upgrade h) s = .next (errOutputs (settle (cohBad h (cohCredit 3 h s))))) ∧
    (cohHdrOk false h = false → exec (.wrBack h) s = .next (errOutputs (settle (cohBad h (cohCredit 3 h s)))) ∧
      exec (.evictClean h) s = .next (errOutputs (settle (cohBad h (cohCredit 3 h s)))))) ∧
  (∀ (k : Nat) (r : CohReq) (s : State), r.req = none → (dirEnt k s).txn.isSome = true →
    arrive k r s = setDir k { dirEnt k s with waiting := (dirEnt k s).waiting ++ [r] } s) ∧
  (∀ (k : Nat) (r : CohReq) (s : State), r.req = none → (dirEnt k s).txn = none → setFull k s = false → (dirEnt k s).host = false →
    let e : DirEnt := { dirEnt k s with stamp := s.coh.stamp + 1 }
    let t : State := { s with coh := { s.coh with stamp := s.coh.stamp + 1 } }
    (r.kind = .rdShared → e.owner = none → arrive k r s = grantTo k (if inS e then 0x28 else 0x29) r e t) ∧
    (∀ o : Nat, r.kind = .rdShared → e.owner = some o → o ≠ r.agent → arrive k r s = cohSend o 4 0x10 0 (keyAddr k) 0 [] false
      (setDir k { e with txn := some { st := .xSd, r := r, snooped := [o] } } t)) ∧
    (∀ o : Nat, r.kind = .rdOwn ∨ r.kind = .upgrade → e.owner = some o → o ≠ r.agent →
      arrive k r s = cohSend o 4 0x11 0 (keyAddr k) 0 [] false
        (setDir k { e with txn := some { st := .xSi, r := r, snooped := [o] } } t)) ∧
    (r.kind = .rdOwn → e.owner = none → ((holders e t).filter (· != r.agent)).isEmpty = true →
      arrive k r s = grantTo k 0x29 r (clearHolders e) t) ∧
    (r.kind = .upgrade → e.owner = none → ((holders e t).filter (· != r.agent)).isEmpty = true →
      arrive k r s = grantTo k (if isSharer r.agent e then 0x20 else 0x29) r (clearHolders e) t) ∧
    (r.kind = .rdOwn ∨ r.kind = .upgrade → e.owner = none → ((holders e t).filter (· != r.agent)).isEmpty = false →
      arrive k r s = openSnoop k .sSi 0x11 ((holders e t).filter (· != r.agent)) r e t) ∧
    (r.kind = .wrBack → e.owner = some r.agent → isHostAgent r.agent = false →
      arrive k r s = cohSend r.agent 5 0x21 r.txn (keyAddr k) 0 [] false (setDir k { e with txn := some { st := .wD, r := r } } t)) ∧
    (r.kind = .wrBack → e.owner ≠ some r.agent → arrive k r s = cohSend r.agent 5 0x22 r.txn (keyAddr k) 0 [] false t) ∧
    (r.kind = .evictClean → e.owner = some r.agent →
      arrive k r s = cohSend r.agent 5 0x23 r.txn (keyAddr k) 0 [] false (setDir k (clearHolders e) t)) ∧
    (r.kind = .evictClean → e.owner ≠ some r.agent →
      arrive k r s = cohSend r.agent 5 0x23 r.txn (keyAddr k) 0 [] false (setDir k (dropSharer r.agent e) t)))

/-- At a line whose transaction awaits the agent (Table 11-9), RSP_I takes it off the holders, RSP_S keeps it as a
sharer, and the transaction completes when nobody else is awaited; RSP_I_DIRTY and RSP_S_DIRTY also announce
data, and DIRTY_DATA brings it. WB_DATA of a pulled write-back writes the line and frees it; CMP_ACK ends a
grant and records the agent as owner or as sharer. FLUSH_DONE makes a flushing agent ABSENT, and where no entry
names it as a sharer nothing else; a leaving core is reset next (R277, R363). A response that the line's state
does not await is a protocol violation of the agent (R274). A dead agent's messages are not accepted (R275). -/
def Obligations.CoherentResponses : Prop :=
  ∀ (h : CohHdr) (s : State), cohHdrOk false h = true →
  (∀ t : CohTxn, agentSt h.agent.toNat s ≠ .dead → (dirEnt (cohKey h) s).txn = some t →
    h.agent.toNat ∈ t.snooped →
    let e := dirEnt (cohKey h) s
    let left := t.snooped.filter (· != h.agent.toNat)
    let free : Option Nat := if e.owner = some h.agent.toNat then none else e.owner
    let gone : DirEnt := { dropSharer h.agent.toNat e with owner := free }
    let kept : DirEnt := addSharer h.agent.toNat { e with owner := free }
    (t.st = .xSd ∨ t.st = .xSi ∨ t.st = .sSi → exec (.rspI h) s = .next (errOutputs (settle (complete (cohKey h)
      (setDir (cohKey h) { gone with txn := some { t with snooped := left } } (cohCredit 5 h s)))))) ∧
    (t.st = .xSd → exec (.rspS h) s = .next (errOutputs (settle (complete (cohKey h)
      (setDir (cohKey h) { kept with txn := some { t with snooped := left } } (cohCredit 5 h s)))))) ∧
    (t.st = .xSd ∨ t.st = .xSi → exec (.rspIDirty h) s = .next (errOutputs (settle (setDir (cohKey h)
      { gone with txn := some { t with snooped := left, owing := t.owing ++ [h.agent.toNat] } } (cohCredit 5 h s))))) ∧
    (t.st = .xSd → exec (.rspSDirty h) s = .next (errOutputs (settle (setDir (cohKey h)
      { kept with txn := some { t with snooped := left, owing := t.owing ++ [h.agent.toNat] } } (cohCredit 5 h s))))) ∧
    (t.st = .sSi ∨ t.st = .xSi → exec (.rspS h) s = .next (errOutputs (settle (violation h.agent.toNat (cohCredit 5 h s)))) ∧
      exec (.rspSDirty h) s = .next (errOutputs (settle (violation h.agent.toNat (cohCredit 5 h s)))))) ∧
  (agentSt h.agent.toNat s ≠ .dead → (dirEnt (cohKey h) s).txn = none →
    ∀ c ∈ [Instr.rspI h, .rspS h, .rspIDirty h, .rspSDirty h, .cmpAck h],
      exec c s = .next (errOutputs (settle (violation h.agent.toNat (cohCredit 5 h s))))) ∧
  (agentSt h.agent.toNat s = .dead →
    ∀ c ∈ [Instr.rspI h, .rspS h, .rspIDirty h, .rspSDirty h, .cmpAck h, .flushDone h],
      exec c s = .next (errOutputs (settle (cohCredit 5 h s)))) ∧
  (∀ (t : CohTxn) (d : List Byte) (bad : Bool), agentSt h.agent.toNat s ≠ .dead →
    (dirEnt (cohKey h) s).txn = some t →
    let x := mergeData (cohKey h) (dataField 64 d) bad (cohCredit 6 h s)
    (h.agent.toNat ∈ t.owing → exec (.dirtyData h d bad) s = .next (errOutputs (settle (complete (cohKey h)
      (setDir (cohKey h) { dirEnt (cohKey h) x with txn := some { t with owing := t.owing.filter (· != h.agent.toNat) } } x))))) ∧
    (t.st = .wD → t.r.agent = h.agent.toNat → exec (.wbData h d bad) s = .next (errOutputs (settle (nextOf (cohKey h) 64
      (setDir (cohKey h) { clearHolders (dirEnt (cohKey h) x) with txn := none } x))))) ∧
    (h.agent.toNat ∉ t.owing → exec (.dirtyData h d bad) s =
      .next (errOutputs (settle (violation h.agent.toNat (cohCredit 6 h s))))) ∧
    (t.st ≠ .wD → exec (.wbData h d bad) s = .next (errOutputs (settle (violation h.agent.toNat (cohCredit 6 h s)))))) ∧
  (∀ t : CohTxn, agentSt h.agent.toNat s ≠ .dead → (dirEnt (cohKey h) s).txn = some t →
    t.st = .gA → t.r.agent = h.agent.toNat → exec (.cmpAck h) s = .next (errOutputs (settle (nextOf (cohKey h) 64
      (setDir (cohKey h) (if t.exclusive
        then { clearHolders (dirEnt (cohKey h) (cohCredit 5 h s)) with owner := some h.agent.toNat, txn := none }
        else { addSharer h.agent.toNat (dirEnt (cohKey h) (cohCredit 5 h s)) with txn := none }) (cohCredit 5 h s)))))) ∧
  (agentSt h.agent.toNat s = .flushing →
    (∃ t : State, exec (.flushDone h) s = .next (errOutputs (settle (match mget s.env.leaving h.agent.toNat with
        | some (.flushing _, _) => leaveReset h.agent.toNat t
        | _ => t))) ∧ agentSt h.agent.toNat t = .absent ∧ t.que = s.que ∧ t.env = s.env ∧ t.reg = s.reg) ∧
    (mget s.env.leaving h.agent.toNat = none → (∀ e ∈ s.coh.dir, e.2.sharers.contains h.agent.toNat = false) →
      exec (.flushDone h) s = .next (errOutputs (settle { cohCredit 5 h s with coh := { s.coh with
        agents := (mset s.coh.agents h.agent.toNat { agentRec h.agent.toNat s with st := .absent }) } })))) ∧
  (agentSt h.agent.toNat s = .active →
    exec (.flushDone h) s = .next (errOutputs (settle (cohCredit 5 h s))))

/-- SNP_TIMEOUT of an agent that owes a snoop response, and FLUSH_TIMEOUT of one that is flushing, make it dead;
they do nothing to another (R274, R277). RECLAIM_SWEEP_END removes a dead agent from every line once, counts the
agent and sets AGENT_DEAD (R275, R276). AGENT_ENABLE from 0 to 1 makes an absent or dead core or mooring agent
ACTIVE, a dead one once its sweep has ended, for its context, and 1 to 0 flushes it (R277). RANGE_WRITE of a
range that holds a page in shared bias, or that would overlap another, is refused and sets RANGE_REFUSED (R255,
R256; what happens on an overlap is the model's choice). BIAS_ACTION of a context of the function with an
aligned device-half address starts; a stale handle or a misaligned address ends it at once with its status
(R258). BIAS_FLIP_END ends the flip of a page without a directory entry, takes the requests that waited for it
and goes on with the action, and does nothing before (R257). -/
def Obligations.AgentsRangesAndBias : Prop :=
  ∀ s : State,
  (∀ a : Fin 1024, isMoorAgent a.val = true → agentSt a.val s ≠ .dead →
    (owesSnoop a.val s = true → exec (.snpTimeout a) s = .next (errOutputs (settle (killAgent a.val 3 s)))) ∧
    (owesSnoop a.val s = false → exec (.snpTimeout a) s = .next (errOutputs (settle s))) ∧
    (agentSt a.val s = .flushing → exec (.flushTimeout a) s = .next (errOutputs (settle (killAgent a.val 4 s)))) ∧
    (agentSt a.val s ≠ .flushing → exec (.flushTimeout a) s = .next (errOutputs (settle s)))) ∧
  (∀ a : Fin 1024, isCoreAgent a.val = true → agentSt a.val s ≠ .dead →
    (owesSnoop a.val s = true → exec (.snpTimeout a) s = .next (errOutputs (settle (coreFail a.val 3 s)))) ∧
    (agentSt a.val s = .flushing → exec (.flushTimeout a) s = .next (errOutputs (settle (coreFail a.val 4 s))))) ∧
  (∀ (a c : Nat), agentSt a s ≠ .dead → agentSt a (killAgent a c s) = .dead ∧ (agentRec a (killAgent a c s)).cause = c ∧
    (killAgent a c s).coh.dir = s.coh.dir) ∧
  (∀ a : Fin 1024, (agentSt a.val s ≠ .dead ∨ (mgetD s.coh.agents a.val {}).swept = true) →
    exec (.reclaimSweepEnd a) s = .next (errOutputs s)) ∧
  (∀ (a : Fin 1024) (r : Agent), mget s.coh.agents a.val = some r → r.st = .dead → r.swept = false →
    ∃ x, exec (.reclaimSweepEnd a) s = .next (errOutputs x) ∧ (mgetD x.coh.agents a.val {}).swept = true ∧
      x.coh.reclaimed = satAdd 16 s.coh.reclaimed 1 ∧ bit (regRaw rCOH_EVENT x) 0 = true) ∧
  (∀ (a : Fin 1024) (r : Agent), mget s.coh.agents a.val = some r → r.st = .dead → r.swept = false → linesNaming a.val s = [] →
    exec (.reclaimSweepEnd a) s = .next (errOutputs (setEvent rCOH_EVENT 0 { s with coh := { s.coh with
      agents := mmod s.coh.agents a.val (fun x => { x with swept := true }), reclaimed := satAdd 16 s.coh.reclaimed 1 } }))) ∧
  (∀ (p : HP) (v : W64) (a : Nat), mgrOpen p.val rCOH_AGENT_CTL s = true → (selGet p.val rCOH_AGENT_SEL s).toNat = a →
    isCoreAgent a = true ∨ isMoorAgent a = true →
    let t : State := { s with reg := { s.reg with last := mset s.reg.last rCOH_AGENT_CTL v } }
    let r : Agent := { agentRec a s with en := bit v 0, ctx := fld v 12 12, gen := fld v 32 32 }
    (bit v 0 = true → (agentRec a s).en = false →
      (agentRec a s).st = .absent ∨ (agentRec a s).st = .dead →
      ∀ u : State, u = (if sweepDue a t then reclaimSweep a t else t) →
      exec (.agentEnable p (.full v)) s = .next (errOutputs (settle { u with coh := { u.coh with
        agents := mset u.coh.agents a { r with st := .active, cause := 0, swept := false } } }))) ∧
    (bit v 0 = false → (agentRec a s).en = true → (agentRec a s).st = .active →
      exec (.agentEnable p (.full v)) s = .next (errOutputs (settle (flushAgent a { t with coh := { t.coh with
        agents := mset t.coh.agents a r } })))) ∧
    (bit v 0 = true → (agentRec a s).en = true → exec (.agentEnable p (.full v)) s =
      .next (errOutputs (settle { t with coh := { t.coh with agents := mset t.coh.agents a r } })))) ∧
  (∀ (p : HP) (n : Fin 64) (v : W64), mgrOpen p.val (rCOH_RANGE + 8 * n.val) s = true → mayClassC s = true →
    let t : State := signWrite (rCOH_RANGE + 8 * n.val) v
      { s with reg := { s.reg with last := mset s.reg.last (rCOH_RANGE + 8 * n.val) v } }
    (rangeRefused n.val v s = false → exec (.rangeWrite p n (.full v)) s = .next (errOutputs (setRaw (rCOH_RANGE + 8 * n.val)
      (v &&& BitVec.ofNat 64 0xFFFFFFFFFFE00001) t))) ∧
    (rangeRefused n.val v s = true → exec (.rangeWrite p n (.full v)) s = .next (errOutputs (setEvent rCOH_EVENT 3 t)))) ∧
  (∀ (p : HP) (fn : Fn) (v : W64) (x : Ctx), fnOpen p.val fn.val s = true → (mgetD s.coh.acts fn.val {}).busy = false →
    mget s.que.ctxs (fld v 0 12) = some x →
    let t : State := { s with reg := { s.reg with last := mset s.reg.last (fnKey fn.val fCOH_BIAS_CTL) v } }
    let va := (regRaw (fnKey fn.val fCOH_BIAS_ARG) s).toNat % 2 ^ 57
    let act : BiasAct := { busy := true, done := 0, ctx := fld v 0 12, va := va, left := fld v 13 9 + 1, shared := bit v 12 }
    (x.fn = fn.val → slotGen s.que.ctxSlots (fld v 0 12) = fld v 32 32 → va % 4096 = 0 → va < 2 ^ 56 →
      exec (.biasAction p fn (.full v)) s = .next (errOutputs (settle (newReq
        { who := .block, fn := fn.val, env := (func fn.val s).env, ident := { ctx := some (fld v 0 12) }, op := .bias va 0 0 }
        { t with coh := { t.coh with acts := mset t.coh.acts fn.val act } })))) ∧
    (x.fn ≠ fn.val ∨ slotGen s.que.ctxSlots (fld v 0 12) ≠ fld v 32 32 → exec (.biasAction p fn (.full v)) s =
      .next (errOutputs (settle { t with coh := { t.coh with
        acts := mset t.coh.acts fn.val { act with busy := false, status := .staleHandle } } }))) ∧
    (x.fn = fn.val → slotGen s.que.ctxSlots (fld v 0 12) = fld v 32 32 → va % 4096 ≠ 0 ∨ hostHalf va = true →
      exec (.biasAction p fn (.full v)) s = .next (errOutputs (settle { t with coh := { t.coh with
        acts := mset t.coh.acts fn.val { act with busy := false, status := .invalid } } })))) ∧
  (∀ (pg : BitVec 32) (f : Flip), (s.coh.flips.find? fun f => f.page == pg.toNat) = some f →
    (pageLines pg.toNat s ≠ [] → exec (.biasFlipEnd pg) s = .next (errOutputs (settle s))) ∧
    (pageLines pg.toNat s = [] → exec (.biasFlipEnd pg) s = .next (errOutputs (settle (biasStep f.fn
      (each f.waiting (fun w => coherentArrive w.1 w.2)
        { s with coh := { s.coh with flips := s.coh.flips.filter (fun x => x.page != pg.toNat)
                                     shared := s.coh.shared.filter (· != pg.toNat) } }))))))

/-- A PARTIAL_RECORD that is taken in order reaches the reduction it names and is acknowledged; one that names no
reduction, disagrees with it, comes from no child, or comes twice from one child only counts a mismatch, and one
that fits in time is added to its chunk, with its sender and its contributions (R312, R319). A RESULT_RECORD
that its parent sends is forwarded to the children and written to DST (R323). CHUNK_SEND at the chunk's slot,
with its own contribution and every child's record, sends the chunk's record to the parent, or writes the result
at the root; before that nothing happens (R317, R319). A root whose contributions do not add up to LEAVES fails
the chunk. CHUNK_LATE_TIMEOUT fails a chunk whose records have not come in time, and no other (R319). -/
def Obligations.Reductions : Prop :=
  (∀ (h : PktHdr) (b : List Byte) (s : State), InOrder 3 h s →
    let t := fabArrive 3 (ceilDiv b.length 64) true h s
    exec (.partialRecord h b) s = .next (errOutputs (settle (fabTaken h.src.val h.eseq.toNat (takeRecord (pktEnv h t).1 b t)))) ∧
    exec (.resultRecord h b) s = .next (errOutputs (settle (fabTaken h.src.val h.eseq.toNat (takeResult (pktEnv h t).1 b t))))) ∧
  (∀ (env : Option Nat) (b : List Byte) (s : State), redNamed env (recOf b).id s = none →
    takeRecord env b s = mismatch true s ∧ takeResult env b s = mismatch true s) ∧
  (∀ (env : Option Nat) (b : List Byte) (id : Nat) (r : Reduction) (s : State), redNamed env (recOf b).id s = some (id, r) →
    (recAgrees r (recOf b) = false ∨ (recOf b).sender ∉ r.plan.children ∨
      (recOf b).sender ∈ (chunkOf r (recOf b).chunk).got → takeRecord env b s = mismatch true s) ∧
    (recAgrees r (recOf b) = true → (recOf b).sender ∈ r.plan.children →
      (recOf b).sender ∉ (chunkOf r (recOf b).chunk).got →
      let k := (recOf b).chunk
      let t := if slotTick r k + 8 ≤ tick s then
          setEvent rCIS_EVENT 0 (countFn ((mget s.que.ctxs r.ctx).map (·.fn) |>.getD 0) 15 1
            (modRed id (fun r => { r with late := r.late + 1 }) (modChunk id k (fun c => { c with late := true })
              (modCis (fun c => { c with late := satAdd 32 c.late 1 }) s))))
        else s
      let u := modChunk id k (addRecord r (recOf b))
        (countOperands ((elemLanes id r k 0 (recOf b).elements t).zip (recBits r (recOf b))) t)
      let spill := overflown id k s < overflown id k u
      ((recOf b).failed = true → takeRecord env b s = failChunk id k (modChunk id k (fun c =>
        { c with got := c.got ++ [(recOf b).sender], contribs := c.contribs + (recOf b).contribs }) t)) ∧
      ((recOf b).failed = false → ¬ spill → takeRecord env b s = u) ∧
      ((recOf b).failed = false → spill → takeRecord env b s = setEvent rCIS_EVENT 5 u)) ∧
    ((recOf b).kind = 3 → (recOf b).chunk < chunkCount r → (recOf b).sender = r.plan.parent → r.plan.all = true →
      (chunkOf r (recOf b).chunk).sent = true → (chunkOf r (recOf b).chunk).fin = false →
      (recOf b).sender ∉ (chunkOf r (recOf b).chunk).got → (recOf b).fmt = r.fmt → (recOf b).op = r.op →
      (recOf b).elements = chunkElems r (recOf b).chunk →
      let k := (recOf b).chunk
      let t := each r.plan.children (fun p s => sendRecord r p k (forwardRecord b s) s)
        (modChunk id k (fun c => { c with got := c.got ++ [(recOf b).sender] }) s)
      ((recOf b).failed = true → takeResult env b s = poisonResult id k t) ∧
      ((recOf b).failed = false → takeResult env b s = writeResult id k false ((List.range (recOf b).elements).map fun i =>
        elemAt (fmtWidth ((outFmtOf r.plan r.fmt).getD .fp32)) (recOf b).payload i) t))) ∧
  (∀ (r : Reduction) (x : Rec) (c : Chunk), (addRecord r x c).got = c.got ++ [x.sender] ∧
    (addRecord r x c).contribs = c.contribs + x.contribs ∧ (addRecord r x c).own = c.own ∧ (addRecord r x c).sent = c.sent) ∧
  (∀ (id k : Nat) (r : Reduction) (s : State), mget s.cis.reds id = some r →
    (chunkReady r k = false ∨ tick s < slotTick r k → exec (.chunkSend id k) s = .next (errOutputs (settle s))) ∧
    (chunkReady r k = true → slotTick r k ≤ tick s → r.plan.parent ≠ 0xFFFF →
      let y := if s.time.st = .freeRun ∧ slotTick r k + 8 ≤ tick s then noteLate id k r s else s
      let t := modChunk id k (fun c => { c with sent := true }) (sendRecord r r.plan.parent k (chunkRecord r k y) y)
      exec (.chunkSend id k) s = .next (errOutputs (settle (awaitParent id k true r t))) ∧
      (peerSt r.plan.parent t = .active → r.plan.all = true → awaitParent id k true r t = t) ∧
      (peerSt r.plan.parent t = .active → r.plan.all = false → awaitParent id k true r t = chunkFin id k true false t) ∧
      (peerSt r.plan.parent t ≠ .active → r.plan.all = true → awaitParent id k true r t = poisonResult id k t)) ∧
    (chunkReady r k = true → slotTick r k ≤ tick s → r.plan.parent = 0xFFFF →
      let whole := (chunkOf r k).contribs = r.plan.leaves ∧ (r.ordered = true → r.op = 0 →
        (chunkOf r k).blocks.map (fun b => (b.1, b.2.1)) = [(0, r.plan.leaves)])
      let vs := (rootValues r k).1
      let t := modChunk id k (fun c => { c with sent := true })
        (modCis (fun c => { c with sat := satAdd 32 c.sat (rootValues r k).2 })
          (countRounded (elemLanes id r k 0 vs.length s) s))
      (¬ whole → exec (.chunkSend id k) s = .next (errOutputs (settle (failChunk id k s)))) ∧
      (whole → exec (.chunkSend id k) s = .next (errOutputs (settle (writeResult id k false vs
        (if r.plan.all then each r.plan.children (fun p s => sendRecord r p k (resultRecord r k false
          (packElems (fmtWidth ((outFmtOf r.plan r.fmt).getD .fp32)) vs) s) s) t else t)))))) ∧
    (k < chunkCount r → (chunkOf r k).failed = false → (chunkOf r k).sent = false →
      (chunkOf r k).got.length < r.plan.children.length →
      slotTick r k + 8 + (if r.plan.lateTicks = 0 then 1000 else r.plan.lateTicks) ≤ tick s →
      exec (.chunkLateTimeout id k) s = .next (errOutputs (settle (failChunk id k s)))) ∧
    (r.plan.children.length ≤ (chunkOf r k).got.length → exec (.chunkLateTimeout id k) s = .next (errOutputs (settle s))))

/-- A packet that is taken in order moves its sequence on and does this (R336, R347). FABRIC_WRITE and FABRIC_READ
of memory that the sender's envelope may reach enter a request for the address, FABRIC_ATOMIC likewise where the
operation is well formed, and a malformed one is answered with INVALID; a write without data carries a poisoned
line (R387); without the right they are refused, counted against the envelope and answered with RIGHTS (R156,
R364). FENCE_OP signals the fence and answers with its value, or registers the wait of the peer (R239).
FENCE_DONE, RDATA and ARESP bring the answer to the request that this chip sent, and nothing where none is
asked. EACK takes the packets it covers as delivered and sends on (R348). A packet behind its sequence is
acknowledged again and one ahead is discarded; one that fails authentication is counted and discarded (R344,
R347). The counter of a packet is the least value above the last one accepted whose low 16 bits are CTR_LO
(R343). -/
def Obligations.FabricPackets : Prop :=
  (∀ (h : PktHdr) (pa : BitVec 57) (d : List Byte) (s : State), InOrder 3 h s →
    let t := fabArrive 3 (ceilDiv d.length 64) true h s
    let at' := if d = [] then pa.toNat / 64 * 64 else pa.toNat
    let line := if d = [] then List.replicate 64 0 else d
    (remoteCheck (pktEnv h t).1 (paLocal at') line.length 1 t = true →
      exec (.fabricWrite h pa d) s = .next (errOutputs (settle (newReq
        { pktReq h (.paWrite at' line) t with poisoned := d.isEmpty } t)))) ∧
    (remoteCheck (pktEnv h t).1 (paLocal at') line.length 1 t = false →
      exec (.fabricWrite h pa d) s = .next (errOutputs (settle (fabPut h.src.val h.cls.val (pktEnv h t).1
        (.aresp h.eseq.toNat none .rights) (modFpeer h.src.val (fun p => { p with pend := p.pend.erase h.eseq.toNat })
          (remoteRefused (pktEnv h t).1 t))))))) ∧
  (∀ (h : PktHdr) (pa : BitVec 57) (n : Fin 64) (s : State), InOrder 3 h s →
    let t := fabArrive 3 0 false h s
    let len := min (64 * (n.val + 1)) (4096 - pa.toNat % 4096)
    (remoteCheck (pktEnv h t).1 (paLocal pa.toNat) len 0 t = true →
      exec (.fabricRead h pa n) s = .next (errOutputs (settle (fabAck h.src.val (newReq (pktReq h (.paRead pa.toNat len) t) t))))) ∧
    (remoteCheck (pktEnv h t).1 (paLocal pa.toNat) len 0 t = false →
      exec (.fabricRead h pa n) s = .next (errOutputs (settle (fabAck h.src.val (fabPut h.src.val h.cls.val (pktEnv h t).1
        (.rdata h.eseq.toNat [] .rights) (remoteRefused (pktEnv h t).1 t))))))) ∧
  (∀ (h : PktHdr) (pa : BitVec 57) (o : AtomOp) (s : State), InOrder 3 h s →
    let t := fabArrive 3 1 true h s
    (remoteCheck (pktEnv h t).1 (paLocal pa.toNat) (atomSpan o) 2 t = true → atomOk o pa.toNat = true →
      exec (.fabricAtomic h pa o) s = .next (errOutputs (settle (newReq (pktReq h (.paAtomic pa.toNat o) t) t)))) ∧
    (remoteCheck (pktEnv h t).1 (paLocal pa.toNat) (atomSpan o) 2 t = true → atomOk o pa.toNat = false →
      exec (.fabricAtomic h pa o) s = .next (errOutputs (settle (fabTaken h.src.val h.eseq.toNat
        (fabPut h.src.val h.cls.val (pktEnv h t).1 (.aresp h.eseq.toNat none .invalid) t))))) ∧
    (remoteCheck (pktEnv h t).1 (paLocal pa.toNat) (atomSpan o) 2 t = false →
      exec (.fabricAtomic h pa o) s = .next (errOutputs (settle (fabTaken h.src.val h.eseq.toNat
        (fabPut h.src.val h.cls.val (pktEnv h t).1 (.aresp h.eseq.toNat none .rights) (remoteRefused (pktEnv h t).1 t))))))) ∧
  (∀ (h : PktHdr) (sg : Bool) (d : FenceData) (scope : Fin 8) (core : CoreIx) (eng : Fin 4) (s : State), InOrder 1 h s →
    let t := fabArrive 1 1 false h s
    let answered (st : Status) (v : W64) (x : State) : Host.Outcome State Fault Refusal :=
      .next (errOutputs (settle (fabAck h.src.val (fabPut h.src.val h.cls.val (pktEnv h t).1 (.fenceDone h.eseq.toNat v st) x))))
    ((pktEnv h t).1 = none → exec (.fenceOp h sg d scope core eng) s = answered .invalid 0 t) ∧
    (∀ (e : Nat) (st : Status), (pktEnv h t).1 = some e → checkHandle d.handle 4 (pktEnv h t).2 (some e) t = .fail st →
      exec (.fenceOp h sg d scope core eng) s = answered st 0 t) ∧
    (∀ e n : Nat, (pktEnv h t).1 = some e → checkHandle d.handle 4 (pktEnv h t).2 (some e) t = .slot n →
      let r := fenceSignal n d.value ⟨h.src.val, core.val, eng.val, scope.val⟩ { cls := h.cls.val } t
      exec (.fenceOp h true d scope core eng) s = answered r.1.1 r.1.2 r.2 ∧
      exec (.fenceOp h false d scope core eng) s = .next (errOutputs (settle (fabAck h.src.val (fenceWait
        { fence := n, target := d.value, who := .remote h.src.val h.eseq.toNat e h.cls.val, ident := { cls := h.cls.val }
          env := some e, scope := scope.val, core := core.val, engine := eng.val
          left := (if d.timeout = 0 then none else some d.timeout.toNat), registered := true } t)))))) ∧
  (∀ (h : PktHdr) (q : BitVec 20) (v : W64) (st : Status) (i : Nat) (hd : W64) (val : W64) (a b c : Nat) (tm : Nat) (sg : Bool)
      (x : State) (s : State), InOrder 1 h s →
    askedTake h.src.val 1 q.toNat (fabArrive 1 1 false h s) = (some (.fenceOp i sg hd val a b c tm), x) →
    exec (.fenceDone h q v st) s = .next (errOutputs (settle (fabAck h.src.val
      { x with que := { x.que with fenceEnds := x.que.fenceEnds ++ [(.vc0 i, st, v)] } })))) ∧
  (∀ (h : PktHdr) (q : BitVec 20) (d : List Byte) (i off pa len : Nat) (x s : State), InOrder 2 h s →
    askedTake h.src.val 3 q.toNat (fabArrive 2 (ceilDiv d.length 64) false h s) = (some (.read i off pa len), x) →
    exec (.rdata h q .ok d) s = .next (errOutputs (settle (fabAck h.src.val (reqData i off (dataField len d) false x)))) ∧
    exec (.rdata h q .poison d) s = .next (errOutputs (settle (fabAck h.src.val (reqData i off (dataField len d) true x)))) ∧
    (∀ st : Status, st ≠ .ok → st ≠ .poison →
      exec (.rdata h q st d) s = .next (errOutputs (settle (fabAck h.src.val (homeRefused h i st x)))))) ∧
  (∀ (h : PktHdr) (q : BitVec 20) (old : Option (BitVec 128)) (s : State), InOrder 2 h s →
    let t := fabArrive 2 (if old.isSome then 1 else 0) false h s
    (∀ (i pa : Nat) (o : AtomOp) (x : State), askedTake h.src.val 3 q.toNat t = (some (.atomic i pa o), x) →
      exec (.aresp h q .ok old) s = .next (errOutputs (settle (fabAck h.src.val (endReq i .ok (modReq i (fun r =>
        { r with data := cellsSet [] 0 (if o.noret then [] else toBytes 16 (old.getD 0).toNat), expect := 0 }) x))))) ∧
      exec (.aresp h q .poison old) s = .next (errOutputs (settle (fabAck h.src.val (endReq i .poison x)))) ∧
      ∀ st : Status, st ≠ .ok → st ≠ .poison →
        exec (.aresp h q st old) s = .next (errOutputs (settle (fabAck h.src.val (homeRefused h i st x))))) ∧
    (∀ (i pa : Nat) (d : List Byte) (st : Status) (x : State), askedTake h.src.val 3 q.toNat t = (some (.write i pa d), x) →
      exec (.aresp h q st old) s = .next (errOutputs (settle (fabAck h.src.val (homeRefused h i st
        (modFpeer h.src.val (fun p => { p with unacked := p.unacked.filter fun e =>
          !(e.pkt.vc == 3 && e.pkt.eseq == q.toNat) }) x)))))) ∧
    (∀ st : Status, (fpeer h.src.val s).asked = [] → exec (.aresp h q st old) s = .next (errOutputs (settle (fabAck h.src.val t))))) ∧
  (∀ (h : PktHdr) (q : BitVec 20) (v : W64) (st : Status) (s : State), InOrder 1 h s → (fpeer h.src.val s).asked = [] →
    exec (.fenceDone h q v st) s = .next (errOutputs (settle (fabAck h.src.val (fabArrive 1 1 false h s))))) ∧
  (∀ (h : PktHdr) (a b c : BitVec 20) (s : State), flUp h.link.val s = true →
    (fabAuthentic h s = true →
      let gone (e : Sent) : Bool := ((if e.pkt.vc = 1 then a.toNat else if e.pkt.vc = 2 then b.toNat else c.toNat)
        + 2 ^ 20 - e.pkt.eseq) % 2 ^ 20 < 2 ^ 19
      let t := flReturn h.link.val 1 1 s
      let done := (fpeer h.src.val t).unacked.filter gone
      let u := modFpeer h.src.val (fun p => { p with unacked := p.unacked.filter (fun e => !gone e), wait := (if done = [] then p.wait else 0) })
        (modFpeer h.src.val (fabHeard h) t)
      exec (.eack h a b c) s = .next (errOutputs (settle (fabPump h.src.val 4096 (each done (ackedOne h.src.val)
        (if done = [] then u else modPeer h.src.val (fun p => { p with silent := 0 }) u)))))) ∧
    (fabAuthentic h s = false → exec (.eack h a b c) s =
      .next (errOutputs (settle (fabAuthFail h (flReturn h.link.val 1 1 s)))))) ∧
  (∀ (h : PktHdr) (pa : BitVec 57) (n : Fin 64) (s : State), (frozen s = false ∨ beforeCut 3 h s = true) → flUp h.link.val s = true →
    (fabAuthentic h s = false →
      exec (.fabricRead h pa n) s = .next (errOutputs (settle (fabAuthFail h (flReturn h.link.val 3 0 s))))) ∧
    (∀ m : Nat, fabAuthentic h s = true → mgetD (fpeer h.src.val s).rx 3 0 = m → h.eseq.toNat ≠ m →
      (m + 2 ^ 20 - h.eseq.toNat) % 2 ^ 20 < 2 ^ 19 → exec (.fabricRead h pa n) s = .next (errOutputs (settle (fabAck h.src.val
        (modFpeer h.src.val (fun p => { p with lastLink := h.link.val })
          (modFpeer h.src.val (fabHeard h) (flReturn h.link.val 3 0 s))))))) ∧
    (∀ m : Nat, fabAuthentic h s = true → mgetD (fpeer h.src.val s).rx 3 0 = m → h.eseq.toNat ≠ m →
      2 ^ 19 ≤ (m + 2 ^ 20 - h.eseq.toNat) % 2 ^ 20 → exec (.fabricRead h pa n) s = .next (errOutputs (settle
        (modFpeer h.src.val (fabHeard h) (flReturn h.link.val 3 0 s)))))) ∧
  (∀ (h : PktHdr) (p : FabPeer) (c : Nat), mget p.rctr (2 * h.link.val + b2n h.kepoch) = some c →
    c < hdrCtr h p ∧ hdrCtr h p ≤ c + 2 ^ 16 ∧ hdrCtr h p % 2 ^ 16 = h.ctrLo.toNat)

/-- FRAME that is good, on a link that is up, gives credit and drops what its FACK covers from the replay buffer
where it is idle or the next of its sequence, and moves the sequence on when it is the next; any other good one
is discarded; a bad one is counted and answered with a NAK; a NAK makes the link send its replay buffer again,
and the third for one frame a retrain (R332, R333). LINK_RETRAIN counts and starts a retrain, with a LINK_EVENT
to the Weir (R378), or takes the link out when it is one too many (R334). RETRAIN_TIMEOUT and BRING_UP_TIMEOUT
take the link out of service. LANE_ERROR drops the bad half of the lanes and retrains, or takes the link out
where both halves fail (R330). FL_TRAIN_DONE records the latencies and sends LINK_INIT; LINK_INIT of the switch
with the plane of the image brings the link up with its credits, with another it leaves it out and sets
PLANE_MISMATCH (R331, R338). FLK_RESTORE trains an enabled link again (R334). FABRIC_CREDIT_TIMEOUT retrains
(R338). -/
def Obligations.FabricLinks : Prop :=
  ∀ (l : FL) (s : State),
  (∀ f : FrameIn, (flink l.val s).st ≠ .up → exec (.frame l f) s = .next (errOutputs (settle s))) ∧
  (∀ f : FrameIn, (flink l.val s).st = .up → f.good = false → ∃ x, exec (.frame l f) s = .next (errOutputs (settle x)) ∧
    (flink l.val x).frameErr = satAdd 16 (flink l.val s).frameErr 1 ∧ (flink l.val x).rxSeq = (flink l.val s).rxSeq ∧
    (flink l.val x).replay = (flink l.val s).replay ∧ x.out = s.out ++ [.fabricIdle l.val (fackOf (flink l.val s)) true 0 0] ∧
    x.que = s.que ∧ x.reg = s.reg) ∧
  (∀ f : FrameIn, (flink l.val s).st = .up → f.good = true → f.idle = true ∨ f.fseq.toNat = (flink l.val s).rxSeq →
    ∃ x, exec (.frame l f) s = .next (errOutputs (settle (flPump l.val 4096
        (if f.nak then takeNak l.val ((f.fack.map (·.toNat)).getD (2 ^ 32 - 1)) x else x)))) ∧
    (flink l.val x).rxSeq = (if f.idle then (flink l.val s).rxSeq else ((flink l.val s).rxSeq + 1) % 2 ^ 32) ∧
    (∀ v : Fin 4, mgetD (flink l.val x).cred v.val 0 = mgetD (flink l.val s).cred v.val 0 + f.credits.getD v.val 0) ∧
    (flink l.val x).replay = (match f.fack with
      | some a => (flink l.val s).replay.filter (fun e => !seqLe e.1 a.toNat)
      | none => (flink l.val s).replay) ∧
    (flink l.val x).queue = (flink l.val s).queue ∧ (flink l.val x).nakFor = (flink l.val s).nakFor ∧
    (flink l.val x).fec = satAdd 32 (flink l.val s).fec f.corrected ∧ x.out = s.out ∧ x.que = s.que ∧ x.reg = s.reg) ∧
  (∀ f : FrameIn, (flink l.val s).st = .up → f.good = true → f.idle = false → f.fseq.toNat ≠ (flink l.val s).rxSeq →
    exec (.frame l f) s = .next (errOutputs (settle (modLink l.val (fun k => { k with fec := satAdd 32 k.fec f.corrected }) s)))) ∧
  (∀ n : Nat, let m := if (flink l.val s).nakFor.1 = (n + 1) % 2 ^ 32 then (flink l.val s).nakFor.2 + 1 else 1
    let t := modLink l.val (fun k => { k with naks := satAdd 16 k.naks 1, nakFor := ((n + 1) % 2 ^ 32, m) }) s
    (m < 3 → takeNak l.val n s = { t with out := s.out ++ (flink l.val s).replay.map fun e => .fabric l.val e.1 e.2 }) ∧
    (3 ≤ m → takeNak l.val n s = flRetrain l.val t)) ∧
  ((flink l.val s).st ≠ .up → exec (.linkRetrain l) s = .next (errOutputs (settle s)) ∧
    exec (.fabricCreditTimeout l) s = .next (errOutputs (settle s))) ∧
  ((flink l.val s).st = .up → exec (.linkRetrain l) s = .next (errOutputs (settle (flRetrain l.val s))) ∧
    exec (.fabricCreditTimeout l) s = .next (errOutputs (settle (flRetrain l.val (setEvent rFLK_EVENT 6 s))))) ∧
  ((flink l.val s).st = .up → ((flink l.val s).retrainAt.filter fun t => tick s < t + 1000000).length < regFld rFLK_CTRL 28 4 s →
    (∀ e ∈ s.fab.peers, e.2.path ≠ some l.val) →
    (flink l.val (flRetrain l.val s)).st = .retraining ∧
      (flink l.val (flRetrain l.val s)).retrains = satAdd 16 (flink l.val s).retrains 1 ∧
      (flink l.val (flRetrain l.val s)).replay = [] ∧ (flink l.val (flRetrain l.val s)).txSeq = 0 ∧
      (flink l.val (flRetrain l.val s)).rxSeq = 0 ∧ bit (regRaw rFLK_EVENT (flRetrain l.val s)) 0 = true ∧
      (flRetrain l.val s).weir.raised = (raise (384 + l.val) .linkEvent none none 0 s).weir.raised ∧
      (flRetrain l.val s).out.getLast? = some (.fabricTrain l.val (flink l.val s).mask)) ∧
  ((flink l.val s).st = .retraining → regFld rFLK_CTRL 16 12 s ≤ (flink l.val s).ticks →
    exec (.retrainTimeout l) s = .next (errOutputs (settle (pathsOff l.val (flOut l.val s))))) ∧
  ((flink l.val s).st ≠ .retraining ∨ (flink l.val s).ticks < regFld rFLK_CTRL 16 12 s → exec (.retrainTimeout l) s = .next (errOutputs (settle s))) ∧
  ((flink l.val s).st = .training ∨ (flink l.val s).st = .initialising →
    exec (.bringUpTimeout l) s = .next (errOutputs (settle (pathsOff l.val (flOut l.val s))))) ∧
  ((flink l.val s).st ≠ .training → (flink l.val s).st ≠ .initialising → exec (.bringUpTimeout l) s = .next (errOutputs (settle s))) ∧
  (∀ bad : BitVec 8, (flink l.val s).mask = 0xFF → (flink l.val s).st = .up ∨ (flink l.val s).st = .retraining → bad ≠ 0 →
    let again (m : Nat) : State :=
      let t := modLink l.val (fun k => { k with mask := m }) s
      if (flink l.val s).st = .up then flRetrain l.val t else flTrain l.val .retraining t
    (bad.toNat % 16 = 0 → exec (.laneError l bad) s = .next (errOutputs (settle (again 0x0F)))) ∧
    (bad.toNat % 16 ≠ 0 → bad.toNat / 16 = 0 → exec (.laneError l bad) s = .next (errOutputs (settle (again 0xF0)))) ∧
    (bad.toNat % 16 ≠ 0 → bad.toNat / 16 ≠ 0 →
      exec (.laneError l bad) s = .next (errOutputs (settle (pathsOff l.val (flOut l.val s)))))) ∧
  (∀ bad : BitVec 8, (flink l.val s).mask ≠ 0xFF ∨ bad = 0 → exec (.laneError l bad) s = .next (errOutputs (settle s))) ∧
  (∀ a b : BitVec 16, (flink l.val s).st = .training ∨ ((flink l.val s).st = .retraining ∧ (flink l.val s).locked = false) →
    ∃ x, exec (.flTrainDone l a b) s = .next (errOutputs x) ∧ (flink l.val x).locked = true ∧
    (flink l.val x).st = (if (flink l.val s).st = .training then .initialising else .retraining) ∧
    (flink l.val x).txlat = a.toNat ∧ (flink l.val x).rxlat = b.toNat ∧
    x.out = s.out ++ [.fabric l.val 0 (.linkInit (s.spl.img.planes.getD l.val 0) (flink l.val s).mask ownGrant)] ∧
    x.reg = s.reg ∧ x.que = s.que) ∧
  (∀ (pl : BitVec 5) (m : BitVec 8) (c : List Nat),
    (flink l.val s).st = .initialising ∨ ((flink l.val s).st = .retraining ∧ (flink l.val s).locked = true) →
    (pl.toNat = s.spl.img.planes.getD l.val 0 → ∃ x, exec (.linkInit l pl m c) s = .next (errOutputs (settle (pathsOn
        (each (chipsOn l.val s) (fun c t => helloTo l.val c false t) x)))) ∧ (flink l.val x).st = .up ∧
      (flink l.val x).plane = pl.toNat ∧ (flink l.val x).mask = sharedLanes (flink l.val s).mask m.toNat ∧
      (∀ v : Fin 4, mgetD (flink l.val x).cred v.val 0 = c.getD v.val 0) ∧
      (flink l.val x).txSeq = 0 ∧ (flink l.val x).rxSeq = 0 ∧ x.out = s.out ∧ x.reg = s.reg) ∧
    (pl.toNat ≠ s.spl.img.planes.getD l.val 0 → ∃ x, exec (.linkInit l pl m c) s =
      .next (errOutputs (settle (setEvent rFLK_EVENT 2 x))) ∧ (flink l.val x).st = .out ∧ x.out = s.out)) ∧
  (∀ (p : HP) (v : W32), mgrOpen p.val rFLK_RESTORE s = true → exec (.flkRestore p v) s = .next (errOutputs (settle
    (each ((bitsOf 32 v.toNat).filter fun k => (flEnabled s).contains k) (fun k t =>
      if flUp k t then pathsOff k (flBringUp k t) else flBringUp k t) s)))) ∧
  (∀ (p : HP) (v : W32), mgrOpen p.val rFLK_RESTORE s = false → exec (.flkRestore p v) s = .next (errOutputs (settle s))) ∧
  ((flink l.val (flBringUp l.val s)).st = .training ∧
    (flink l.val (flBringUp l.val s)).mask = s.spl.img.laneMasks.getD l.val 0xFF ∧
    (flBringUp l.val s).reg = s.reg ∧ (flBringUp l.val s).que = s.que ∧
    (flBringUp l.val s).out = s.out ++ [.fabricTrain l.val (s.spl.img.laneMasks.getD l.val 0xFF)])

/-- HELLO of another chip of the domain, on a plane that is not excluded, records or withdraws the chip's claim to
the root and makes the peer known with its digest and the link; one of another domain is only counted (R92,
R340). HELLO_SEND sends a HELLO to every chip of the plane. ANNOUNCE takes the chip number of the first link
where none is known, excludes a plane that gives another, and otherwise brings the chips of the plane (R340).
SESSION_INIT of a peer that is SEEN or ACTIVE is answered with REPLY, except that of two chips that begin at
once the lower-numbered one stays; REPLY is verified and answered with FINISH, FINISH with DONE, and the session
is then established; a message that does not verify closes the handshake (R342). E2E_RESEND sends the
unacknowledged packets again after 8 ticks (R348), REKEY starts a handshake when the keys are used up (R345),
PEER_LOST_TIMEOUT makes a silent peer LOST (R93), PATH_MOVE takes the new path once nothing is unacknowledged
(R349), and PEER_REMOVAL forgets the peer (R93). -/
def Obligations.HellosAndSessions : Prop :=
  (∀ (l : FL) (dg : BitVec 384) (c : Chip) (dom : BitVec 16) (q : Fin 4) (root : Bool) (pr : Byte) (cl : Bool) (s : State),
    (flUp l.val s = false → exec (.hello l dg c dom q root pr cl) s = .next (errOutputs (settle s))) ∧
    (flUp l.val s = true → dom.toNat ≠ s.spl.img.domainId → exec (.hello l dg c dom q root pr cl) s = .next (errOutputs (settle
      (foreignHello c.val (flReturn l.val 0 1 s))))) ∧
    (foreignHello c.val s).spl.otherDomain = satAdd 32 s.spl.otherDomain 1 ∧
    (∀ d : Nat, d ≠ c.val → mget (foreignHello c.val s).spl.peers d = mget s.spl.peers d) ∧
    ((mget s.spl.peers c.val).all (fun p => p.digest.isSome) = true → (foreignHello c.val s).spl.peers = s.spl.peers) ∧
    (flUp l.val s = true → dom.toNat = s.spl.img.domainId → (flink l.val s).plane ∉ s.spl.planesExcluded → c.val ≠ s.spl.chip →
      exec (.hello l dg c dom q root pr cl) s = .next (errOutputs (settle (helloTake l.val c.val dg.toNat root
        { flReturn l.val 0 1 s with time := { s.time with claims := s.time.claims.filter (fun x => x.chip != c.val) ++
          (if root || cl then [⟨q.val, pr.toNat, c.val⟩] else []) } }))))) ∧
  (∀ (l c dg : Nat) (root : Bool) (p : Peer) (s : State), mget s.spl.peers c = some p → p.st = .active → p.digest = some dg →
    p.linkMask = ofBits (insNat l (bitsOf 32 p.linkMask)) → ∃ x, helloTake l c dg root s = helloAnswer l c x ∧
      mget x.spl.peers c = some { p with rootCapable := root, lastSeen := tick s, silent := 0 } ∧ x.fab = s.fab ∧ x.out = s.out) ∧
  (∀ (l : FL) (s : State),
    (flUp l.val s = true → exec (.helloSend l) s = .next (errOutputs (each (chipsOn l.val s) (fun c t => helloTo l.val c false t) s))) ∧
    (flUp l.val s = false → exec (.helloSend l) s = .next (errOutputs s))) ∧
  (∀ (l : FL) (c : Chip) (pl : BitVec 5) (cs : List Chip) (s : State), flUp l.val s = false →
    exec (.announce l c pl cs) s = .next (errOutputs (settle s))) ∧
  (∀ (l : FL) (c : Chip) (pl : BitVec 5) (cs : List Chip) (s : State), flUp l.val s = true →
    let r := flReturn l.val 0 16 s
    let t := if s.spl.chip = 0xFFFF ∧ (linksUp s).head? = some l.val then { r with spl := { r.spl with chip := c.val } } else r
    let v := { t with fab := { t.fab with announced := mset t.fab.announced l.val (cs.map (·.val)) } }
    let w := each (chipsOn l.val v) (chipThere l.val)
      (each ((chipsOn l.val v).filter fun d => !(chipsOn l.val t).contains d) (fun d x => helloTo l.val d false x) v)
    (t.spl.chip = 0xFFFF → exec (.announce l c pl cs) s = .next (errOutputs (settle v))) ∧
    (t.spl.chip ≠ 0xFFFF → pl.toNat ∈ s.spl.planesExcluded → exec (.announce l c pl cs) s = .next (errOutputs (settle t))) ∧
    (t.spl.chip ≠ 0xFFFF → t.spl.chip ≠ c.val → pl.toNat ∉ s.spl.planesExcluded →
      exec (.announce l c pl cs) s = .next (errOutputs (settle (pathsOn (excludePlane l.val pl.toNat t))))) ∧
    (t.spl.chip = c.val → pl.toNat ∉ s.spl.planesExcluded → exec (.announce l c pl cs) s = .next (errOutputs (settle
      (pathsOn (each ((mkeys w.spl.peers).filter fun d => !(chipsOn l.val v).contains d) (chipGone l.val) w)))))) ∧
  (∀ (l : FL) (c : Chip) (pl : BitVec 5) (cs : List Chip) (s : State), flUp l.val s = true → s.spl.chip ≠ 0xFFFF →
    (s.spl.chip ≠ c.val → pl.toNat ∉ s.spl.planesExcluded → s.spl.peers = [] →
      ∃ x, exec (.announce l c pl cs) s = .next (errOutputs (settle (pathsOn x))) ∧
        (∀ k : Nat, (mget s.fab.links k).any (fun e => e.plane == pl.toNat) = true → mget x.fab.announced k = some []) ∧
        x.spl.planesExcluded = insNat pl.toNat s.spl.planesExcluded ∧ x.spl.chip = s.spl.chip ∧
        mget x.fab.announced l.val = some [] ∧ x.que = s.que) ∧
    (s.spl.chip = c.val → pl.toNat ∉ s.spl.planesExcluded → chipsOn l.val s = cs.map (·.val) → s.spl.peers = [] →
      s.spl.chip ∉ cs.map (·.val) → ∃ x, exec (.announce l c pl cs) s = .next (errOutputs (settle (pathsOn x))) ∧
        mget x.fab.announced l.val = some (cs.map (·.val)) ∧ x.que = s.que ∧ x.spl.chip = s.spl.chip ∧
        (∀ d : Chip, d ∈ cs → d.val ∉ s.spl.foreign → ∃ p, mget x.spl.peers d.val = some p ∧ p.st = .seen ∧ p.linkMask = 2 ^ l.val ∧ p.digest = none))) ∧
  (∀ (l : FL) (c : Chip) (s : State), flUp l.val s = true → sessionsOpen s = true → peerSt c.val s = .seen ∨ peerSt c.val s = .active →
    ((fpeer c.val s).sess ≠ .initSent ∨ c.val ≤ s.spl.chip → exec (.sessionInit l c) s = .next (errOutputs (settle
      (sessSend c.val (.session c.val 2) 60 (modFpeer c.val (fun p => { p with sess := .replySent }) (flReturn l.val 1 4 s)))))) ∧
    ((fpeer c.val s).sess = .initSent → s.spl.chip < c.val →
      exec (.sessionInit l c) s = .next (errOutputs (settle (flReturn l.val 1 4 s)))) ∧
    (∀ (dg : BitVec 384) (ok : Bool), (fpeer c.val s).sess = .initSent →
      exec (.sessionReply l c dg ok) s = .next (errOutputs (settle (if ok = true ∧ (mgetD s.spl.peers c.val {}).digest = some dg.toNat
        then sessSend c.val (.session c.val 3) 60 (modFpeer c.val (fun p => { p with sess := .finishSent }) (flReturn l.val 1 60 s))
        else sessFail c.val (flReturn l.val 1 60 s))))) ∧
    (∀ (dg : BitVec 384) (ok : Bool), (fpeer c.val s).sess = .replySent →
      exec (.sessionFinish l c dg ok) s = .next (errOutputs (settle (if ok = true ∧ (mgetD s.spl.peers c.val {}).digest = some dg.toNat
        then sessUp c.val (sessSend c.val (.session c.val 4) 1 (flReturn l.val 1 60 s)) else sessFail c.val (flReturn l.val 1 60 s))))) ∧
    ((fpeer c.val s).sess = .finishSent →
      exec (.sessionDone l c) s = .next (errOutputs (settle (sessUp c.val (flReturn l.val 1 1 s))))) ∧
    ((fpeer c.val s).sess = .established →
      exec (.sessionDone l c) s = .next (errOutputs (settle (flReturn l.val 1 1 s))))) ∧
  (∀ (c : Chip) (s : State),
    ((fpeer c.val s).live = true → (fpeer c.val (sessUp c.val s)).sess = .established ∧ (fpeer c.val (sessUp c.val s)).flip = true ∧
      (sessUp c.val s).spl = s.spl) ∧
    ((fpeer c.val s).live = false →
      let old := mgetD s.spl.peers c.val {}
      let t := { s with
        free := s.free + 1
        fab := { s.fab with opened := s.fab.opened + (if s.spl.ended.contains 6 then 0 else 1),
                            peers := mset s.fab.peers c.val { sess := .established, live := true, secret := Config.keyMaterial s.free } }
        spl := { s.spl with peers := mmod s.spl.peers c.val (fun p => { p with st := .active, wasLost := false, silent := 0 }) } }
      let u := if old.wasLost then
          auditO .peer 0 0 noEnv false ([BitVec.ofNat 64 c.val, 0] ++ digestWords (old.digest.getD 0)) t else t
      sessUp c.val s = (match pathFor c.val u with
        | some k => takePath c.val k u
        | none => u)) ∧
    (∀ k : Nat, (fpeer c.val s).path = some k → (fpeer c.val s).unacked ≠ [] → 8 ≤ (fpeer c.val s).wait →
      exec (.e2eResend c) s = .next (errOutputs (settle (setEvent rFLK_EVENT 4 (resendAll c.val k s))))) ∧
    ((fpeer c.val s).path = none ∨ (fpeer c.val s).unacked = [] ∨ (fpeer c.val s).wait < 8 → exec (.e2eResend c) s = .next (errOutputs (settle s))) ∧
    (peerSt c.val s = .active → (fpeer c.val s).live = true → (fpeer c.val s).sess = .established →
      (∃ e ∈ (fpeer c.val s).ctr ++ (fpeer c.val s).rctr, 2 ^ 40 ≤ e.2) ∨ regFld rFLK_CTRL 32 32 s ≤ (fpeer c.val s).rekeyTicks →
      exec (.rekey c) s = .next (errOutputs (settle (startSession c.val s)))) ∧
    ((∀ e ∈ (fpeer c.val s).ctr ++ (fpeer c.val s).rctr, e.2 < 2 ^ 40) → (fpeer c.val s).rekeyTicks < regFld rFLK_CTRL 32 32 s →
      exec (.rekey c) s = .next (errOutputs (settle s))) ∧
    (s.spl.img.peerLostTicks ≤ (mgetD s.spl.peers c.val {}).silent →
      exec (.peerLostTimeout c) s = .next (errOutputs (settle (peerLost c.val s)))) ∧
    ((mgetD s.spl.peers c.val {}).silent < s.spl.img.peerLostTicks →
      exec (.peerLostTimeout c) s = .next (errOutputs (settle s))) ∧
    (∀ p : Peer, mget s.spl.peers c.val = some p → p.st = .seen → frozen s = false →
      peerLost c.val s = { s with
        time := { s.time with claims := s.time.claims.filter (fun x => x.chip != c.val) }
        spl := { s.spl with peers := mmod s.spl.peers c.val (fun p => { p with st := .lost, wasLost := true }) } }) ∧
    (∀ k : Nat, (fpeer c.val s).moveTo = some k → (fpeer c.val s).unacked = [] →
      exec (.pathMove c) s = .next (errOutputs (settle (takePath c.val k s)))) ∧
    ((fpeer c.val s).moveTo = none ∨ (fpeer c.val s).unacked ≠ [] → exec (.pathMove c) s = .next (errOutputs (settle s))) ∧
    (
      let t := if peerSt c.val s = .active then peerDrop c.val s else s
      exec (.peerRemoval c) s = .next (errOutputs (settle { t with
        spl := { t.spl with peers := mdel t.spl.peers c.val }
        time := { t.time with claims := t.time.claims.filter fun x => x.chip != c.val } }))))

/-- A write of ENV_ACTION whose operation is the row's starts that action while none runs, if its audit record finds
room (R357, R358, R414): CREATE, REMOVE, UPDATE, CORE_BIND, PEER_SET, PEER_CLEAR, MEM_MOVE, MEM_SWITCH,
MEM_RELEASE, MEM_LEN, PAUSE, RESUME, DIRTY_START and DIRTY_STOP. An action whose effect tick lies 4 ticks or
more ahead, whose template has been read, where it has one, and which its checks allow, is pending for that tick
after its audit record; one whose tick is too near is refused with INVALID, an operation that the table does not
list with INVALID_OP, and one that its checks forbid with their status; a refusal only sets the status and the
event and is audited. In the edge of its tick the pending actions take effect in order and the epoch moves on
(R357). REMOVE, CORE_BIND, peer entries, moves, PAUSE and dirty logging then do what Table 15-3 says of them:
shown here are PEER_SET, PEER_CLEAR, MEM_MOVE, MEM_SWITCH, MEM_RELEASE, PAUSE, DIRTY_START and DIRTY_STOP in
full (R365, R366, R368, R373, R374). -/
def Obligations.EnvelopeActions : Prop :=
  (∀ (p : HP) (v : W64) (s : State),
    let t : State := { s with reg := { s.reg with last := mset s.reg.last rENV_ACTION v } }
    ∀ e ∈ [(0, Instr.create p (.full v) ()), (1, .remove p (.full v)), (2, .update p (.full v) ()), (3, .coreBind p (.full v)),
      (4, .peerSet p (.full v)), (5, .peerClear p (.full v)), (6, .memMove p (.full v)), (7, .memSwitch p (.full v)),
      (8, .memRelease p (.full v)), (9, .memLen p (.full v)), (10, .pause p (.full v)), (11, .resume p (.full v)),
      (12, .dirtyStart p (.full v)), (13, .dirtyStop p (.full v))],
    (mgrOpen p.val rENV_ACTION s = false → exec e.2 s = .next (errOutputs (settle s))) ∧
    (mgrOpen p.val rENV_ACTION s = true → s.env.busy = true ∨ (fld v 0 5 ≠ e.1 ∧ fld v 0 5 < 14) →
      exec e.2 s = .next (errOutputs (settle t)))) ∧
  (∀ (p : HP) (v : W64) (s : State), mgrOpen p.val rENV_ACTION s = true → s.env.busy = false →
    let t : State := { s with reg := { s.reg with last := mset s.reg.last rENV_ACTION v } }
    let u : State := setRaw rENV_ACTION (v &&& 0xFFFFFFFF0000FF1F) t
    let w : State := { u with env := { u.env with busy := true } }
    (fld v 0 5 = 0 → exec (.create p (.full v) ()) s = .next (errOutputs (settle (classC (.create p (.full v) ()) (actStart p v) w)))) ∧
    (fld v 0 5 = 1 → exec (.remove p (.full v)) s = .next (errOutputs (settle (classC (.remove p (.full v)) (actStart p v) w)))) ∧
    (fld v 0 5 = 2 → exec (.update p (.full v) ()) s = .next (errOutputs (settle (classC (.update p (.full v) ()) (actStart p v) w)))) ∧
    (fld v 0 5 = 3 → exec (.coreBind p (.full v)) s = .next (errOutputs (settle (classC (.coreBind p (.full v)) (actStart p v) w)))) ∧
    (fld v 0 5 = 4 → exec (.peerSet p (.full v)) s = .next (errOutputs (settle (classC (.peerSet p (.full v)) (actStart p v) w)))) ∧
    (fld v 0 5 = 5 → exec (.peerClear p (.full v)) s = .next (errOutputs (settle (classC (.peerClear p (.full v)) (actStart p v) w)))) ∧
    (fld v 0 5 = 6 → exec (.memMove p (.full v)) s = .next (errOutputs (settle (classC (.memMove p (.full v)) (actStart p v) w)))) ∧
    (fld v 0 5 = 7 → exec (.memSwitch p (.full v)) s = .next (errOutputs (settle (classC (.memSwitch p (.full v)) (actStart p v) w)))) ∧
    (fld v 0 5 = 8 → exec (.memRelease p (.full v)) s = .next (errOutputs (settle (classC (.memRelease p (.full v)) (actStart p v) w)))) ∧
    (fld v 0 5 = 9 → exec (.memLen p (.full v)) s = .next (errOutputs (settle (classC (.memLen p (.full v)) (actStart p v) w)))) ∧
    (fld v 0 5 = 10 → exec (.pause p (.full v)) s = .next (errOutputs (settle (classC (.pause p (.full v)) (actStart p v) w)))) ∧
    (fld v 0 5 = 11 → exec (.resume p (.full v)) s = .next (errOutputs (settle (classC (.resume p (.full v)) (actStart p v) w)))) ∧
    (fld v 0 5 = 12 → exec (.dirtyStart p (.full v)) s = .next (errOutputs (settle (classC (.dirtyStart p (.full v)) (actStart p v) w)))) ∧
    (fld v 0 5 = 13 → exec (.dirtyStop p (.full v)) s = .next (errOutputs (settle (classC (.dirtyStop p (.full v)) (actStart p v) w))))) ∧
  (∀ (i : Instr) (f : State → State) (s : State), mayClassC s = true → classC i f s = f s) ∧
  (∀ (p : HP) (v : W64) (s : State),
    let ahead := dist32 (fld v 32 32) (tick s)
    let t : State := { s with env := { s.env with busy := true } }
    (fld v 0 5 < 14 → ahead < 4 ∨ 2 ^ 31 ≤ ahead → actStart p v s = actRefuse v .invalid t) ∧
    (14 ≤ fld v 0 5 → actStart p v s = actRefuse v .invalidOp t) ∧
    (4 ≤ ahead → ahead < 2 ^ 31 → fld v 0 5 = 0 → fld (regRaw rENV_ARG0 s) 0 6 ≠ 0 → actStart p v s = actRefuse v .invalid t) ∧
    (4 ≤ ahead → ahead < 2 ^ 31 → (fld v 0 5 = 0 ∧ fld (regRaw rENV_ARG0 s) 0 6 = 0) ∨ fld v 0 5 = 2 →
      actStart p v s = tmplIssue { t with env := { t.env with tmpl := some { act := v, port := p, effect := tick s + ahead } } }) ∧
    (4 ≤ ahead → ahead < 2 ^ 31 → fld v 0 5 < 14 → fld v 0 5 ≠ 0 → fld v 0 5 ≠ 2 →
      actStart p v s = actDecide v (tick s + ahead) [] t)) ∧
  (∀ (d : TmplRead) (s : State), let t : State := { s with env := { s.env with tmpl := none } }
    (d.bad = true → tmplDone d s = actRefuse d.act .poison t) ∧
    (d.bad = false → mayClassC s = true → tmplDone d s = actDecide d.act d.effect (cellsGet d.data 0 256) t)) ∧
  (∀ (v : W64) (n : Nat) (tm : List Byte) (a : EnvAct) (s : State), actOf v tm s = some a →
    (n ≤ tick s → actDecide v n tm s = actRefuse v .invalid s) ∧
    (tick s < n → s.env.pending ≠ [] → s.env.effect ≠ n → actDecide v n tm s = actRefuse v .busy s) ∧
    (tick s < n → s.env.pending = [] ∨ s.env.effect = n →
      (∀ st : Status, actCheck (fld v 8 8) a s = some st → actDecide v n tm s = actRefuse v st s) ∧
      (actCheck (fld v 8 8) a s = none →
        let t := signC .envAction (fld v 8 8) ([BitVec.ofNat 64 (fld v 0 5), BitVec.ofNat 64 (fld v 8 8), BitVec.ofNat 64 n,
          regRaw rENV_ARG0 s, regRaw rENV_ARG1 s] ++ tmplWords a) s
        actDecide v n tm s = { t with env := { t.env with
          pending := t.env.pending ++ [(fld v 8 8, a)], effect := n, status := .ok } }))) ∧
  (∀ (v : W64) (st : Status) (s : State), actRefuse v st s =
    auditO .policyRefused 1 0 (fld v 8 8) true [v, BitVec.ofNat 64 (statusCode st)]
      (setEvent rENV_EVENT 3 { s with env := { s.env with busy := false, status := st } })) ∧
  (∀ s : State, (s.env.pending = [] ∨ tick s < s.env.effect → epochEdge s = s) ∧
    (s.env.pending ≠ [] → s.env.effect ≤ tick s →
      let n := (s.env.epoch + 1) % 2 ^ 32
      epochEdge s = each s.env.pending (fun a t => actEff a.1 a.2 t)
        (traceRec ⟨s.time.now, 0, 0, 0x0E, 0, 0xFFF, 0xFF, 10, BitVec.ofNat 64 n⟩
          { s with env := { s.env with pending := [], busy := false, epoch := n } }))) ∧
  (∀ (e : Nat) (v : Env) (s : State), mget s.env.envs e = some v →
    (∀ (c : Nat) (m : PeerMap), actEff e (.peerSet c m) s = setEvent (fnKey v.vf fENV_EVENT) 0 (peerFilter e c { s with
      env := { s.env with envs := mmod s.env.envs e (fun v => { v with peers := mset v.peers c m }) } })) ∧
    (∀ c : Nat, actEff e (.peerClear c) s = setEvent (fnKey v.vf fENV_EVENT) 0 (peerFilter e c { s with
      env := { s.env with envs := mmod s.env.envs e (fun v => { v with peers := mdel v.peers c }) } })) ∧
    (∀ b n : Nat, actEff e (.memMove b n) s =
      let t := startJob (moveJob e) s
      { t with env := { t.env with
        envs := mmod t.env.envs e (fun v => { v with move := .copying, newBase := b, movers := n, rewritten := false }) } }) ∧
    (actEff e .memSwitch s = envDone e 2 { s with env := { s.env with
      envs := mmod s.env.envs e (fun x => { x with move := .switched, lbase := v.newBase, newBase := v.lbase }) } }) ∧
    (actEff e .memRelease s = memReleaseEff e v s) ∧
    (v.st ≠ .ready → actEff e .pause s = s) ∧
    (v.st ≠ .paused → v.st ≠ .pausing → actEff e .resume s = s) ∧
    (v.st = .ready → actEff e .pause s = { s with env := { s.env with
      envs := mmod s.env.envs e (fun v => { v with st := .pausing, pauseNeed := none }) } }) ∧
    (v.st = .paused ∨ v.st = .pausing → v.rillDue = [] → actEff e .resume s = kickWaiting { s with env := { s.env with
      envs := mmod s.env.envs e (fun v => { v with st := .ready, pauseNeed := none, rillDue := [] }) } }) ∧
    (∀ (r k : Nat) (d h : Bool), actEff e (.dirtyStart r k d h) s = { s with env := { s.env with
      hostPages := s.env.hostPages.filter (fun x => !(x.1 == e))
      envs := mmod s.env.envs e (fun v => { v with dirty := some { ring := r, k := k, device := d, host := h } }) } }) ∧
    (actEff e .dirtyStop s = kickWaiting { s with env := { s.env with
      envs := mmod s.env.envs e (fun v => { v with dirty := none }) } }))

/-- CREATE_SCRUB_DONE of a CREATING envelope whose key is loaded makes it READY over a range that reads zero, and
gives its function to it (R359). REMOVAL_END of a removing envelope whose keys, cores and contexts are gone
makes it FREE (R371); before that, both do nothing. MOVE_COPIED makes the new range a copy of the old one and
the pair MIRRORED (R365); REWRITE_DONE sets REWRITTEN once the page tables name the new range (R366).
DIRTY_HEAD_WRITE consumes the records up to the new HEAD (R375). ZEROISE_ALL is refused while an envelope exists
or a sluice stop is announced or held, and otherwise begins the zeroisation, in which every context ends (R370). -/
def Obligations.CourseOfEnvelopes : Prop :=
  ∀ s : State,
  (∀ e : EnvIx, mget s.env.envs e.val = none →
    exec (.createScrubDone e) s = .next (errOutputs (settle (phase7End s))) ∧
    exec (.removalEnd e) s = .next (errOutputs (settle s)) ∧ exec (.moveCopied e) s = .next (errOutputs (settle s)) ∧
    exec (.rewriteDone e) s = .next (errOutputs (settle s))) ∧
  (∀ (e : EnvIx) (v : Env), mget s.env.envs e.val = some v →
    (v.st ≠ .creating ∨ keyLeft ⟨0, e.val + 1, some e.val, []⟩ s = true →
      exec (.createScrubDone e) s = .next (errOutputs (settle (phase7End s)))) ∧
    (v.st = .creating → keyLeft ⟨0, e.val + 1, some e.val, []⟩ s = false →
      ∃ x, exec (.createScrubDone e) s = .next (errOutputs (settle (phase7End (kickWaiting (fnChanged v.vf
          (envDone e.val 0 (setEvent rENV_EVENT 0 x))))))) ∧
        (func v.vf x).env = some e.val ∧ (func v.vf x).vectors = v.vectors ∧
        x.env.envs = mmod s.env.envs e.val (fun v => { v with
          st := .ready, scrubbed := v.llen * gib, blocks := cutBlocks 4096 0 (v.llen * gib) }) ∧
        x.rsvr = (rawClear (v.lbase * gib) (v.llen * gib) s).rsvr ∧ x.que = (dropJob (scrubJob e.val) s).que ∧ x.reg = s.reg)) ∧
  (∀ (e : EnvIx) (v : Env), mget s.env.envs e.val = some v →
    (v.st ≠ .removing ∨ v.removeTicks < 2 ∨ keyLeft (zeroSlot (e.val + 1) (some e.val)) s = true ∨ v.coresOut ≠ [] ∨
      ctxsOfEnv e.val s ≠ [] → exec (.removalEnd e) s = .next (errOutputs (settle s))) ∧
    (v.st = .removing → 2 ≤ v.removeTicks → keyLeft (zeroSlot (e.val + 1) (some e.val)) s = false → v.coresOut = [] →
      ctxsOfEnv e.val s = [] →
      ∃ x y, exec (.removalEnd e) s = .next (errOutputs (settle (kickWaiting (fnChanged v.vf (setEvent rENV_EVENT 1 y))))) ∧
        y = { envDone e.val 1 x with env := { (envDone e.val 1 x).env with envs := mdel (envDone e.val 1 x).env.envs e.val } } ∧
        x.env = s.env ∧ (func v.vf x).env = none ∧ (func v.vf x).vectors = 1 ∧ x.reg = s.reg ∧ x.que.ctxs = s.que.ctxs ∧
        (mwf s.que.objs = true → ∀ o ∈ x.que.objs, o.2.env ≠ e.val) ∧
        x.rsvr = (rawClear (v.lbase * gib) (v.llen * gib) s).rsvr)) ∧
  (∀ (e : EnvIx) (v : Env), mget s.env.envs e.val = some v →
    (v.move ≠ .copying → exec (.moveCopied e) s = .next (errOutputs (settle s))) ∧
    (v.move = .copying → ∃ x, exec (.moveCopied e) s = .next (errOutputs (settle (setEvent rENV_EVENT 2 x))) ∧
      x.env.envs = mmod s.env.envs e.val (fun v => { v with move := .mirrored }) ∧
      x.que = (dropJob (moveJob e.val) s).que ∧ x.reg = s.reg ∧ x.out = s.out ∧
      (mwf s.rsvr.mem = true → v.newBase + v.llen ≤ v.lbase ∨ v.lbase + v.llen ≤ v.newBase →
        (∀ a : Nat, a < v.llen * gib → mget x.rsvr.mem (v.newBase * gib + a) = mget s.rsvr.mem (v.lbase * gib + a)) ∧
        (∀ a : Nat, a < v.newBase * gib ∨ (v.newBase + v.llen) * gib ≤ a → mget x.rsvr.mem a = mget s.rsvr.mem a))) ∧
    (v.move ≠ .switched ∨ v.rewritten = true → exec (.rewriteDone e) s = .next (errOutputs (settle s))) ∧
    (v.move = .switched → v.rewritten = false →
      let t := each (s.que.objs.filter fun o => o.2.isPt && o.2.env == e.val) (fun o t =>
        rewriteObj (v.newBase * gib) (v.llen * gib) (v.lbase * gib) (objRange o.2 t).1 o.2.ptNext t) s
      exec (.rewriteDone e) s = .next (errOutputs (settle { t with
        env := { t.env with envs := mmod t.env.envs e.val (fun v => { v with rewritten := true }) } })))) ∧
  (∀ (p : HP) (v : W32), mgrOpen p.val rENV_DIRTY_HEAD s = false ∨ dirtyOf (fld (selGet p.val rENV_SEL s) 0 8) s = none →
    exec (.dirtyHeadWrite p v) s = .next (errOutputs (settle s))) ∧
  (∀ (p : HP) (v : W32) (e : Nat) (d : Dirty), mgrOpen p.val rENV_DIRTY_HEAD s = true → fld (selGet p.val rENV_SEL s) 0 8 = e →
    dirtyOf e s = some d →
    (d.recs.length < dist32 v.toNat d.head → exec (.dirtyHeadWrite p v) s = .next (errOutputs (settle s))) ∧
    (dist32 v.toNat d.head ≤ d.recs.length → exec (.dirtyHeadWrite p v) s = .next (errOutputs (settle (kickWaiting
      (dirtyPend e (2 ^ d.k) (modDirty e (fun d => { d with
        head := v.toNat, cleared := v.toNat, recs := d.recs.drop (dist32 v.toNat d.head)
        logged := d.logged.filter fun p =>
          !(((d.recs.take (dist32 v.toNat d.head)).filter fun r => !r.1).map (·.2)).contains p })
        { s with env := { s.env with hostPages := s.env.hostPages.filter fun x => !(x.1 == e
          && (((d.recs.take (dist32 v.toNat d.head)).filter (·.1)).map (·.2)).contains x.2) } }))))))) ∧
  (∀ (p : HP) (v : W32), mgrOpen p.val rKEY_CTRL s = false ∨ v.getLsbD 0 = false →
    exec (.zeroiseAll p v) s = .next (errOutputs (settle s))) ∧
  (∀ (p : HP) (v : W32), mgrOpen p.val rKEY_CTRL s = true → v.getLsbD 0 = true →
    (s.env.envs ≠ [] ∨ s.sluice.st ≠ .idle →
      exec (.zeroiseAll p v) s = .next (errOutputs (settle { s with env := { s.env with zeroRefused := true } }))) ∧
    (s.env.envs = [] → s.sluice.st = .idle → s.env.zeroising = true →
      exec (.zeroiseAll p v) s = .next (errOutputs (settle s))) ∧
    (s.env.envs = [] → s.sluice.st = .idle → s.env.zeroising = false →
      let t := each (mkeys s.que.ctxs) (fun c t => destroyCtx c none t)
        { s with env := { s.env with zeroRefused := false, zeroising := true } }
      let u := each ((t.que.queues.filter fun q => q.2.ctx.isNone).map (·.1)) dropQueue t
      exec (.zeroiseAll p v) s = .next (errOutputs (settle (auditO .keyEvent 1 0 noEnv false
        [0, 4, BitVec.ofNat 64 (keyPorts u).length] { u with que := { u.que with reqs := [] } })))))

/-- ERROR_INPUT of a listed source is raised for the next edge with its cause, target and detail, unless the chip
recovers (R378, R381). QUIET_PERIOD of a region in the fault state that has been quiet for its Q ticks, with no
level-4 fault, clears its status word and counts the recovery; a shorter quiet does nothing (R385). UNIT_TEST,
UNIT_RETIRE, UNIT_RETURN and UNIT_SUBSTITUTE of the manager do what R392 says of them, if their audit record
finds room: one operation runs at a time, a unit in service is tested, a unit out of service is tested for its
return, and an operation that the unit's state does not allow is refused (R390, R392). UNIT_TEST_DONE brings a
unit that passes back into service and leaves one that fails out of it (R392). WATCHDOG_TIMEOUT puts a mooring
core out of service and raises its fault (R391). -/
def Obligations.FaultsAndUnits : Prop :=
  ∀ s : State,
  (∀ (src : Fin 1024) (c : Cause) (x : Option (Fin 4096)) (e : Option EnvIx) (d : BitVec 20),
    (sourceListed src.val = true → c ≠ .forced → s.spl.recovery = false → exec (.errorInput src c x e d) s =
      .next (errOutputs { s with weir := { s.weir with
        raised := s.weir.raised ++ [⟨src.val, c, x.map (·.val), e.map (·.val), d.toNat⟩] } })) ∧
    (sourceListed src.val = false ∨ c = .forced ∨ s.spl.recovery = true →
      exec (.errorInput src c x e d) s = .next (errOutputs s))) ∧
  (∀ n : Fin 12, (regRaw (rWEIR_STATUS + 8 * n.val) s).toNat % 2 ^ 17 ≠ 0 → (region n.val s).maxLevel < 4 →
    (quietTicks n.val s ≤ (region n.val s).quiet → ∃ x, exec (.quietPeriod n) s = .next (errOutputs (setEvent rWEIR_EVENT 3 x)) ∧
      regRaw (rWEIR_STATUS + 8 * n.val) x = 0 ∧ x.weir.recoveries = satAdd 32 s.weir.recoveries 1 ∧
      (region n.val x).maxLevel = 0 ∧ (region n.val x).first = none ∧ x.que = s.que ∧ x.env = s.env ∧ x.out = s.out) ∧
    ((region n.val s).quiet < quietTicks n.val s → exec (.quietPeriod n) s = .next (errOutputs s))) ∧
  (∀ n : Fin 12, (regRaw (rWEIR_STATUS + 8 * n.val) s).toNat % 2 ^ 17 = 0 ∨ 4 ≤ (region n.val s).maxLevel →
    exec (.quietPeriod n) s = .next (errOutputs s)) ∧
  (∀ (p : HP) (u : UnitSel), mgrOpen p.val rWEIR_UNIT_CTL s = true → mayClassC s = true →
    exec (.unitTest p u) s = .next (errOutputs (settle (unitOpDo .test u s))) ∧
    exec (.unitRetire p u) s = .next (errOutputs (settle (unitOpDo .retire u s))) ∧
    exec (.unitReturn p u) s = .next (errOutputs (settle (unitOpDo .ret u s))) ∧
    exec (.unitSubstitute p u) s = .next (errOutputs (settle (unitOpDo .substitute u s)))) ∧
  (∀ (p : HP) (u : UnitSel), mgrOpen p.val rWEIR_UNIT_CTL s = false →
    exec (.unitTest p u) s = .next (errOutputs (settle s)) ∧ exec (.unitRetire p u) s = .next (errOutputs (settle s)) ∧
    exec (.unitReturn p u) s = .next (errOutputs (settle s)) ∧ exec (.unitSubstitute p u) s = .next (errOutputs (settle s))) ∧
  (∀ (u : UnitSel),
    let k := u.kind.val
    let i := u.inst.val
    let spare := (unitCounts k).2
    let t : Nat → State := fun n =>
      setRaw rWEIR_UNIT_CTL (unitWord u n &&& 0xFFF) (signWrite rWEIR_UNIT_CTL (unitWord u n) s)
    let go : Nat → State := fun n => { t n with weir := { (t n).weir with unitResult := 0 } }
    (s.weir.unitBusy.isSome = true → unitOpDo .test u s = t 0 ∧ unitOpDo .retire u s = t 1 ∧ unitOpDo .ret u s = t 2 ∧
      unitOpDo .substitute u s = t 3) ∧
    (s.weir.unitBusy = none → (unitCounts k).1 + spare ≤ i → unitOpDo .test u s = unitRefuse (t 0) ∧
      unitOpDo .retire u s = unitRefuse (t 1) ∧ unitOpDo .ret u s = unitRefuse (t 2) ∧
      unitOpDo .substitute u s = unitRefuse (t 3)) ∧
    (s.weir.unitBusy = none → i < (unitCounts k).1 + spare →
      (mget s.weir.units (unitKey k i) = none →
        unitOpDo .test u s = unitTest .test k i (go 0) ∧ unitOpDo .ret u s = unitRefuse (t 2) ∧
        unitOpDo .substitute u s = unitRefuse (t 3) ∧
        (k = 5 → (∃ m : MP, (mport m.val s).st = .failing) → unitOpDo .retire u s = unitRefuse (t 1)) ∧
        (spare ≠ 0 → s.spl.img.ballastPolicy < 2 → i < (unitCounts k).1 → spareOf k s = none →
          unitOpDo .retire u s = unitRefuse (t 1)) ∧
        (¬ (k = 5 ∧ ∃ m : MP, (mport m.val s).st = .failing) →
          ¬ (spare ≠ 0 ∧ s.spl.img.ballastPolicy < 2 ∧ i < (unitCounts k).1 ∧ spareOf k s = none) →
          let x := unitOut k i (unitLeave k i (go 1))
          unitOpDo .retire u s =
            if k = 5 then failPort i x else if k = 6 then flStop i x else if k = 7 then laneGroupOut i x else x)) ∧
      (∀ st : UnitSt, mget s.weir.units (unitKey k i) = some st →
        unitOpDo .test u s = unitRefuse (t 0) ∧ unitOpDo .retire u s = unitRefuse (t 1) ∧
        (st = .outOfService ∨ st = .replaced ∨ st = .waitingSubst → unitOpDo .ret u s = unitTest .ret k i (go 2)) ∧
        (st = .leaving ∨ st = .testing → unitOpDo .ret u s = unitRefuse (t 2)) ∧
        (∀ b : Nat, spareOf k s = some b → st = .waitingSubst →
          unitOpDo .substitute u s = setUnit (unitKey k i) .replaced (substitute k i b (go 3))) ∧
        (spareOf k s = none ∨ st ≠ .waitingSubst → unitOpDo .substitute u s = unitRefuse (t 3))))) ∧
  (∀ (k i : Nat) (o : UnitOp), s.weir.unitBusy = some (k, i, o) →
    (k = 5 → ∀ b : Bool, exec (.unitTestDone b) s = .next (errOutputs (settle s))) ∧
    (k ≠ 5 → exec (.unitTestDone true) s = .next (errOutputs (settle (unitBack k i
      { s with weir := { s.weir with unitBusy := none, unitResult := 1 } })))) ∧
    (k ≠ 5 → ∃ x y, (k < 5 ∧ s.spl.recovery = false → ∃ src : Nat,
        x = { s with weir := { s.weir with raised := s.weir.raised ++ [⟨src, .bistFail, none, none, 0⟩] } }) ∧
      (5 ≤ k ∨ s.spl.recovery = true → x = s) ∧
      y = setEvent rWEIR_EVENT 1 (unitOut k i { x with weir := { x.weir with unitBusy := none, unitResult := 2 } }) ∧
      exec (.unitTestDone false) s = .next (errOutputs (settle (if k = 6 then flStop i y else y))))) ∧
  (s.weir.unitBusy = none → ∀ b : Bool, exec (.unitTestDone b) s = .next (errOutputs (settle s))) ∧
  (∀ c : Fin 17,
    (s.spl.recovery = false → mget s.weir.units (unitKey 4 c.val) = none →
      exec (.watchdogTimeout c) s = .next (errOutputs (settle (unitOut 4 c.val (unitLeave 4 c.val { s with weir := { s.weir with
        raised := s.weir.raised ++ [⟨420 + c.val, .unitCheck, none, none, 0⟩] } }))))) ∧
    (s.spl.recovery = true ∨ (mget s.weir.units (unitKey 4 c.val)).isSome = true →
      exec (.watchdogTimeout c) s = .next (errOutputs (settle s))))

/-- SLUICE_ANNOUNCE with T at least 8 ticks ahead, while no stop is announced, announces a stop of this chip, or of
the domain, in which case every ACTIVE peer is asked; otherwise it is refused with SLUICE_REFUSED (R394). A
SLUICE message makes a chip that is idle take part and is acknowledged; SLUICE_ACK records who takes part;
SLUICE_MARK records the cut of the sender (R394, R396). SLUICE_CAPTURE_END writes the snapshot once the pairs
are done (R398). SLUICE_RESUME with R at least 8 ticks ahead makes a held stop resume and tells the peers;
RESUME_NOTICE of the origin does so on the others (R399). SLUICE_RESUME_EDGE ends the stop at R, and does
nothing before. -/
def Obligations.SluiceStops : Prop :=
  ∀ s : State,
  (∀ (p : HP) (d : Bool),
    (mgrOpen p.val rWEIR_SLUICE_CTL s = false → exec (.sluiceAnnounce p d) s = .next (errOutputs (settle s)) ∧
      exec (.sluiceResume p) s = .next (errOutputs (settle s))) ∧
    (mgrOpen p.val rWEIR_SLUICE_CTL s = true → mayClassC s = true →
      exec (.sluiceAnnounce p d) s = .next (errOutputs (settle (announceDo d s))) ∧
      exec (.sluiceResume p) s = .next (errOutputs (settle (resumeDo s)))) ∧
    (mgrOpen p.val rWEIR_SLUICE_CTL s = true → mayClassC s = false →
      exec (.sluiceAnnounce p d) s = .next (errOutputs (settle (classC (.sluiceAnnounce p d) id s))) ∧
      exec (.sluiceResume p) s = .next (errOutputs (settle (classC (.sluiceResume p) id s))))) ∧
  (∀ d : Bool, let T := (regRaw rWEIR_SLUICE_TICK s).toNat
    (T < tick s + 8 ∨ s.sluice.st ≠ .idle → announceDo d s = setEvent rWEIR_EVENT 6 s) ∧
    (tick s + 8 ≤ T → s.sluice.st = .idle →
      let ask := if d then activePeers s else []
      announceDo d s = each ask (fun c t => sluiceSend 0 c T s.spl.chip 0 0 t)
        { signC .sluice noEnv [BitVec.ofNat 64 T, BitVec.ofNat 64 (b2n d)] s with sluice :=
          { st := .announced, origin := d, originChip := s.spl.chip, domain := d, tickT := T, waiting := ask } }) ∧
    (s.sluice.st ≠ .held ∨ T < tick s + 8 ∨ (s.sluice.domain = true ∧ s.sluice.origin = false) ∨ s.weir.fatal = true →
      resumeDo s = s) ∧
    (s.sluice.st = .held → tick s + 8 ≤ T → s.sluice.domain = false ∨ s.sluice.origin = true → s.weir.fatal = false →
      resumeDo s = each s.sluice.takingPart (fun c t => if s.sluice.domain then sluiceSend 3 c T 0 0 0 t else t)
        { signC .sluice noEnv [BitVec.ofNat 64 T, BitVec.ofNat 64 (b2n s.sluice.domain)] s with
          sluice := { s.sluice with st := .resumePending, tickR := T } })) ∧
  (∀ (l : FL) (c : Chip) (T : W64) (o : Chip) (a b d : BitVec 20), flUp l.val s = false →
    exec (.sluice l c T o) s = .next (errOutputs (settle s)) ∧ exec (.sluiceAck l c T) s = .next (errOutputs (settle s)) ∧
    exec (.sluiceMark l c T a b d) s = .next (errOutputs (settle s)) ∧
    exec (.resumeNotice l c T) s = .next (errOutputs (settle s))) ∧
  (∀ (l : FL) (c : Chip), flUp l.val s = true → peerSt c.val s = .active →
    let t : State := flReturn l.val 1 1 s
    (∀ (T : W64) (o : Chip), s.sluice.st = .idle → tick s + 2 ≤ T.toNat → exec (.sluice l c T o) s = .next (errOutputs (settle
      (sluiceSend 1 c.val T.toNat 0 0 0 { t with sluice := { st := .announced, originChip := o.val, domain := true,
                                                               tickT := T.toNat, takingPart := activePeers t } })))) ∧
    (∀ (T : W64) (o : Chip), s.sluice.st = .announced → s.sluice.domain = true → s.sluice.tickT = T.toNat →
      s.sluice.originChip = o.val → exec (.sluice l c T o) s = .next (errOutputs (settle (sluiceSend 1 c.val T.toNat 0 0 0 t)))) ∧
    (∀ (T : W64) (o : Chip), s.sluice.st = .idle → T.toNat < tick s + 2 → exec (.sluice l c T o) s = .next (errOutputs (settle t))) ∧
    (∀ T : W64, s.sluice.origin = true → s.sluice.tickT = T.toNat → c.val ∈ s.sluice.waiting →
      exec (.sluiceAck l c T) s = .next (errOutputs (settle { t with sluice := { s.sluice with
        waiting := s.sluice.waiting.filter (· != c.val), takingPart := insNat c.val s.sluice.takingPart } }))) ∧
    (∀ T : W64, s.sluice.origin = false ∨ s.sluice.tickT ≠ T.toNat ∨ c.val ∉ s.sluice.waiting → exec (.sluiceAck l c T) s = .next (errOutputs (settle t))) ∧
    (∀ (T : W64) (a b d : BitVec 20), s.sluice.st ≠ .idle → s.sluice.domain = true → s.sluice.tickT = T.toNat →
      exec (.sluiceMark l c T a b d) s = .next (errOutputs (settle { t with sluice := { s.sluice with
        marks := mset s.sluice.marks c.val (a.toNat, b.toNat, d.toNat) } }))) ∧
    (∀ (T : W64) (a b d : BitVec 20), s.sluice.st = .idle ∨ s.sluice.domain = false ∨ s.sluice.tickT ≠ T.toNat →
      exec (.sluiceMark l c T a b d) s = .next (errOutputs (settle t))) ∧
    (∀ R : W64, s.sluice.st = .held → s.sluice.domain = true → s.sluice.origin = false → s.sluice.originChip = c.val →
      s.weir.fatal = false → exec (.resumeNotice l c R) s = .next (errOutputs (settle { t with sluice := { s.sluice with
        st := .resumePending, tickR := R.toNat } }))) ∧
    (∀ R : W64, s.sluice.st ≠ .held ∨ s.sluice.domain = false ∨ s.sluice.origin = true ∨ s.sluice.originChip ≠ c.val ∨
        s.weir.fatal = true → exec (.resumeNotice l c R) s = .next (errOutputs (settle t)))) ∧
  (s.sluice.st ≠ .capturing ∨ captureReady s = false → exec .sluiceCaptureEnd s = .next (errOutputs (settle s))) ∧
  (s.sluice.st = .capturing → captureReady s = true → exec .sluiceCaptureEnd s = .next (errOutputs (settle (captureEnd s)))) ∧
  (s.sluice.domain = false → (∀ l ∈ s.rsvr.lines, l.2.dirty = false) → s.obs.auditOn = false → (captureEnd s).sluice.st = .held ∧
    (captureEnd s).sluice.captured = tick s ∧ bit (regRaw rWEIR_EVENT (captureEnd s)) 4 = true ∧
    (captureEnd s).que = s.que) ∧
  (s.sluice.st ≠ .resumePending ∨ tick s < s.sluice.tickR ∨ s.weir.fatal = true → exec .sluiceResumeEdge s = .next (errOutputs (settle s))) ∧
  (s.sluice.st = .resumePending → s.sluice.tickR ≤ tick s → s.weir.fatal = false →
    exec .sluiceResumeEdge s = .next (errOutputs (settle (resumeEdge s))))

/-- Adding an operand sets its flag or adds its value, adding two accumulators adds their values and ORs their
flags, and a result outside bits [V:0] sets OVF and leaves the sum modulo 2^(V+1) (R310). For up to 2^32 addends
of the formats of the class, OVF is never set, the value is the exact sum, and the value and the flags are the
same for every order and every grouping. -/
def Obligations.ExactSums : Prop :=
  (∀ (w : Bool) (x : Acc), accAdd w .nan x = { x with nan := true } ∧ accAdd w (.inf false) x = { x with pinf := true } ∧
    accAdd w (.inf true) x = { x with ninf := true } ∧ (∀ e : Int, accAdd w (.fin false 0 e) x = { x with pz := true }) ∧
    (∀ e : Int, accAdd w (.fin true 0 e) x = { x with mz := true }) ∧
    (∀ (n : Bool) (m : Nat) (e : Int), m ≠ 0 → -(accL w : Int) ≤ e → ∀ v : Int,
      v = (if n then -1 else 1) * ((m * 2 ^ (e + accL w).toNat : Nat) : Int) →
      (accAdd w (.fin n m e) x).nz = true ∧ (accAdd w (.fin n m e) x).pz = x.pz ∧ (accAdd w (.fin n m e) x).mz = x.mz ∧
      (accAdd w (.fin n m e) x).nan = x.nan ∧ (accAdd w (.fin n m e) x).pinf = x.pinf ∧ (accAdd w (.fin n m e) x).ninf = x.ninf ∧
      (-(2 ^ accV w : Nat) ≤ x.a + v → x.a + v < (2 ^ accV w : Nat) →
        (accAdd w (.fin n m e) x).a = x.a + v ∧ (accAdd w (.fin n m e) x).ovf = x.ovf) ∧
      (x.a + v < -(2 ^ accV w : Nat) ∨ ((2 ^ accV w : Nat) : Int) ≤ x.a + v → (accAdd w (.fin n m e) x).ovf = true) ∧
      (accAdd w (.fin n m e) x).a % ((2 ^ (accV w + 1) : Nat) : Int) = (x.a + v) % ((2 ^ (accV w + 1) : Nat) : Int) ∧
      -(2 ^ accV w : Nat) ≤ (accAdd w (.fin n m e) x).a ∧ (accAdd w (.fin n m e) x).a < (2 ^ accV w : Nat))) ∧
  (∀ (w : Bool) (x y : Acc), (accMerge w x y).nan = (x.nan || y.nan) ∧ (accMerge w x y).pinf = (x.pinf || y.pinf) ∧
    (accMerge w x y).ninf = (x.ninf || y.ninf) ∧ (accMerge w x y).nz = (x.nz || y.nz) ∧ (accMerge w x y).pz = (x.pz || y.pz) ∧
    (accMerge w x y).mz = (x.mz || y.mz) ∧
    (-(2 ^ accV w : Nat) ≤ x.a + y.a → x.a + y.a < (2 ^ accV w : Nat) →
      (accMerge w x y).a = x.a + y.a ∧ (accMerge w x y).ovf = (x.ovf || y.ovf)) ∧
    (x.a + y.a < -(2 ^ accV w : Nat) ∨ ((2 ^ accV w : Nat) : Int) ≤ x.a + y.a → (accMerge w x y).ovf = true) ∧
    (accMerge w x y).a % ((2 ^ (accV w + 1) : Nat) : Int) = (x.a + y.a) % ((2 ^ (accV w + 1) : Nat) : Int)) ∧
  (∀ (w : Bool) (mode : Nat) (x : Acc), x.ovf = true → accVal w mode x = .nan) ∧
  (∀ (w : Bool) (l : List Val), Addends w l → l.length ≤ 2 ^ 32 →
    (sumOf w l).ovf = false ∧
    (∀ k : List Val, l.Perm k → sumOf w k = sumOf w l) ∧
    (∀ a b : List Val, l = a ++ b → accMerge w (sumOf w a) (sumOf w b) = sumOf w l ∧
      accMerge w (sumOf w b) (sumOf w a) = sumOf w l))

/-- Reading the payload that the HT9 writes for a list of accumulators in range gives each accumulator back as the
record keeps it: a NaN, an infinity, a zero with its flags, or the value (R312, R313). What is kept rounds as
the accumulator itself does, two accumulators with the same kept value have the same encoding, and no encoding
is shorter in words than the value's sign extension allows. -/
def Obligations.CxpRoundTrip : Prop :=
  (∀ (w : Bool) (l : List Acc), (∀ x ∈ l, -(2 ^ accV w : Nat) ≤ x.a ∧ x.a < (2 ^ accV w : Nat)) →
    cxpParse w l.length (cxpPayload w l) = some (l.map cxpCanon)) ∧
  (∀ (w : Bool) (mode : Nat) (x : Acc), accVal w mode (cxpCanon x) = accVal w mode x) ∧
  (∀ (w : Bool) (x : Acc), cxpElem w (cxpCanon x) = cxpElem w x) ∧
  (∀ (w : Bool) (x : Acc), x.a ≠ 0 → -(2 ^ accV w : Nat) ≤ x.a → x.a < (2 ^ accV w : Nat) →
    x.nan = false → x.ovf = false → x.pinf = false → x.ninf = false →
    ∃ low c ws, cxpElem w x = (low, c, ws) ∧ 1 ≤ c ∧ low + c ≤ accWords w ∧ ws.length = c ∧
      x.a % ((2 ^ (32 * low) : Nat) : Int) = 0 ∧ x.a % ((2 ^ (32 * (low + 1)) : Nat) : Int) ≠ 0 ∧
      (2 ≤ c → x.a / ((2 ^ (32 * low) : Nat) : Int) < -(2 ^ (32 * (c - 1) - 1) : Nat) ∨
        ((2 ^ (32 * (c - 1) - 1) : Nat) : Int) ≤ x.a / ((2 ^ (32 * low) : Nat) : Int)))

/-- On a LIVE fence in compatibility mode, a signal or a target with upper bits set is INVALID and changes nothing;
a signal at serial distance 0 or behind is stale and only counted; one ahead becomes VALUE; one at distance 2^31
puts the fence in ERROR with cause 3 and is a FENCE_ERROR. A wait is satisfied exactly while VALUE is less than
2^31 ahead of its target (R243, R238). -/
def Obligations.CompatibilityFences : Prop :=
  ∀ (n : Nat) (f : Fence) (s : State), mget s.que.fences n = some f → f.st = .live → f.compat = true → f.value.toNat < 2 ^ 32 →
    (∀ (v : W64) (g : Signaller) (i : Ident), 2 ^ 32 ≤ v.toNat → fenceSignal n v g i s = ((.invalid, f.value), s)) ∧
    (∀ (v : W64) (g : Signaller) (i : Ident) (d : Nat), v.toNat < 2 ^ 32 → d = (v.toNat + 2 ^ 32 - f.value.toNat) % 2 ^ 32 →
      (d = 0 ∨ 2 ^ 31 < d → fenceSignal n v g i s = ((.ok, f.value), { s with que := { s.que with
        fences := mmod s.que.fences n (fun f => { f with stale := satAdd 16 f.stale 1 }) } })) ∧
      (0 < d → d < 2 ^ 31 → fenceSignal n v g i s = ((.ok, v), fenceChanged n
        (modFence n (fun y => { y with value := v, sig := { g with scope := max g.scope f.scope }, signed := true })
          (trace 8 { i with ctx := some f.ctx } ((mget s.que.ctxs f.ctx).bind (·.env)) 10 v
            (countFn (match mget s.que.ctxs f.ctx with
              | some c => c.fn
              | none => 0) 11 1 s))))) ∧
      (d = 2 ^ 31 → fenceSignal n v g i s = ((.fenceError, f.value), fenceFailed n (setEvent rSYN_EVENT 1
        (modFence n (fun f => { f with st := .error, cause := 3 }) s))))) ∧
    (∀ w : Wait, w.fence = n →
      (2 ^ 32 ≤ w.target.toNat → fenceWait w s = { s with que := { s.que with
        fenceEnds := s.que.fenceEnds ++ [(w.who, .invalid, f.value)] } }) ∧
      (w.target.toNat < 2 ^ 32 → (f.value.toNat + 2 ^ 32 - w.target.toNat) % 2 ^ 32 < 2 ^ 31 →
        let t := checkWait f { w with scope := max w.scope f.scope } s
        fenceWait w s = trace 9 { w.ident with ctx := w.ctx } w.env 10 f.value
          { t with que := { t.que with fenceEnds := t.que.fenceEnds ++ [(w.who, .ok, f.value)] } }) ∧
      (w.target.toNat < 2 ^ 32 → 2 ^ 31 ≤ (f.value.toNat + 2 ^ 32 - w.target.toNat) % 2 ^ 32 →
        (s.que.waits.filter fun e => e.2.registered).length < 65536 →
        fenceWait w s = { s with que := { s.que with
          waits := mset s.que.waits s.que.nextWait { w with scope := max w.scope f.scope, registered := true }
          nextWait := s.que.nextWait + 1 } }))

/-- When a fence changes, every registered wait of it whose target VALUE has reached completes with OK and VALUE, in
order, and leaves the table, and every other wait stays as it was; when it enters ERROR or EXHAUSTED every
registered wait completes with FENCE_ERROR (R235, R238). A wait that is not satisfied is registered, a wait with
target 0 is always satisfied, and a wait that finds the table full waits outside it and sets WAITER_FULL (R237). -/
def Obligations.SignalsWakeWaits : Prop :=
  ∀ (n : Nat) (f : Fence) (s : State), mget s.que.fences n = some f → regFld rOBS_TRACE_CTL 0 1 s = 0 →
    regFld rSYN_CHECK 0 1 s = 0 →
    (mwf s.que.waits = true → f.st = .live → wakeWaits n s = { s with que := { s.que with
      waits := s.que.waits.filter (fun e => !(e.2.fence == n && e.2.registered && targetMet f e.2.target))
      fenceEnds := s.que.fenceEnds ++ ((s.que.waits.filter fun e => e.2.fence == n && e.2.registered && targetMet f e.2.target).map
        fun e => (e.2.who, .ok, f.value)) } }) ∧
    (mwf s.que.waits = true → f.st = .error ∨ f.st = .exhausted → wakeWaits n s = { s with que := { s.que with
      waits := s.que.waits.filter (fun e => !(e.2.fence == n && e.2.registered))
      fenceEnds := s.que.fenceEnds ++ ((s.que.waits.filter fun e => e.2.fence == n && e.2.registered).map
        fun e => (e.2.who, .fenceError, f.value)) } }) ∧
    (f.compat = false → targetMet f 0 = true) ∧
    (f.compat = false → ∀ g h : W64, g.toNat ≤ h.toNat → targetMet f h = true → targetMet f g = true) ∧
    (∀ w : Wait, w.fence = n → f.st = .live → f.compat = false →
      (w.target.toNat ≤ f.value.toNat → fenceWait w s = { s with que := { s.que with
        fenceEnds := s.que.fenceEnds ++ [(w.who, .ok, f.value)] } }) ∧
      (f.value.toNat < w.target.toNat → (s.que.waits.filter fun e => e.2.registered).length < 65536 →
        fenceWait w s = { s with que := { s.que with
          waits := mset s.que.waits s.que.nextWait { w with scope := max w.scope f.scope, registered := true }
          nextWait := s.que.nextWait + 1 } }) ∧
      (f.value.toNat < w.target.toNat → 65536 ≤ (s.que.waits.filter fun e => e.2.registered).length →
        ∃ x, fenceWait w s = { setEvent rSYN_EVENT 0 s with que := x } ∧ x.nextWait = s.que.nextWait + 1 ∧
          x.waits = mset s.que.waits s.que.nextWait { w with scope := max w.scope f.scope, registered := false } ∧
          x.fenceEnds = s.que.fenceEnds)) ∧
    (∀ w : Wait, w.fence = n → f.st = .error ∨ f.st = .exhausted → fenceWait w s = { s with que := { s.que with
      fenceEnds := s.que.fenceEnds ++ [(w.who, .fenceError, f.value)] } })

/-- In a byte memory of canonical form, which the model uses for device memory, Rill pages and gathered data (log
6), a read of the bytes just written gives them, a read of an address outside them gives what it gave before,
and clearing a range makes exactly that range read zero. A number survives being laid out as bytes, lowest
first. -/
def Obligations.ByteMemories : Prop :=
  (∀ (m : Map Byte) (a : Nat) (d : List Byte), cellsWf m = true → cellsGet (cellsSet m a d) a d.length = d) ∧
  (∀ (m : Map Byte) (a b : Nat) (d : List Byte), cellsWf m = true → b < a ∨ a + d.length ≤ b →
    cellGet (cellsSet m a d) b = cellGet m b) ∧
  (∀ (m : Map Byte) (lo n b : Nat), cellsWf m = true →
    cellGet (cellsClear m lo n) b = (if lo ≤ b ∧ b < lo + n then 0 else cellGet m b)) ∧
  (∀ m k : Map Byte, cellsWf m = true → cellsWf k = true → (∀ b : Nat, cellGet m b = cellGet k b) → m = k) ∧
  (∀ n v : Nat, (toBytes n v).length = n ∧ ofBytes (toBytes n v) = v % 256 ^ n) ∧
  (∀ d : List Byte, toBytes d.length (ofBytes d) = d)

/-- A handle's fields are TYPE in bits [3:0], reserved bits [7:4], INDEX in [31:8] and GEN in [63:32] (R122); a
handle that the HT9 makes reads back so. A handle with reserved bits, or of a type that does not suit, is
INVALID; one whose generation is not the slot's, or whose slot is not of the caller's envelope, is STALE_HANDLE;
one of a zombie object, or of a fence that is being destroyed, is REVOKED; any other names its slot (R123). -/
def Obligations.HandlesChecked : Prop :=
  (∀ h : W64, handleOf h = ⟨h.toNat % 16, h.toNat / 16 % 16, h.toNat / 256 % 2 ^ 24, h.toNat / 2 ^ 32⟩) ∧
  (∀ ty i g : Nat, ty < 16 → i < 2 ^ 24 → g < 2 ^ 32 → handleOf (mkHandle ty i g) = ⟨ty, 0, i, g⟩) ∧
  (∀ (h : W64) (ty fn : Nat) (env : Option Nat) (s : State), (handleOf h).rsvd ≠ 0 ∨ (handleOf h).type ≠ ty →
    checkHandle h ty fn env s = .fail .invalid) ∧
  (∀ (h : W64) (fn : Nat) (env : Option Nat) (s : State), (handleOf h).rsvd = 0 → (handleOf h).type = 3 →
    (slotGen s.que.objSlots (handleOf h).index ≠ (handleOf h).gen → checkHandle h 3 fn env s = .fail .staleHandle) ∧
    (∀ o : Obj, slotGen s.que.objSlots (handleOf h).index = (handleOf h).gen → (handleOf h).index ∉ s.que.objSlots.retired →
      mget s.que.objs (handleOf h).index = some o →
      (some o.env ≠ env → checkHandle h 3 fn env s = .fail .staleHandle) ∧
      (some o.env = env → o.st = .live → checkHandle h 3 fn env s = .slot (handleOf h).index) ∧
      (some o.env = env → o.st ≠ .live → checkHandle h 3 fn env s = .fail .revoked))) ∧
  (∀ (h : W64) (fn e : Nat) (s : State) (f : Fence) (x : Ctx), (handleOf h).rsvd = 0 → (handleOf h).type = 4 →
    slotGen s.que.fenSlots (handleOf h).index = (handleOf h).gen → (handleOf h).index ∉ s.que.fenSlots.retired →
    mget s.que.fences (handleOf h).index = some f → mget s.que.ctxs f.ctx = some x →
    (x.env ≠ some e → checkHandle h 4 fn (some e) s = .fail .staleHandle) ∧
    (x.env = some e → f.st ≠ .destroying → checkHandle h 4 fn (some e) s = .slot (handleOf h).index) ∧
    (x.env = some e → f.st = .destroying → checkHandle h 4 fn (some e) s = .fail .revoked))

/-- TRAIN_DONE carries the capacity in GiB, bits [11:1] of its payload, from 1 to 2,047: a port that trains with
such a report takes service with that capacity, which is value × 4,194,304 granules. A report of 0 takes the
port out of service, as a failed training does (R286). -/
def Obligations.ReportedCapacity : Prop :=
  ∀ (p : MP) (g : BitVec 11) (s : State), (mport p.val s).st = .training →
    (g ≠ 0 → ∃ x, exec (.trainDone p true g 0) s = .next (errOutputs (mpIssue p.val 512 x)) ∧ (mport p.val x).st = .inService ∧
      (mport p.val x).gib = g.toNat ∧ 1 ≤ g.toNat ∧ g.toNat ≤ 2047 ∧ capGran (mport p.val x).gib = g.toNat * 4194304) ∧
    (∀ n : BitVec 12, exec (.trainDone p true 0 n) s = exec (.trainDone p false g n) s ∧
      exec (.trainDone p true 0 n) s = .next (errOutputs (failPort p.val s)))

/-- A command that fails a check of admission, on a queue that runs, enters and ends at once with the status of the
first check it fails, moves no data and signals no fence (R123, R126, R131); one whose entry arrived poisoned
ends with POISON. The checks are made in this order: an opcode that the queue does not take gives INVALID_OP; a
reserved field, EXT outside INLINE_WRITE (log 26) or a malformed handle gives INVALID; an unknown format gives
INVALID_FORMAT; SCOPE 5 to 7 or a field out of range, such as more cores than the envelope has or a plan that is
not 64-byte aligned, gives INVALID; a class that the envelope may not use gives INVALID; and then each handle is
checked in turn, that of the fence last. -/
def Obligations.CommandsRefused : Prop :=
  (∀ (i : Instr) (q : Nat) (k : Queue) (h : CmdHdr) (b : CmdBody) (s : State), commandOf i = some (q, h, b) →
    mget s.que.queues q = some k → k.entries.length = entriesOf h b → (∀ e ∈ k.entries, e.here = true ∧ e.badHdr = false) →
    s.que.rung.contains q = false → queueRuns k s = true → (∀ e ∈ s.que.cmds, e.2.queue ≠ q) → regFld rOBS_TRACE_CTL 0 1 s = 0 →
    let c := cmdOf q k h b s
    let t := started q k h b s
    (∀ st : Status, c.hdr.poisonBody = false → c.hdr.poisonSig = false → admitCheck c t = some st →
      exec i s = .next (errOutputs (settle (advance q 63 (refuseCmd s.que.nextCmd st t))))) ∧
    (c.hdr.poisonBody = true ∨ c.hdr.poisonSig = true →
      exec i s = .next (errOutputs (settle (advance q 63 (endCmd s.que.nextCmd .poison 0 0
        (if c.hdr.poisonSig = true ∨ cmdFence c c.hdr.sigFence t = none
          then modCmd s.que.nextCmd (fun c => { c with signalled := true }) t else t)))))) ∧
    (c.hdr.poisonBody = (h.poisonBody || k.entries.any (·.badBody) || (k.entries.drop 1).any (·.badSig))) ∧
    (c.hdr.poisonSig = (h.poisonSig || (k.entries.take 1).any (·.badSig)))) ∧
  (∀ (c : Cmd) (s : State),
    let admin := (cmdCtx c s).isNone
    let fn := cmdFn c s
    let env := if admin then (func fn s).env else cmdEnv c s
    let sig := if c.hdr.sigFence = 0 then [] else [(c.hdr.sigFence, 4)]
    (opcodeOk admin c.body = false → admitCheck c s = some .invalidOp) ∧
    (opcodeOk admin c.body = true → c.hdr.rsvd ≠ 0 ∨ bodyRsvd c.body = false ∨ (c.hdr.ext.val ≠ 0 ∧ isInline c.body = false) ∨
      handlesForm (bodyHandles c.body ++ sig) = false → admitCheck c s = some .invalid) ∧
    (opcodeOk admin c.body = true → c.hdr.rsvd = 0 → bodyRsvd c.body = true → c.hdr.ext.val = 0 ∨ isInline c.body = true →
      handlesForm (bodyHandles c.body ++ sig) = true →
      (bodyFormat c.body = false → admitCheck c s = some .invalidFormat) ∧
      (bodyFormat c.body = true → 4 < c.hdr.scope.val ∨ bodyFields c.hdr.ext.val c.body = false ∨
        bodyBounds fn env s c.body = false ∨ (admin = false ∧ classOk env c.hdr.cls.val s = false) →
        admitCheck c s = some .invalid) ∧
      (bodyFormat c.body = true → c.hdr.scope.val ≤ 4 → bodyFields c.hdr.ext.val c.body = true →
        bodyBounds fn env s c.body = true → admin = true ∨ classOk env c.hdr.cls.val s = true →
        admitCheck c s = firstBad c.body sig fn env s))) ∧
  (∀ (fn e : Nat) (v : Env) (s : State), mget s.env.envs e = some v →
    (∀ n : Nat, classOk (some e) n s = (v.classMask / 2 ^ n % 2 == 1)) ∧
    (∀ (en ar a : W64) (n first : BitVec 16) (items : W32),
      v.cores.length < (if first.toNat = 0xFFFF then n.toNat else first.toNat + n.toNat) →
      bodyBounds fn (some e) s (.dispatch en ar n first items a) = false)) ∧
  (∀ (x : Nat) (src dst plan : W64) (n : W32) (f o m r : Byte), plan.toNat % 64 ≠ 0 →
    bodyFields x (.reduce src dst n f o m r plan) = false) ∧
  (∀ (b : CmdBody) (sig : List (W64 × Nat)) (fn : Nat) (env : Option Nat) (s : State),
    let passes (h : W64 × Nat) : Prop := (∃ n, checkHandle h.1 h.2 fn env s = .slot n) ∨
      (takesZombie b = true ∧ h.2 = 3 ∧ checkHandle h.1 h.2 fn env s = .fail .revoked)
    ((∀ h ∈ bodyHandles b ++ sig, passes h) → firstBad b sig fn env s = none) ∧
    (∀ (h : W64 × Nat) (l r : List (W64 × Nat)) (st : Status), bodyHandles b ++ sig = l ++ h :: r → (∀ x ∈ l, passes x) →
      ¬ passes h → checkHandle h.1 h.2 fn env s = .fail st → firstBad b sig fn env s = some st))

/-- A read of a register slot at an offset that is not a multiple of 8, of a manager window through a port outside
the manager group, of offsets beyond the windows, and of another group than GEN_, TTH_ or SPL_STATUS through a
physical function outside the manager group returns 0; in recovery posture the function page shows GEN_ and
SPL_STATUS and no other window than SPL_ and WEIR_ shows anything (log 113); an unbound virtual function reads 0
but for GEN_FUNC_STATUS with BOUND 0. Every function reads TTH_NOW and TTH_TICK as the tether and the tick, and
the same GEN_CAP1 through one port. A selector that one port writes is read back there with its own bits, and
the selectors of another port change no read through this one. A written 64-bit RW register reads back as
written. The two 32-bit reads of a slot return its halves, and a read of another size or alignment returns 0
(R10). -/
def Obligations.RegisterReads : Prop :=
  (∀ (p : HP) (fn : Fn) (off : Nat) (s : State),
    (off % 8 ≠ 0 → regRead p.val fn.val off s = 0) ∧
    (fn.val ≠ 0 → 0x10000 ≤ off → regRead p.val fn.val off s = 0) ∧
    (fn.val ≠ 0 → boundAt fn.val p.val s = false → off ≠ 0x18 → regRead p.val fn.val off s = 0) ∧
    (fn.val ≠ 0 → boundAt fn.val p.val s = false → bit (regRead p.val fn.val 0x18 s) 0 = false) ∧
    (fn.val = 0 → 0x10000 ≤ off → mgrPort p.val s = false → regRead p.val fn.val off s = 0) ∧
    (fn.val = 0 → 0x440 ≤ off → off ≠ 0x480 → off < 0x10000 → mgrPort p.val s = false → regRead p.val fn.val off s = 0) ∧
    (fn.val = 0 → s.spl.recovery = true → 0x400 ≤ off → off ≠ 0x480 → (off < 0x14000 ∨ 0x18000 ≤ off) →
      (off < 0x44000 ∨ 0x48000 ≤ off) → regRead p.val fn.val off s = 0)) ∧
  (∀ (p : HP) (off : Nat) (s : State), 0x4C000 ≤ off → off < 2 ^ 20 → regRead p.val 0 off s = 0) ∧
  (∀ (p : HP) (fn : Fn) (s : State), barOpen p.val fn.val s = true → boundAt fn.val p.val s = true → s.spl.recovery = false →
    regRead p.val fn.val 0x408 s = s.time.now ∧ (regRead p.val fn.val 0x410 s).toNat = tick s ∧
    (barOpen p.val 0 s = true → regRead p.val fn.val 0x10 s = regRead p.val 0 0x10 s)) ∧
  (∀ (p q : HP) (fn : Fn) (off key : Nat) (v : W64) (s : State), q ≠ p →
    regRead p.val fn.val off { s with reg := { s.reg with sel := mset s.reg.sel (4 * key + q.val) v } } = regRead p.val fn.val off s) ∧
  (∀ (x : Tlp) (p : HP) (v : W64) (s : State), outsideIde x p.val s = false → mgrOpen p.val rQUE_CTX_SEL s = true →
    ∃ t, exec (.registerWrite ⟨x, p⟩ 0 0x1C020 (some (.full v))) s = .next t ∧ regRead p.val 0 rQUE_CTX_SEL t = v &&& 0xFFF) ∧
  (∀ (x : Tlp) (p : HP) (v : W64) (s : State), outsideIde x p.val s = false → mgrOpen p.val rENV_ARG0 s = true →
    ∃ t, exec (.registerWrite ⟨x, p⟩ 0 0x40010 (some (.full v))) s = .next t ∧ regRead p.val 0 rENV_ARG0 t = v) ∧
  (∀ (p : HP) (fn : Fn) (off size : Nat) (s : State),
    (off % 8 = 0 → regAccess p.val fn.val off 8 s = (regRead p.val fn.val off s).toNat ∧
      regAccess p.val fn.val off 4 s + 2 ^ 32 * regAccess p.val fn.val (off + 4) 4 s = (regRead p.val fn.val off s).toNat) ∧
    (size ≠ 4 → size ≠ 8 → regAccess p.val fn.val off size s = 0) ∧
    (off % size ≠ 0 → regAccess p.val fn.val off size s = 0))
end

