-- ==== Sys2Proof/Laws/Maps.lean ====
section
/-! SUPPORT. Laws of sparse maps and byte memories: what a read gives after an update, and that every operation keeps the
canonical form. -/
namespace Sys2Proof.Machine

variable {α : Type}

/-! ### Reading a map -/

@[simp] theorem mget_nil (i : Nat) : mget ([] : Map α) i = none := rfl

theorem mget_cons (k : Nat) (a : α) (r : Map α) (i : Nat) :
    mget ((k, a) :: r) i = if k = i then some a else mget r i := rfl

/-- A key below every key of a map in canonical form has no value. -/
theorem mget_below {m : Map α} {i : Nat} (h : ∀ e ∈ m, i < e.1) : mget m i = none := by
  induction m with
  | nil => rfl
  | cons e r ih =>
    have := h e (List.mem_cons_self ..)
    rw [mget_cons, if_neg (by omega)]
    exact ih fun x hx => h x (List.mem_cons_of_mem _ hx)

/-- Reading a key after setting it. -/
@[simp] theorem mget_mset_same (m : Map α) (i : Nat) (a : α) : mget (mset m i a) i = some a := by
  induction m with
  | nil => simp [mset, mget_cons]
  | cons e r ih =>
    obtain ⟨k, b⟩ := e
    unfold mset
    split
    · simp [mget_cons]
    · split
      · simp [mget_cons]
      · rw [mget_cons, if_neg ‹_›, ih]

/-- Reading another key than the one set. -/
theorem mget_mset_ne (m : Map α) {i j : Nat} (a : α) (h : i ≠ j) : mget (mset m i a) j = mget m j := by
  induction m with
  | nil => simp [mset, mget_cons, h]
  | cons e r ih =>
    obtain ⟨k, b⟩ := e
    unfold mset
    split
    · subst k; simp [mget_cons, h]
    · split
      · simp [mget_cons, h]
      · simp only [mget_cons, ih]

theorem mget_mset (m : Map α) (i j : Nat) (a : α) : mget (mset m i a) j = if i = j then some a else mget m j := by
  split
  · subst j; simp
  · exact mget_mset_ne m a ‹_›

@[simp] theorem mgetD_mset_same (m : Map α) (i : Nat) (a d : α) : mgetD (mset m i a) i d = a := by simp [mgetD]

theorem mgetD_mset_ne (m : Map α) {i j : Nat} (a d : α) (h : i ≠ j) : mgetD (mset m i a) j d = mgetD m j d := by
  simp [mgetD, mget_mset_ne m a h]

/-- Reading another key than the one removed. -/
theorem mget_mdel_ne (m : Map α) {i j : Nat} (h : i ≠ j) : mget (mdel m i) j = mget m j := by
  induction m with
  | nil => rfl
  | cons e r ih =>
    obtain ⟨k, b⟩ := e
    unfold mdel
    split
    · subst k; simp [mget_cons, h]
    · simp only [mget_cons, ih]

theorem mgetD_mupd_same (m : Map α) (i : Nat) (d : α) (f : α → α) :
    mgetD (mupd m i d f) i d = f (mgetD m i d) := by simp [mupd]

theorem mgetD_mupd_ne (m : Map α) {i j : Nat} (d x : α) (f : α → α) (h : i ≠ j) :
    mgetD (mupd m i d f) j x = mgetD m j x := by simp [mupd, mgetD_mset_ne _ _ _ h]

theorem mget_mmod (m : Map α) (i j : Nat) (f : α → α) :
    mget (mmod m i f) j = if i = j then (mget m j).map f else mget m j := by
  unfold mmod
  split
  · next a h => rw [mget_mset]; split
                · subst j; simp [h]
                · rfl
  · next h => split
              · subst j; simp [h]
              · rfl

/-! ### The canonical form of a map: keys strictly rising -/

@[simp] theorem mwf_nil : mwf ([] : Map α) = true := rfl

/-- The canonical form says that each key lies below all keys after it. -/
theorem mwf_cons {k : Nat} {b : α} {r : Map α} :
    mwf ((k, b) :: r) = true ↔ (∀ e ∈ r, k < e.1) ∧ mwf r = true := by
  induction r generalizing k b with
  | nil => simp [mwf]
  | cons e r ih =>
    obtain ⟨j, c⟩ := e
    have := ih (k := j) (b := c)
    simp only [mwf, Bool.and_eq_true, decide_eq_true_eq, List.mem_cons, forall_eq_or_imp]
    constructor
    · rintro ⟨h1, h2⟩
      exact ⟨⟨h1, fun e he => Nat.lt_trans h1 ((this.mp h2).1 e he)⟩, h2⟩
    · rintro ⟨⟨h1, -⟩, h2⟩
      exact ⟨h1, h2⟩

/-- A key removed from a map in canonical form has no value. -/
theorem mget_mdel_same {m : Map α} (h : mwf m = true) (i : Nat) : mget (mdel m i) i = none := by
  induction m with
  | nil => rfl
  | cons e r ih =>
    obtain ⟨k, b⟩ := e
    have ⟨h1, h2⟩ := mwf_cons.mp h
    unfold mdel
    split
    · subst k; exact mget_below h1
    · rw [mget_cons, if_neg ‹_›, ih h2]

theorem mem_mset {m : Map α} {i : Nat} {a : α} {e : Nat × α} (h : e ∈ mset m i a) : e = (i, a) ∨ e ∈ m := by
  induction m with
  | nil => simpa [mset] using h
  | cons x r ih =>
    obtain ⟨k, b⟩ := x
    unfold mset at h
    split at h
    · rcases List.mem_cons.mp h with h | h <;> simp [h]
    · split at h
      · simpa using h
      · rcases List.mem_cons.mp h with h | h
        · simp [h]
        · rcases ih h with h | h <;> simp [h]

theorem mem_mdel {m : Map α} {i : Nat} {e : Nat × α} (h : e ∈ mdel m i) : e ∈ m := by
  induction m with
  | nil => simp [mdel] at h
  | cons x r ih =>
    obtain ⟨k, b⟩ := x
    unfold mdel at h
    split at h
    · exact List.mem_cons_of_mem _ h
    · rcases List.mem_cons.mp h with h | h
      · simp [h]
      · exact List.mem_cons_of_mem _ (ih h)

theorem mwf_mset {m : Map α} (h : mwf m = true) (i : Nat) (a : α) : mwf (mset m i a) = true := by
  induction m with
  | nil => rfl
  | cons e r ih =>
    obtain ⟨k, b⟩ := e
    have ⟨h1, h2⟩ := mwf_cons.mp h
    unfold mset
    split
    · subst k; exact mwf_cons.mpr ⟨h1, h2⟩
    · split
      · refine mwf_cons.mpr ⟨fun e he => ?_, h⟩
        rcases List.mem_cons.mp he with he | he
        · subst he; assumption
        · exact Nat.lt_trans ‹_› (h1 e he)
      · refine mwf_cons.mpr ⟨fun e he => ?_, ih h2⟩
        rcases mem_mset he with he | he
        · subst he; show k < i; omega
        · exact h1 e he

theorem mwf_mdel {m : Map α} (h : mwf m = true) (i : Nat) : mwf (mdel m i) = true := by
  induction m with
  | nil => rfl
  | cons e r ih =>
    obtain ⟨k, b⟩ := e
    have ⟨h1, h2⟩ := mwf_cons.mp h
    unfold mdel
    split
    · exact h2
    · exact mwf_cons.mpr ⟨fun e he => h1 e (mem_mdel he), ih h2⟩

theorem mwf_mupd {m : Map α} (h : mwf m = true) (i : Nat) (d : α) (f : α → α) : mwf (mupd m i d f) = true :=
  mwf_mset h i _

theorem mwf_mmod {m : Map α} (h : mwf m = true) (i : Nat) (f : α → α) : mwf (mmod m i f) = true := by
  unfold mmod; split
  · exact mwf_mset h i _
  · exact h

theorem mwf_filter {m : Map α} (h : mwf m = true) (p : Nat × α → Bool) : mwf (m.filter p) = true := by
  induction m with
  | nil => rfl
  | cons e r ih =>
    obtain ⟨k, b⟩ := e
    have ⟨h1, h2⟩ := mwf_cons.mp h
    simp only [List.filter_cons]
    split
    · exact mwf_cons.mpr ⟨fun e he => h1 e (List.mem_filter.mp he).1, ih h2⟩
    · exact ih h2

/-! ### The canonical form of a byte memory: no entry holds 0 -/

theorem cellsWf_iff {m : Map Byte} : cellsWf m = true ↔ mwf m = true ∧ ∀ e ∈ m, e.2 ≠ 0 := by
  simp [cellsWf]

@[simp] theorem cellsWf_nil : cellsWf [] = true := rfl

/-- Setting an entry to a byte other than 0 keeps the canonical form. -/
theorem cellsWf_mset {m : Map Byte} (h : cellsWf m = true) (a : Nat) {b : Byte} (hb : b ≠ 0) :
    cellsWf (mset m a b) = true := by
  have ⟨h1, h2⟩ := cellsWf_iff.mp h
  refine cellsWf_iff.mpr ⟨mwf_mset h1 a b, fun e he => ?_⟩
  rcases mem_mset he with he | he
  · subst he; exact hb
  · exact h2 e he

theorem cellsWf_cellSet {m : Map Byte} (h : cellsWf m = true) (a : Nat) (b : Byte) : cellsWf (cellSet m a b) = true := by
  unfold cellSet
  split
  · have ⟨h1, h2⟩ := cellsWf_iff.mp h
    exact cellsWf_iff.mpr ⟨mwf_mdel h1 a, fun e he => h2 e (mem_mdel he)⟩
  · exact cellsWf_mset h a ‹_›

/-- A write of any byte string keeps the canonical form. -/
theorem cellsWf_cellsSet {m : Map Byte} (h : cellsWf m = true) (a : Nat) (d : List Byte) :
    cellsWf (cellsSet m a d) = true := by
  induction d generalizing m a with
  | nil => exact h
  | cons b r ih => exact ih (cellsWf_cellSet h a b) (a + 1)

theorem cellsWf_filter {m : Map Byte} (h : cellsWf m = true) (p : Nat × Byte → Bool) : cellsWf (m.filter p) = true := by
  have ⟨h1, h2⟩ := cellsWf_iff.mp h
  exact cellsWf_iff.mpr ⟨mwf_filter h1 p, fun e he => h2 e (List.mem_filter.mp he).1⟩

/-- Clearing a range keeps the canonical form. -/
theorem cellsWf_cellsClear {m : Map Byte} (h : cellsWf m = true) (lo len : Nat) : cellsWf (cellsClear m lo len) = true :=
  cellsWf_filter h _

/-- A byte of a memory after one byte has been set. -/
theorem cellGet_cellSet {m : Map Byte} (h : cellsWf m = true) (a c : Nat) (b : Byte) :
    cellGet (cellSet m a b) c = if a = c then b else cellGet m c := by
  unfold cellGet cellSet
  split
  · split
    · subst c; simp [mgetD, mget_mdel_same (cellsWf_iff.mp h).1, *]
    · simp [mgetD, mget_mdel_ne _ ‹_›]
  · simp only [mgetD, mget_mset]; split <;> rfl

end Sys2Proof.Machine
end

