-- ==== Sys2Proof/Laws/State.lean ====
section
/-! SUPPORT. One lemma per field of State for each named update, true by rfl: the field it changes, and each field it
leaves. -/
namespace Sys2Proof.Machine

variable (s : State)

/-! ### emit: drives a message -/
@[simp] theorem emit_pending (o : Out) : (emit o s).pending = s.pending := rfl
@[simp] theorem emit_out (o : Out) : (emit o s).out = s.out ++ [o] := rfl
@[simp] theorem emit_free (o : Out) : (emit o s).free = s.free := rfl
@[simp] theorem emit_reg (o : Out) : (emit o s).reg = s.reg := rfl
@[simp] theorem emit_time (o : Out) : (emit o s).time = s.time := rfl
@[simp] theorem emit_weir (o : Out) : (emit o s).weir = s.weir := rfl
@[simp] theorem emit_obs (o : Out) : (emit o s).obs = s.obs := rfl
@[simp] theorem emit_spl (o : Out) : (emit o s).spl = s.spl := rfl
@[simp] theorem emit_port (o : Out) : (emit o s).port = s.port := rfl
@[simp] theorem emit_ep (o : Out) : (emit o s).ep = s.ep := rfl
@[simp] theorem emit_que (o : Out) : (emit o s).que = s.que := rfl
@[simp] theorem emit_env (o : Out) : (emit o s).env = s.env := rfl
@[simp] theorem emit_tr (o : Out) : (emit o s).tr = s.tr := rfl
@[simp] theorem emit_coh (o : Out) : (emit o s).coh = s.coh := rfl
@[simp] theorem emit_rsvr (o : Out) : (emit o s).rsvr = s.rsvr := rfl
@[simp] theorem emit_cis (o : Out) : (emit o s).cis = s.cis := rfl
@[simp] theorem emit_fab (o : Out) : (emit o s).fab = s.fab := rfl
@[simp] theorem emit_stalled (o : Out) : (emit o s).stalled = s.stalled := rfl
@[simp] theorem emit_sluiceHeld (o : Out) : (emit o s).sluiceHeld = s.sluiceHeld := rfl
@[simp] theorem emit_sluice (o : Out) : (emit o s).sluice = s.sluice := rfl

/-! ### emitAll: drives messages -/
@[simp] theorem emitAll_pending (os : List Out) : (emitAll os s).pending = s.pending := rfl
@[simp] theorem emitAll_out (os : List Out) : (emitAll os s).out = s.out ++ os := rfl
@[simp] theorem emitAll_free (os : List Out) : (emitAll os s).free = s.free := rfl
@[simp] theorem emitAll_reg (os : List Out) : (emitAll os s).reg = s.reg := rfl
@[simp] theorem emitAll_time (os : List Out) : (emitAll os s).time = s.time := rfl
@[simp] theorem emitAll_weir (os : List Out) : (emitAll os s).weir = s.weir := rfl
@[simp] theorem emitAll_obs (os : List Out) : (emitAll os s).obs = s.obs := rfl
@[simp] theorem emitAll_spl (os : List Out) : (emitAll os s).spl = s.spl := rfl
@[simp] theorem emitAll_port (os : List Out) : (emitAll os s).port = s.port := rfl
@[simp] theorem emitAll_ep (os : List Out) : (emitAll os s).ep = s.ep := rfl
@[simp] theorem emitAll_que (os : List Out) : (emitAll os s).que = s.que := rfl
@[simp] theorem emitAll_env (os : List Out) : (emitAll os s).env = s.env := rfl
@[simp] theorem emitAll_tr (os : List Out) : (emitAll os s).tr = s.tr := rfl
@[simp] theorem emitAll_coh (os : List Out) : (emitAll os s).coh = s.coh := rfl
@[simp] theorem emitAll_rsvr (os : List Out) : (emitAll os s).rsvr = s.rsvr := rfl
@[simp] theorem emitAll_cis (os : List Out) : (emitAll os s).cis = s.cis := rfl
@[simp] theorem emitAll_fab (os : List Out) : (emitAll os s).fab = s.fab := rfl
@[simp] theorem emitAll_stalled (os : List Out) : (emitAll os s).stalled = s.stalled := rfl
@[simp] theorem emitAll_sluiceHeld (os : List Out) : (emitAll os s).sluiceHeld = s.sluiceHeld := rfl
@[simp] theorem emitAll_sluice (os : List Out) : (emitAll os s).sluice = s.sluice := rfl

/-! ### setRaw: stores a register's value -/
@[simp] theorem setRaw_pending (key : Nat) (v : W64) : (setRaw key v s).pending = s.pending := rfl
@[simp] theorem setRaw_out (key : Nat) (v : W64) : (setRaw key v s).out = s.out := rfl
@[simp] theorem setRaw_free (key : Nat) (v : W64) : (setRaw key v s).free = s.free := rfl
@[simp] theorem setRaw_reg (key : Nat) (v : W64) : (setRaw key v s).reg = { s.reg with val := mset s.reg.val key v } := rfl
@[simp] theorem setRaw_time (key : Nat) (v : W64) : (setRaw key v s).time = s.time := rfl
@[simp] theorem setRaw_weir (key : Nat) (v : W64) : (setRaw key v s).weir = s.weir := rfl
@[simp] theorem setRaw_obs (key : Nat) (v : W64) : (setRaw key v s).obs = s.obs := rfl
@[simp] theorem setRaw_spl (key : Nat) (v : W64) : (setRaw key v s).spl = s.spl := rfl
@[simp] theorem setRaw_port (key : Nat) (v : W64) : (setRaw key v s).port = s.port := rfl
@[simp] theorem setRaw_ep (key : Nat) (v : W64) : (setRaw key v s).ep = s.ep := rfl
@[simp] theorem setRaw_que (key : Nat) (v : W64) : (setRaw key v s).que = s.que := rfl
@[simp] theorem setRaw_env (key : Nat) (v : W64) : (setRaw key v s).env = s.env := rfl
@[simp] theorem setRaw_tr (key : Nat) (v : W64) : (setRaw key v s).tr = s.tr := rfl
@[simp] theorem setRaw_coh (key : Nat) (v : W64) : (setRaw key v s).coh = s.coh := rfl
@[simp] theorem setRaw_rsvr (key : Nat) (v : W64) : (setRaw key v s).rsvr = s.rsvr := rfl
@[simp] theorem setRaw_cis (key : Nat) (v : W64) : (setRaw key v s).cis = s.cis := rfl
@[simp] theorem setRaw_fab (key : Nat) (v : W64) : (setRaw key v s).fab = s.fab := rfl
@[simp] theorem setRaw_stalled (key : Nat) (v : W64) : (setRaw key v s).stalled = s.stalled := rfl
@[simp] theorem setRaw_sluiceHeld (key : Nat) (v : W64) : (setRaw key v s).sluiceHeld = s.sluiceHeld := rfl
@[simp] theorem setRaw_sluice (key : Nat) (v : W64) : (setRaw key v s).sluice = s.sluice := rfl

/-! ### regSetBit: sets an event bit and counts it (R248) -/
@[simp] theorem regSetBit_pending (key i : Nat) : (regSetBit key i s).pending = s.pending := rfl
@[simp] theorem regSetBit_out (key i : Nat) : (regSetBit key i s).out = s.out := rfl
@[simp] theorem regSetBit_free (key i : Nat) : (regSetBit key i s).free = s.free := rfl
@[simp] theorem regSetBit_time (key i : Nat) : (regSetBit key i s).time = s.time := rfl
@[simp] theorem regSetBit_weir (key i : Nat) : (regSetBit key i s).weir = s.weir := rfl
@[simp] theorem regSetBit_obs (key i : Nat) : (regSetBit key i s).obs = s.obs := rfl
@[simp] theorem regSetBit_spl (key i : Nat) : (regSetBit key i s).spl = s.spl := rfl
@[simp] theorem regSetBit_port (key i : Nat) : (regSetBit key i s).port = s.port := rfl
@[simp] theorem regSetBit_ep (key i : Nat) : (regSetBit key i s).ep = s.ep := rfl
@[simp] theorem regSetBit_que (key i : Nat) : (regSetBit key i s).que = s.que := rfl
@[simp] theorem regSetBit_env (key i : Nat) : (regSetBit key i s).env = s.env := rfl
@[simp] theorem regSetBit_tr (key i : Nat) : (regSetBit key i s).tr = s.tr := rfl
@[simp] theorem regSetBit_coh (key i : Nat) : (regSetBit key i s).coh = s.coh := rfl
@[simp] theorem regSetBit_rsvr (key i : Nat) : (regSetBit key i s).rsvr = s.rsvr := rfl
@[simp] theorem regSetBit_cis (key i : Nat) : (regSetBit key i s).cis = s.cis := rfl
@[simp] theorem regSetBit_fab (key i : Nat) : (regSetBit key i s).fab = s.fab := rfl
@[simp] theorem regSetBit_stalled (key i : Nat) : (regSetBit key i s).stalled = s.stalled := rfl
@[simp] theorem regSetBit_sluiceHeld (key i : Nat) : (regSetBit key i s).sluiceHeld = s.sluiceHeld := rfl
@[simp] theorem regSetBit_sluice (key i : Nat) : (regSetBit key i s).sluice = s.sluice := rfl

/-! ### count: adds to a counter (R401) -/
@[simp] theorem count_pending (g e n k : Nat) : (count g e n k s).pending = s.pending := rfl
@[simp] theorem count_out (g e n k : Nat) : (count g e n k s).out = s.out := rfl
@[simp] theorem count_free (g e n k : Nat) : (count g e n k s).free = s.free := rfl
@[simp] theorem count_reg (g e n k : Nat) : (count g e n k s).reg = s.reg := rfl
@[simp] theorem count_time (g e n k : Nat) : (count g e n k s).time = s.time := rfl
@[simp] theorem count_weir (g e n k : Nat) : (count g e n k s).weir = s.weir := rfl
@[simp] theorem count_obs (g e n k : Nat) :
    (count g e n k s).obs = { s.obs with cnt := mupd s.obs.cnt (cntKey g e n) 0 fun c => (c + k) % 2 ^ 64 } := rfl
@[simp] theorem count_spl (g e n k : Nat) : (count g e n k s).spl = s.spl := rfl
@[simp] theorem count_port (g e n k : Nat) : (count g e n k s).port = s.port := rfl
@[simp] theorem count_ep (g e n k : Nat) : (count g e n k s).ep = s.ep := rfl
@[simp] theorem count_que (g e n k : Nat) : (count g e n k s).que = s.que := rfl
@[simp] theorem count_env (g e n k : Nat) : (count g e n k s).env = s.env := rfl
@[simp] theorem count_tr (g e n k : Nat) : (count g e n k s).tr = s.tr := rfl
@[simp] theorem count_coh (g e n k : Nat) : (count g e n k s).coh = s.coh := rfl
@[simp] theorem count_rsvr (g e n k : Nat) : (count g e n k s).rsvr = s.rsvr := rfl
@[simp] theorem count_cis (g e n k : Nat) : (count g e n k s).cis = s.cis := rfl
@[simp] theorem count_fab (g e n k : Nat) : (count g e n k s).fab = s.fab := rfl
@[simp] theorem count_stalled (g e n k : Nat) : (count g e n k s).stalled = s.stalled := rfl
@[simp] theorem count_sluiceHeld (g e n k : Nat) : (count g e n k s).sluiceHeld = s.sluiceHeld := rfl
@[simp] theorem count_sluice (g e n k : Nat) : (count g e n k s).sluice = s.sluice := rfl

/-! ### errOutputs: drives the error outputs (R71) -/
@[simp] theorem errOutputs_pending : (errOutputs s).pending = s.pending := rfl
@[simp] theorem errOutputs_out : (errOutputs s).out = s.out := rfl
@[simp] theorem errOutputs_free : (errOutputs s).free = s.free := rfl
@[simp] theorem errOutputs_reg : (errOutputs s).reg = s.reg := rfl
@[simp] theorem errOutputs_time : (errOutputs s).time = s.time := rfl
@[simp] theorem errOutputs_weir :
    (errOutputs s).weir = { s.weir with
      errNonfatalLow := nonfatalDue s || s.weir.errHold,
      errHold := s.weir.errHold || (nonfatalDue s && !s.weir.errNonfatalLow),
      errFatalLow := s.weir.fatal } := rfl
@[simp] theorem errOutputs_obs : (errOutputs s).obs = s.obs := rfl
@[simp] theorem errOutputs_spl : (errOutputs s).spl = s.spl := rfl
@[simp] theorem errOutputs_port : (errOutputs s).port = s.port := rfl
@[simp] theorem errOutputs_ep : (errOutputs s).ep = s.ep := rfl
@[simp] theorem errOutputs_que : (errOutputs s).que = s.que := rfl
@[simp] theorem errOutputs_env : (errOutputs s).env = s.env := rfl
@[simp] theorem errOutputs_tr : (errOutputs s).tr = s.tr := rfl
@[simp] theorem errOutputs_coh : (errOutputs s).coh = s.coh := rfl
@[simp] theorem errOutputs_rsvr : (errOutputs s).rsvr = s.rsvr := rfl
@[simp] theorem errOutputs_cis : (errOutputs s).cis = s.cis := rfl
@[simp] theorem errOutputs_fab : (errOutputs s).fab = s.fab := rfl
@[simp] theorem errOutputs_stalled : (errOutputs s).stalled = s.stalled := rfl
@[simp] theorem errOutputs_sluiceHeld : (errOutputs s).sluiceHeld = s.sluiceHeld := rfl
@[simp] theorem errOutputs_sluice : (errOutputs s).sluice = s.sluice := rfl

/-! ### modTr: changes one part -/
@[simp] theorem modTr_pending (f : TransState → TransState) : (modTr f s).pending = s.pending := rfl
@[simp] theorem modTr_out (f : TransState → TransState) : (modTr f s).out = s.out := rfl
@[simp] theorem modTr_free (f : TransState → TransState) : (modTr f s).free = s.free := rfl
@[simp] theorem modTr_reg (f : TransState → TransState) : (modTr f s).reg = s.reg := rfl
@[simp] theorem modTr_time (f : TransState → TransState) : (modTr f s).time = s.time := rfl
@[simp] theorem modTr_weir (f : TransState → TransState) : (modTr f s).weir = s.weir := rfl
@[simp] theorem modTr_obs (f : TransState → TransState) : (modTr f s).obs = s.obs := rfl
@[simp] theorem modTr_spl (f : TransState → TransState) : (modTr f s).spl = s.spl := rfl
@[simp] theorem modTr_port (f : TransState → TransState) : (modTr f s).port = s.port := rfl
@[simp] theorem modTr_ep (f : TransState → TransState) : (modTr f s).ep = s.ep := rfl
@[simp] theorem modTr_que (f : TransState → TransState) : (modTr f s).que = s.que := rfl
@[simp] theorem modTr_env (f : TransState → TransState) : (modTr f s).env = s.env := rfl
@[simp] theorem modTr_tr (f : TransState → TransState) : (modTr f s).tr = f s.tr := rfl
@[simp] theorem modTr_coh (f : TransState → TransState) : (modTr f s).coh = s.coh := rfl
@[simp] theorem modTr_rsvr (f : TransState → TransState) : (modTr f s).rsvr = s.rsvr := rfl
@[simp] theorem modTr_cis (f : TransState → TransState) : (modTr f s).cis = s.cis := rfl
@[simp] theorem modTr_fab (f : TransState → TransState) : (modTr f s).fab = s.fab := rfl
@[simp] theorem modTr_stalled (f : TransState → TransState) : (modTr f s).stalled = s.stalled := rfl
@[simp] theorem modTr_sluiceHeld (f : TransState → TransState) : (modTr f s).sluiceHeld = s.sluiceHeld := rfl
@[simp] theorem modTr_sluice (f : TransState → TransState) : (modTr f s).sluice = s.sluice := rfl

/-! ### modCoh: changes one part -/
@[simp] theorem modCoh_pending (f : CohState → CohState) : (modCoh f s).pending = s.pending := rfl
@[simp] theorem modCoh_out (f : CohState → CohState) : (modCoh f s).out = s.out := rfl
@[simp] theorem modCoh_free (f : CohState → CohState) : (modCoh f s).free = s.free := rfl
@[simp] theorem modCoh_reg (f : CohState → CohState) : (modCoh f s).reg = s.reg := rfl
@[simp] theorem modCoh_time (f : CohState → CohState) : (modCoh f s).time = s.time := rfl
@[simp] theorem modCoh_weir (f : CohState → CohState) : (modCoh f s).weir = s.weir := rfl
@[simp] theorem modCoh_obs (f : CohState → CohState) : (modCoh f s).obs = s.obs := rfl
@[simp] theorem modCoh_spl (f : CohState → CohState) : (modCoh f s).spl = s.spl := rfl
@[simp] theorem modCoh_port (f : CohState → CohState) : (modCoh f s).port = s.port := rfl
@[simp] theorem modCoh_ep (f : CohState → CohState) : (modCoh f s).ep = s.ep := rfl
@[simp] theorem modCoh_que (f : CohState → CohState) : (modCoh f s).que = s.que := rfl
@[simp] theorem modCoh_env (f : CohState → CohState) : (modCoh f s).env = s.env := rfl
@[simp] theorem modCoh_tr (f : CohState → CohState) : (modCoh f s).tr = s.tr := rfl
@[simp] theorem modCoh_coh (f : CohState → CohState) : (modCoh f s).coh = f s.coh := rfl
@[simp] theorem modCoh_rsvr (f : CohState → CohState) : (modCoh f s).rsvr = s.rsvr := rfl
@[simp] theorem modCoh_cis (f : CohState → CohState) : (modCoh f s).cis = s.cis := rfl
@[simp] theorem modCoh_fab (f : CohState → CohState) : (modCoh f s).fab = s.fab := rfl
@[simp] theorem modCoh_stalled (f : CohState → CohState) : (modCoh f s).stalled = s.stalled := rfl
@[simp] theorem modCoh_sluiceHeld (f : CohState → CohState) : (modCoh f s).sluiceHeld = s.sluiceHeld := rfl
@[simp] theorem modCoh_sluice (f : CohState → CohState) : (modCoh f s).sluice = s.sluice := rfl

/-! ### modFab: changes one part -/
@[simp] theorem modFab_pending (f : FabState → FabState) : (modFab f s).pending = s.pending := rfl
@[simp] theorem modFab_out (f : FabState → FabState) : (modFab f s).out = s.out := rfl
@[simp] theorem modFab_free (f : FabState → FabState) : (modFab f s).free = s.free := rfl
@[simp] theorem modFab_reg (f : FabState → FabState) : (modFab f s).reg = s.reg := rfl
@[simp] theorem modFab_time (f : FabState → FabState) : (modFab f s).time = s.time := rfl
@[simp] theorem modFab_weir (f : FabState → FabState) : (modFab f s).weir = s.weir := rfl
@[simp] theorem modFab_obs (f : FabState → FabState) : (modFab f s).obs = s.obs := rfl
@[simp] theorem modFab_spl (f : FabState → FabState) : (modFab f s).spl = s.spl := rfl
@[simp] theorem modFab_port (f : FabState → FabState) : (modFab f s).port = s.port := rfl
@[simp] theorem modFab_ep (f : FabState → FabState) : (modFab f s).ep = s.ep := rfl
@[simp] theorem modFab_que (f : FabState → FabState) : (modFab f s).que = s.que := rfl
@[simp] theorem modFab_env (f : FabState → FabState) : (modFab f s).env = s.env := rfl
@[simp] theorem modFab_tr (f : FabState → FabState) : (modFab f s).tr = s.tr := rfl
@[simp] theorem modFab_coh (f : FabState → FabState) : (modFab f s).coh = s.coh := rfl
@[simp] theorem modFab_rsvr (f : FabState → FabState) : (modFab f s).rsvr = s.rsvr := rfl
@[simp] theorem modFab_cis (f : FabState → FabState) : (modFab f s).cis = s.cis := rfl
@[simp] theorem modFab_fab (f : FabState → FabState) : (modFab f s).fab = f s.fab := rfl
@[simp] theorem modFab_stalled (f : FabState → FabState) : (modFab f s).stalled = s.stalled := rfl
@[simp] theorem modFab_sluiceHeld (f : FabState → FabState) : (modFab f s).sluiceHeld = s.sluiceHeld := rfl
@[simp] theorem modFab_sluice (f : FabState → FabState) : (modFab f s).sluice = s.sluice := rfl

/-! ### modSpl: changes one part -/
@[simp] theorem modSpl_pending (f : SpoolState → SpoolState) : (modSpl f s).pending = s.pending := rfl
@[simp] theorem modSpl_out (f : SpoolState → SpoolState) : (modSpl f s).out = s.out := rfl
@[simp] theorem modSpl_free (f : SpoolState → SpoolState) : (modSpl f s).free = s.free := rfl
@[simp] theorem modSpl_reg (f : SpoolState → SpoolState) : (modSpl f s).reg = s.reg := rfl
@[simp] theorem modSpl_time (f : SpoolState → SpoolState) : (modSpl f s).time = s.time := rfl
@[simp] theorem modSpl_weir (f : SpoolState → SpoolState) : (modSpl f s).weir = s.weir := rfl
@[simp] theorem modSpl_obs (f : SpoolState → SpoolState) : (modSpl f s).obs = s.obs := rfl
@[simp] theorem modSpl_spl (f : SpoolState → SpoolState) : (modSpl f s).spl = f s.spl := rfl
@[simp] theorem modSpl_port (f : SpoolState → SpoolState) : (modSpl f s).port = s.port := rfl
@[simp] theorem modSpl_ep (f : SpoolState → SpoolState) : (modSpl f s).ep = s.ep := rfl
@[simp] theorem modSpl_que (f : SpoolState → SpoolState) : (modSpl f s).que = s.que := rfl
@[simp] theorem modSpl_env (f : SpoolState → SpoolState) : (modSpl f s).env = s.env := rfl
@[simp] theorem modSpl_tr (f : SpoolState → SpoolState) : (modSpl f s).tr = s.tr := rfl
@[simp] theorem modSpl_coh (f : SpoolState → SpoolState) : (modSpl f s).coh = s.coh := rfl
@[simp] theorem modSpl_rsvr (f : SpoolState → SpoolState) : (modSpl f s).rsvr = s.rsvr := rfl
@[simp] theorem modSpl_cis (f : SpoolState → SpoolState) : (modSpl f s).cis = s.cis := rfl
@[simp] theorem modSpl_fab (f : SpoolState → SpoolState) : (modSpl f s).fab = s.fab := rfl
@[simp] theorem modSpl_stalled (f : SpoolState → SpoolState) : (modSpl f s).stalled = s.stalled := rfl
@[simp] theorem modSpl_sluiceHeld (f : SpoolState → SpoolState) : (modSpl f s).sluiceHeld = s.sluiceHeld := rfl
@[simp] theorem modSpl_sluice (f : SpoolState → SpoolState) : (modSpl f s).sluice = s.sluice := rfl

/-! ### modQue: changes one part -/
@[simp] theorem modQue_pending (f : QueState → QueState) : (modQue f s).pending = s.pending := rfl
@[simp] theorem modQue_out (f : QueState → QueState) : (modQue f s).out = s.out := rfl
@[simp] theorem modQue_free (f : QueState → QueState) : (modQue f s).free = s.free := rfl
@[simp] theorem modQue_reg (f : QueState → QueState) : (modQue f s).reg = s.reg := rfl
@[simp] theorem modQue_time (f : QueState → QueState) : (modQue f s).time = s.time := rfl
@[simp] theorem modQue_weir (f : QueState → QueState) : (modQue f s).weir = s.weir := rfl
@[simp] theorem modQue_obs (f : QueState → QueState) : (modQue f s).obs = s.obs := rfl
@[simp] theorem modQue_spl (f : QueState → QueState) : (modQue f s).spl = s.spl := rfl
@[simp] theorem modQue_port (f : QueState → QueState) : (modQue f s).port = s.port := rfl
@[simp] theorem modQue_ep (f : QueState → QueState) : (modQue f s).ep = s.ep := rfl
@[simp] theorem modQue_que (f : QueState → QueState) : (modQue f s).que = f s.que := rfl
@[simp] theorem modQue_env (f : QueState → QueState) : (modQue f s).env = s.env := rfl
@[simp] theorem modQue_tr (f : QueState → QueState) : (modQue f s).tr = s.tr := rfl
@[simp] theorem modQue_coh (f : QueState → QueState) : (modQue f s).coh = s.coh := rfl
@[simp] theorem modQue_rsvr (f : QueState → QueState) : (modQue f s).rsvr = s.rsvr := rfl
@[simp] theorem modQue_cis (f : QueState → QueState) : (modQue f s).cis = s.cis := rfl
@[simp] theorem modQue_fab (f : QueState → QueState) : (modQue f s).fab = s.fab := rfl
@[simp] theorem modQue_stalled (f : QueState → QueState) : (modQue f s).stalled = s.stalled := rfl
@[simp] theorem modQue_sluiceHeld (f : QueState → QueState) : (modQue f s).sluiceHeld = s.sluiceHeld := rfl
@[simp] theorem modQue_sluice (f : QueState → QueState) : (modQue f s).sluice = s.sluice := rfl

/-! ### modEp: changes one part -/
@[simp] theorem modEp_pending (f : EndState → EndState) : (modEp f s).pending = s.pending := rfl
@[simp] theorem modEp_out (f : EndState → EndState) : (modEp f s).out = s.out := rfl
@[simp] theorem modEp_free (f : EndState → EndState) : (modEp f s).free = s.free := rfl
@[simp] theorem modEp_reg (f : EndState → EndState) : (modEp f s).reg = s.reg := rfl
@[simp] theorem modEp_time (f : EndState → EndState) : (modEp f s).time = s.time := rfl
@[simp] theorem modEp_weir (f : EndState → EndState) : (modEp f s).weir = s.weir := rfl
@[simp] theorem modEp_obs (f : EndState → EndState) : (modEp f s).obs = s.obs := rfl
@[simp] theorem modEp_spl (f : EndState → EndState) : (modEp f s).spl = s.spl := rfl
@[simp] theorem modEp_port (f : EndState → EndState) : (modEp f s).port = s.port := rfl
@[simp] theorem modEp_ep (f : EndState → EndState) : (modEp f s).ep = f s.ep := rfl
@[simp] theorem modEp_que (f : EndState → EndState) : (modEp f s).que = s.que := rfl
@[simp] theorem modEp_env (f : EndState → EndState) : (modEp f s).env = s.env := rfl
@[simp] theorem modEp_tr (f : EndState → EndState) : (modEp f s).tr = s.tr := rfl
@[simp] theorem modEp_coh (f : EndState → EndState) : (modEp f s).coh = s.coh := rfl
@[simp] theorem modEp_rsvr (f : EndState → EndState) : (modEp f s).rsvr = s.rsvr := rfl
@[simp] theorem modEp_cis (f : EndState → EndState) : (modEp f s).cis = s.cis := rfl
@[simp] theorem modEp_fab (f : EndState → EndState) : (modEp f s).fab = s.fab := rfl
@[simp] theorem modEp_stalled (f : EndState → EndState) : (modEp f s).stalled = s.stalled := rfl
@[simp] theorem modEp_sluiceHeld (f : EndState → EndState) : (modEp f s).sluiceHeld = s.sluiceHeld := rfl
@[simp] theorem modEp_sluice (f : EndState → EndState) : (modEp f s).sluice = s.sluice := rfl

/-! ### modCis: changes one part -/
@[simp] theorem modCis_pending (f : CisState → CisState) : (modCis f s).pending = s.pending := rfl
@[simp] theorem modCis_out (f : CisState → CisState) : (modCis f s).out = s.out := rfl
@[simp] theorem modCis_free (f : CisState → CisState) : (modCis f s).free = s.free := rfl
@[simp] theorem modCis_reg (f : CisState → CisState) : (modCis f s).reg = s.reg := rfl
@[simp] theorem modCis_time (f : CisState → CisState) : (modCis f s).time = s.time := rfl
@[simp] theorem modCis_weir (f : CisState → CisState) : (modCis f s).weir = s.weir := rfl
@[simp] theorem modCis_obs (f : CisState → CisState) : (modCis f s).obs = s.obs := rfl
@[simp] theorem modCis_spl (f : CisState → CisState) : (modCis f s).spl = s.spl := rfl
@[simp] theorem modCis_port (f : CisState → CisState) : (modCis f s).port = s.port := rfl
@[simp] theorem modCis_ep (f : CisState → CisState) : (modCis f s).ep = s.ep := rfl
@[simp] theorem modCis_que (f : CisState → CisState) : (modCis f s).que = s.que := rfl
@[simp] theorem modCis_env (f : CisState → CisState) : (modCis f s).env = s.env := rfl
@[simp] theorem modCis_tr (f : CisState → CisState) : (modCis f s).tr = s.tr := rfl
@[simp] theorem modCis_coh (f : CisState → CisState) : (modCis f s).coh = s.coh := rfl
@[simp] theorem modCis_rsvr (f : CisState → CisState) : (modCis f s).rsvr = s.rsvr := rfl
@[simp] theorem modCis_cis (f : CisState → CisState) : (modCis f s).cis = f s.cis := rfl
@[simp] theorem modCis_fab (f : CisState → CisState) : (modCis f s).fab = s.fab := rfl
@[simp] theorem modCis_stalled (f : CisState → CisState) : (modCis f s).stalled = s.stalled := rfl
@[simp] theorem modCis_sluiceHeld (f : CisState → CisState) : (modCis f s).sluiceHeld = s.sluiceHeld := rfl
@[simp] theorem modCis_sluice (f : CisState → CisState) : (modCis f s).sluice = s.sluice := rfl

/-! ### modTime: changes one part -/
@[simp] theorem modTime_pending (f : TimeState → TimeState) : (modTime f s).pending = s.pending := rfl
@[simp] theorem modTime_out (f : TimeState → TimeState) : (modTime f s).out = s.out := rfl
@[simp] theorem modTime_free (f : TimeState → TimeState) : (modTime f s).free = s.free := rfl
@[simp] theorem modTime_reg (f : TimeState → TimeState) : (modTime f s).reg = s.reg := rfl
@[simp] theorem modTime_time (f : TimeState → TimeState) : (modTime f s).time = f s.time := rfl
@[simp] theorem modTime_weir (f : TimeState → TimeState) : (modTime f s).weir = s.weir := rfl
@[simp] theorem modTime_obs (f : TimeState → TimeState) : (modTime f s).obs = s.obs := rfl
@[simp] theorem modTime_spl (f : TimeState → TimeState) : (modTime f s).spl = s.spl := rfl
@[simp] theorem modTime_port (f : TimeState → TimeState) : (modTime f s).port = s.port := rfl
@[simp] theorem modTime_ep (f : TimeState → TimeState) : (modTime f s).ep = s.ep := rfl
@[simp] theorem modTime_que (f : TimeState → TimeState) : (modTime f s).que = s.que := rfl
@[simp] theorem modTime_env (f : TimeState → TimeState) : (modTime f s).env = s.env := rfl
@[simp] theorem modTime_tr (f : TimeState → TimeState) : (modTime f s).tr = s.tr := rfl
@[simp] theorem modTime_coh (f : TimeState → TimeState) : (modTime f s).coh = s.coh := rfl
@[simp] theorem modTime_rsvr (f : TimeState → TimeState) : (modTime f s).rsvr = s.rsvr := rfl
@[simp] theorem modTime_cis (f : TimeState → TimeState) : (modTime f s).cis = s.cis := rfl
@[simp] theorem modTime_fab (f : TimeState → TimeState) : (modTime f s).fab = s.fab := rfl
@[simp] theorem modTime_stalled (f : TimeState → TimeState) : (modTime f s).stalled = s.stalled := rfl
@[simp] theorem modTime_sluiceHeld (f : TimeState → TimeState) : (modTime f s).sluiceHeld = s.sluiceHeld := rfl
@[simp] theorem modTime_sluice (f : TimeState → TimeState) : (modTime f s).sluice = s.sluice := rfl

/-! ### modRsvr: changes one part -/
@[simp] theorem modRsvr_pending (f : RsvrState → RsvrState) : (modRsvr f s).pending = s.pending := rfl
@[simp] theorem modRsvr_out (f : RsvrState → RsvrState) : (modRsvr f s).out = s.out := rfl
@[simp] theorem modRsvr_free (f : RsvrState → RsvrState) : (modRsvr f s).free = s.free := rfl
@[simp] theorem modRsvr_reg (f : RsvrState → RsvrState) : (modRsvr f s).reg = s.reg := rfl
@[simp] theorem modRsvr_time (f : RsvrState → RsvrState) : (modRsvr f s).time = s.time := rfl
@[simp] theorem modRsvr_weir (f : RsvrState → RsvrState) : (modRsvr f s).weir = s.weir := rfl
@[simp] theorem modRsvr_obs (f : RsvrState → RsvrState) : (modRsvr f s).obs = s.obs := rfl
@[simp] theorem modRsvr_spl (f : RsvrState → RsvrState) : (modRsvr f s).spl = s.spl := rfl
@[simp] theorem modRsvr_port (f : RsvrState → RsvrState) : (modRsvr f s).port = s.port := rfl
@[simp] theorem modRsvr_ep (f : RsvrState → RsvrState) : (modRsvr f s).ep = s.ep := rfl
@[simp] theorem modRsvr_que (f : RsvrState → RsvrState) : (modRsvr f s).que = s.que := rfl
@[simp] theorem modRsvr_env (f : RsvrState → RsvrState) : (modRsvr f s).env = s.env := rfl
@[simp] theorem modRsvr_tr (f : RsvrState → RsvrState) : (modRsvr f s).tr = s.tr := rfl
@[simp] theorem modRsvr_coh (f : RsvrState → RsvrState) : (modRsvr f s).coh = s.coh := rfl
@[simp] theorem modRsvr_rsvr (f : RsvrState → RsvrState) : (modRsvr f s).rsvr = f s.rsvr := rfl
@[simp] theorem modRsvr_cis (f : RsvrState → RsvrState) : (modRsvr f s).cis = s.cis := rfl
@[simp] theorem modRsvr_fab (f : RsvrState → RsvrState) : (modRsvr f s).fab = s.fab := rfl
@[simp] theorem modRsvr_stalled (f : RsvrState → RsvrState) : (modRsvr f s).stalled = s.stalled := rfl
@[simp] theorem modRsvr_sluiceHeld (f : RsvrState → RsvrState) : (modRsvr f s).sluiceHeld = s.sluiceHeld := rfl
@[simp] theorem modRsvr_sluice (f : RsvrState → RsvrState) : (modRsvr f s).sluice = s.sluice := rfl

/-! ### modSluice: changes one part -/
@[simp] theorem modSluice_pending (f : SluiceState → SluiceState) : (modSluice f s).pending = s.pending := rfl
@[simp] theorem modSluice_out (f : SluiceState → SluiceState) : (modSluice f s).out = s.out := rfl
@[simp] theorem modSluice_free (f : SluiceState → SluiceState) : (modSluice f s).free = s.free := rfl
@[simp] theorem modSluice_reg (f : SluiceState → SluiceState) : (modSluice f s).reg = s.reg := rfl
@[simp] theorem modSluice_time (f : SluiceState → SluiceState) : (modSluice f s).time = s.time := rfl
@[simp] theorem modSluice_weir (f : SluiceState → SluiceState) : (modSluice f s).weir = s.weir := rfl
@[simp] theorem modSluice_obs (f : SluiceState → SluiceState) : (modSluice f s).obs = s.obs := rfl
@[simp] theorem modSluice_spl (f : SluiceState → SluiceState) : (modSluice f s).spl = s.spl := rfl
@[simp] theorem modSluice_port (f : SluiceState → SluiceState) : (modSluice f s).port = s.port := rfl
@[simp] theorem modSluice_ep (f : SluiceState → SluiceState) : (modSluice f s).ep = s.ep := rfl
@[simp] theorem modSluice_que (f : SluiceState → SluiceState) : (modSluice f s).que = s.que := rfl
@[simp] theorem modSluice_env (f : SluiceState → SluiceState) : (modSluice f s).env = s.env := rfl
@[simp] theorem modSluice_tr (f : SluiceState → SluiceState) : (modSluice f s).tr = s.tr := rfl
@[simp] theorem modSluice_coh (f : SluiceState → SluiceState) : (modSluice f s).coh = s.coh := rfl
@[simp] theorem modSluice_rsvr (f : SluiceState → SluiceState) : (modSluice f s).rsvr = s.rsvr := rfl
@[simp] theorem modSluice_cis (f : SluiceState → SluiceState) : (modSluice f s).cis = s.cis := rfl
@[simp] theorem modSluice_fab (f : SluiceState → SluiceState) : (modSluice f s).fab = s.fab := rfl
@[simp] theorem modSluice_stalled (f : SluiceState → SluiceState) : (modSluice f s).stalled = s.stalled := rfl
@[simp] theorem modSluice_sluiceHeld (f : SluiceState → SluiceState) : (modSluice f s).sluiceHeld = s.sluiceHeld := rfl
@[simp] theorem modSluice_sluice (f : SluiceState → SluiceState) : (modSluice f s).sluice = f s.sluice := rfl

/-! ### modPort: changes one entry -/
@[simp] theorem modPort_pending (n : Nat) (f : HostPort → HostPort) : (modPort n f s).pending = s.pending := rfl
@[simp] theorem modPort_out (n : Nat) (f : HostPort → HostPort) : (modPort n f s).out = s.out := rfl
@[simp] theorem modPort_free (n : Nat) (f : HostPort → HostPort) : (modPort n f s).free = s.free := rfl
@[simp] theorem modPort_reg (n : Nat) (f : HostPort → HostPort) : (modPort n f s).reg = s.reg := rfl
@[simp] theorem modPort_time (n : Nat) (f : HostPort → HostPort) : (modPort n f s).time = s.time := rfl
@[simp] theorem modPort_weir (n : Nat) (f : HostPort → HostPort) : (modPort n f s).weir = s.weir := rfl
@[simp] theorem modPort_obs (n : Nat) (f : HostPort → HostPort) : (modPort n f s).obs = s.obs := rfl
@[simp] theorem modPort_spl (n : Nat) (f : HostPort → HostPort) : (modPort n f s).spl = s.spl := rfl
@[simp] theorem modPort_port (n : Nat) (f : HostPort → HostPort) : (modPort n f s).port = s.port := rfl
@[simp] theorem modPort_ep (n : Nat) (f : HostPort → HostPort) :
    (modPort n f s).ep = { s.ep with ports := mupd s.ep.ports n {} f } := rfl
@[simp] theorem modPort_que (n : Nat) (f : HostPort → HostPort) : (modPort n f s).que = s.que := rfl
@[simp] theorem modPort_env (n : Nat) (f : HostPort → HostPort) : (modPort n f s).env = s.env := rfl
@[simp] theorem modPort_tr (n : Nat) (f : HostPort → HostPort) : (modPort n f s).tr = s.tr := rfl
@[simp] theorem modPort_coh (n : Nat) (f : HostPort → HostPort) : (modPort n f s).coh = s.coh := rfl
@[simp] theorem modPort_rsvr (n : Nat) (f : HostPort → HostPort) : (modPort n f s).rsvr = s.rsvr := rfl
@[simp] theorem modPort_cis (n : Nat) (f : HostPort → HostPort) : (modPort n f s).cis = s.cis := rfl
@[simp] theorem modPort_fab (n : Nat) (f : HostPort → HostPort) : (modPort n f s).fab = s.fab := rfl
@[simp] theorem modPort_stalled (n : Nat) (f : HostPort → HostPort) : (modPort n f s).stalled = s.stalled := rfl
@[simp] theorem modPort_sluiceHeld (n : Nat) (f : HostPort → HostPort) : (modPort n f s).sluiceHeld = s.sluiceHeld := rfl
@[simp] theorem modPort_sluice (n : Nat) (f : HostPort → HostPort) : (modPort n f s).sluice = s.sluice := rfl

/-! ### modFunc: changes one entry -/
@[simp] theorem modFunc_pending (n : Nat) (f : Func → Func) : (modFunc n f s).pending = s.pending := rfl
@[simp] theorem modFunc_out (n : Nat) (f : Func → Func) : (modFunc n f s).out = s.out := rfl
@[simp] theorem modFunc_free (n : Nat) (f : Func → Func) : (modFunc n f s).free = s.free := rfl
@[simp] theorem modFunc_reg (n : Nat) (f : Func → Func) : (modFunc n f s).reg = s.reg := rfl
@[simp] theorem modFunc_time (n : Nat) (f : Func → Func) : (modFunc n f s).time = s.time := rfl
@[simp] theorem modFunc_weir (n : Nat) (f : Func → Func) : (modFunc n f s).weir = s.weir := rfl
@[simp] theorem modFunc_obs (n : Nat) (f : Func → Func) : (modFunc n f s).obs = s.obs := rfl
@[simp] theorem modFunc_spl (n : Nat) (f : Func → Func) : (modFunc n f s).spl = s.spl := rfl
@[simp] theorem modFunc_port (n : Nat) (f : Func → Func) : (modFunc n f s).port = s.port := rfl
@[simp] theorem modFunc_que (n : Nat) (f : Func → Func) : (modFunc n f s).que = s.que := rfl
@[simp] theorem modFunc_env (n : Nat) (f : Func → Func) : (modFunc n f s).env = s.env := rfl
@[simp] theorem modFunc_tr (n : Nat) (f : Func → Func) : (modFunc n f s).tr = s.tr := rfl
@[simp] theorem modFunc_coh (n : Nat) (f : Func → Func) : (modFunc n f s).coh = s.coh := rfl
@[simp] theorem modFunc_rsvr (n : Nat) (f : Func → Func) : (modFunc n f s).rsvr = s.rsvr := rfl
@[simp] theorem modFunc_cis (n : Nat) (f : Func → Func) : (modFunc n f s).cis = s.cis := rfl
@[simp] theorem modFunc_fab (n : Nat) (f : Func → Func) : (modFunc n f s).fab = s.fab := rfl
@[simp] theorem modFunc_stalled (n : Nat) (f : Func → Func) : (modFunc n f s).stalled = s.stalled := rfl
@[simp] theorem modFunc_sluiceHeld (n : Nat) (f : Func → Func) : (modFunc n f s).sluiceHeld = s.sluiceHeld := rfl
@[simp] theorem modFunc_sluice (n : Nat) (f : Func → Func) : (modFunc n f s).sluice = s.sluice := rfl

/-! ### modMp: changes one entry -/
@[simp] theorem modMp_pending (n : Nat) (f : MpPort → MpPort) : (modMp n f s).pending = s.pending := rfl
@[simp] theorem modMp_out (n : Nat) (f : MpPort → MpPort) : (modMp n f s).out = s.out := rfl
@[simp] theorem modMp_free (n : Nat) (f : MpPort → MpPort) : (modMp n f s).free = s.free := rfl
@[simp] theorem modMp_reg (n : Nat) (f : MpPort → MpPort) : (modMp n f s).reg = s.reg := rfl
@[simp] theorem modMp_time (n : Nat) (f : MpPort → MpPort) : (modMp n f s).time = s.time := rfl
@[simp] theorem modMp_weir (n : Nat) (f : MpPort → MpPort) : (modMp n f s).weir = s.weir := rfl
@[simp] theorem modMp_obs (n : Nat) (f : MpPort → MpPort) : (modMp n f s).obs = s.obs := rfl
@[simp] theorem modMp_spl (n : Nat) (f : MpPort → MpPort) : (modMp n f s).spl = s.spl := rfl
@[simp] theorem modMp_port (n : Nat) (f : MpPort → MpPort) :
    (modMp n f s).port = { s.port with mp := mupd s.port.mp n {} f } := rfl
@[simp] theorem modMp_ep (n : Nat) (f : MpPort → MpPort) : (modMp n f s).ep = s.ep := rfl
@[simp] theorem modMp_que (n : Nat) (f : MpPort → MpPort) : (modMp n f s).que = s.que := rfl
@[simp] theorem modMp_env (n : Nat) (f : MpPort → MpPort) : (modMp n f s).env = s.env := rfl
@[simp] theorem modMp_tr (n : Nat) (f : MpPort → MpPort) : (modMp n f s).tr = s.tr := rfl
@[simp] theorem modMp_coh (n : Nat) (f : MpPort → MpPort) : (modMp n f s).coh = s.coh := rfl
@[simp] theorem modMp_rsvr (n : Nat) (f : MpPort → MpPort) : (modMp n f s).rsvr = s.rsvr := rfl
@[simp] theorem modMp_cis (n : Nat) (f : MpPort → MpPort) : (modMp n f s).cis = s.cis := rfl
@[simp] theorem modMp_fab (n : Nat) (f : MpPort → MpPort) : (modMp n f s).fab = s.fab := rfl
@[simp] theorem modMp_stalled (n : Nat) (f : MpPort → MpPort) : (modMp n f s).stalled = s.stalled := rfl
@[simp] theorem modMp_sluiceHeld (n : Nat) (f : MpPort → MpPort) : (modMp n f s).sluiceHeld = s.sluiceHeld := rfl
@[simp] theorem modMp_sluice (n : Nat) (f : MpPort → MpPort) : (modMp n f s).sluice = s.sluice := rfl

/-! ### modCf: changes one entry -/
@[simp] theorem modCf_pending (n : Nat) (f : CfPort → CfPort) : (modCf n f s).pending = s.pending := rfl
@[simp] theorem modCf_out (n : Nat) (f : CfPort → CfPort) : (modCf n f s).out = s.out := rfl
@[simp] theorem modCf_free (n : Nat) (f : CfPort → CfPort) : (modCf n f s).free = s.free := rfl
@[simp] theorem modCf_reg (n : Nat) (f : CfPort → CfPort) : (modCf n f s).reg = s.reg := rfl
@[simp] theorem modCf_time (n : Nat) (f : CfPort → CfPort) : (modCf n f s).time = s.time := rfl
@[simp] theorem modCf_weir (n : Nat) (f : CfPort → CfPort) : (modCf n f s).weir = s.weir := rfl
@[simp] theorem modCf_obs (n : Nat) (f : CfPort → CfPort) : (modCf n f s).obs = s.obs := rfl
@[simp] theorem modCf_spl (n : Nat) (f : CfPort → CfPort) : (modCf n f s).spl = s.spl := rfl
@[simp] theorem modCf_port (n : Nat) (f : CfPort → CfPort) :
    (modCf n f s).port = { s.port with cf := mupd s.port.cf n {} f } := rfl
@[simp] theorem modCf_ep (n : Nat) (f : CfPort → CfPort) : (modCf n f s).ep = s.ep := rfl
@[simp] theorem modCf_que (n : Nat) (f : CfPort → CfPort) : (modCf n f s).que = s.que := rfl
@[simp] theorem modCf_env (n : Nat) (f : CfPort → CfPort) : (modCf n f s).env = s.env := rfl
@[simp] theorem modCf_tr (n : Nat) (f : CfPort → CfPort) : (modCf n f s).tr = s.tr := rfl
@[simp] theorem modCf_coh (n : Nat) (f : CfPort → CfPort) : (modCf n f s).coh = s.coh := rfl
@[simp] theorem modCf_rsvr (n : Nat) (f : CfPort → CfPort) : (modCf n f s).rsvr = s.rsvr := rfl
@[simp] theorem modCf_cis (n : Nat) (f : CfPort → CfPort) : (modCf n f s).cis = s.cis := rfl
@[simp] theorem modCf_fab (n : Nat) (f : CfPort → CfPort) : (modCf n f s).fab = s.fab := rfl
@[simp] theorem modCf_stalled (n : Nat) (f : CfPort → CfPort) : (modCf n f s).stalled = s.stalled := rfl
@[simp] theorem modCf_sluiceHeld (n : Nat) (f : CfPort → CfPort) : (modCf n f s).sluiceHeld = s.sluiceHeld := rfl
@[simp] theorem modCf_sluice (n : Nat) (f : CfPort → CfPort) : (modCf n f s).sluice = s.sluice := rfl

/-! ### modEnv: changes one entry -/
@[simp] theorem modEnv_pending (n : Nat) (f : Env → Env) : (modEnv n f s).pending = s.pending := rfl
@[simp] theorem modEnv_out (n : Nat) (f : Env → Env) : (modEnv n f s).out = s.out := rfl
@[simp] theorem modEnv_free (n : Nat) (f : Env → Env) : (modEnv n f s).free = s.free := rfl
@[simp] theorem modEnv_reg (n : Nat) (f : Env → Env) : (modEnv n f s).reg = s.reg := rfl
@[simp] theorem modEnv_time (n : Nat) (f : Env → Env) : (modEnv n f s).time = s.time := rfl
@[simp] theorem modEnv_weir (n : Nat) (f : Env → Env) : (modEnv n f s).weir = s.weir := rfl
@[simp] theorem modEnv_obs (n : Nat) (f : Env → Env) : (modEnv n f s).obs = s.obs := rfl
@[simp] theorem modEnv_spl (n : Nat) (f : Env → Env) : (modEnv n f s).spl = s.spl := rfl
@[simp] theorem modEnv_port (n : Nat) (f : Env → Env) : (modEnv n f s).port = s.port := rfl
@[simp] theorem modEnv_ep (n : Nat) (f : Env → Env) : (modEnv n f s).ep = s.ep := rfl
@[simp] theorem modEnv_que (n : Nat) (f : Env → Env) : (modEnv n f s).que = s.que := rfl
@[simp] theorem modEnv_env (n : Nat) (f : Env → Env) : (modEnv n f s).env = { s.env with envs := mmod s.env.envs n f } := rfl
@[simp] theorem modEnv_tr (n : Nat) (f : Env → Env) : (modEnv n f s).tr = s.tr := rfl
@[simp] theorem modEnv_coh (n : Nat) (f : Env → Env) : (modEnv n f s).coh = s.coh := rfl
@[simp] theorem modEnv_rsvr (n : Nat) (f : Env → Env) : (modEnv n f s).rsvr = s.rsvr := rfl
@[simp] theorem modEnv_cis (n : Nat) (f : Env → Env) : (modEnv n f s).cis = s.cis := rfl
@[simp] theorem modEnv_fab (n : Nat) (f : Env → Env) : (modEnv n f s).fab = s.fab := rfl
@[simp] theorem modEnv_stalled (n : Nat) (f : Env → Env) : (modEnv n f s).stalled = s.stalled := rfl
@[simp] theorem modEnv_sluiceHeld (n : Nat) (f : Env → Env) : (modEnv n f s).sluiceHeld = s.sluiceHeld := rfl
@[simp] theorem modEnv_sluice (n : Nat) (f : Env → Env) : (modEnv n f s).sluice = s.sluice := rfl

/-! ### modDirty: changes one entry -/
@[simp] theorem modDirty_pending (n : Nat) (f : Dirty → Dirty) : (modDirty n f s).pending = s.pending := rfl
@[simp] theorem modDirty_out (n : Nat) (f : Dirty → Dirty) : (modDirty n f s).out = s.out := rfl
@[simp] theorem modDirty_free (n : Nat) (f : Dirty → Dirty) : (modDirty n f s).free = s.free := rfl
@[simp] theorem modDirty_reg (n : Nat) (f : Dirty → Dirty) : (modDirty n f s).reg = s.reg := rfl
@[simp] theorem modDirty_time (n : Nat) (f : Dirty → Dirty) : (modDirty n f s).time = s.time := rfl
@[simp] theorem modDirty_weir (n : Nat) (f : Dirty → Dirty) : (modDirty n f s).weir = s.weir := rfl
@[simp] theorem modDirty_obs (n : Nat) (f : Dirty → Dirty) : (modDirty n f s).obs = s.obs := rfl
@[simp] theorem modDirty_spl (n : Nat) (f : Dirty → Dirty) : (modDirty n f s).spl = s.spl := rfl
@[simp] theorem modDirty_port (n : Nat) (f : Dirty → Dirty) : (modDirty n f s).port = s.port := rfl
@[simp] theorem modDirty_ep (n : Nat) (f : Dirty → Dirty) : (modDirty n f s).ep = s.ep := rfl
@[simp] theorem modDirty_que (n : Nat) (f : Dirty → Dirty) : (modDirty n f s).que = s.que := rfl
@[simp] theorem modDirty_tr (n : Nat) (f : Dirty → Dirty) : (modDirty n f s).tr = s.tr := rfl
@[simp] theorem modDirty_coh (n : Nat) (f : Dirty → Dirty) : (modDirty n f s).coh = s.coh := rfl
@[simp] theorem modDirty_rsvr (n : Nat) (f : Dirty → Dirty) : (modDirty n f s).rsvr = s.rsvr := rfl
@[simp] theorem modDirty_cis (n : Nat) (f : Dirty → Dirty) : (modDirty n f s).cis = s.cis := rfl
@[simp] theorem modDirty_fab (n : Nat) (f : Dirty → Dirty) : (modDirty n f s).fab = s.fab := rfl
@[simp] theorem modDirty_stalled (n : Nat) (f : Dirty → Dirty) : (modDirty n f s).stalled = s.stalled := rfl
@[simp] theorem modDirty_sluiceHeld (n : Nat) (f : Dirty → Dirty) : (modDirty n f s).sluiceHeld = s.sluiceHeld := rfl
@[simp] theorem modDirty_sluice (n : Nat) (f : Dirty → Dirty) : (modDirty n f s).sluice = s.sluice := rfl

/-! ### modLink: changes one entry -/
@[simp] theorem modLink_pending (n : Nat) (f : FLink → FLink) : (modLink n f s).pending = s.pending := rfl
@[simp] theorem modLink_out (n : Nat) (f : FLink → FLink) : (modLink n f s).out = s.out := rfl
@[simp] theorem modLink_free (n : Nat) (f : FLink → FLink) : (modLink n f s).free = s.free := rfl
@[simp] theorem modLink_reg (n : Nat) (f : FLink → FLink) : (modLink n f s).reg = s.reg := rfl
@[simp] theorem modLink_time (n : Nat) (f : FLink → FLink) : (modLink n f s).time = s.time := rfl
@[simp] theorem modLink_weir (n : Nat) (f : FLink → FLink) : (modLink n f s).weir = s.weir := rfl
@[simp] theorem modLink_obs (n : Nat) (f : FLink → FLink) : (modLink n f s).obs = s.obs := rfl
@[simp] theorem modLink_spl (n : Nat) (f : FLink → FLink) : (modLink n f s).spl = s.spl := rfl
@[simp] theorem modLink_port (n : Nat) (f : FLink → FLink) : (modLink n f s).port = s.port := rfl
@[simp] theorem modLink_ep (n : Nat) (f : FLink → FLink) : (modLink n f s).ep = s.ep := rfl
@[simp] theorem modLink_que (n : Nat) (f : FLink → FLink) : (modLink n f s).que = s.que := rfl
@[simp] theorem modLink_env (n : Nat) (f : FLink → FLink) : (modLink n f s).env = s.env := rfl
@[simp] theorem modLink_tr (n : Nat) (f : FLink → FLink) : (modLink n f s).tr = s.tr := rfl
@[simp] theorem modLink_coh (n : Nat) (f : FLink → FLink) : (modLink n f s).coh = s.coh := rfl
@[simp] theorem modLink_rsvr (n : Nat) (f : FLink → FLink) : (modLink n f s).rsvr = s.rsvr := rfl
@[simp] theorem modLink_cis (n : Nat) (f : FLink → FLink) : (modLink n f s).cis = s.cis := rfl
@[simp] theorem modLink_fab (n : Nat) (f : FLink → FLink) :
    (modLink n f s).fab = { s.fab with links := mupd s.fab.links n {} f } := rfl
@[simp] theorem modLink_stalled (n : Nat) (f : FLink → FLink) : (modLink n f s).stalled = s.stalled := rfl
@[simp] theorem modLink_sluiceHeld (n : Nat) (f : FLink → FLink) : (modLink n f s).sluiceHeld = s.sluiceHeld := rfl
@[simp] theorem modLink_sluice (n : Nat) (f : FLink → FLink) : (modLink n f s).sluice = s.sluice := rfl

/-! ### modFpeer: changes one entry -/
@[simp] theorem modFpeer_pending (n : Nat) (f : FabPeer → FabPeer) : (modFpeer n f s).pending = s.pending := rfl
@[simp] theorem modFpeer_out (n : Nat) (f : FabPeer → FabPeer) : (modFpeer n f s).out = s.out := rfl
@[simp] theorem modFpeer_free (n : Nat) (f : FabPeer → FabPeer) : (modFpeer n f s).free = s.free := rfl
@[simp] theorem modFpeer_reg (n : Nat) (f : FabPeer → FabPeer) : (modFpeer n f s).reg = s.reg := rfl
@[simp] theorem modFpeer_time (n : Nat) (f : FabPeer → FabPeer) : (modFpeer n f s).time = s.time := rfl
@[simp] theorem modFpeer_weir (n : Nat) (f : FabPeer → FabPeer) : (modFpeer n f s).weir = s.weir := rfl
@[simp] theorem modFpeer_obs (n : Nat) (f : FabPeer → FabPeer) : (modFpeer n f s).obs = s.obs := rfl
@[simp] theorem modFpeer_spl (n : Nat) (f : FabPeer → FabPeer) : (modFpeer n f s).spl = s.spl := rfl
@[simp] theorem modFpeer_port (n : Nat) (f : FabPeer → FabPeer) : (modFpeer n f s).port = s.port := rfl
@[simp] theorem modFpeer_ep (n : Nat) (f : FabPeer → FabPeer) : (modFpeer n f s).ep = s.ep := rfl
@[simp] theorem modFpeer_que (n : Nat) (f : FabPeer → FabPeer) : (modFpeer n f s).que = s.que := rfl
@[simp] theorem modFpeer_env (n : Nat) (f : FabPeer → FabPeer) : (modFpeer n f s).env = s.env := rfl
@[simp] theorem modFpeer_tr (n : Nat) (f : FabPeer → FabPeer) : (modFpeer n f s).tr = s.tr := rfl
@[simp] theorem modFpeer_coh (n : Nat) (f : FabPeer → FabPeer) : (modFpeer n f s).coh = s.coh := rfl
@[simp] theorem modFpeer_rsvr (n : Nat) (f : FabPeer → FabPeer) : (modFpeer n f s).rsvr = s.rsvr := rfl
@[simp] theorem modFpeer_cis (n : Nat) (f : FabPeer → FabPeer) : (modFpeer n f s).cis = s.cis := rfl
@[simp] theorem modFpeer_fab (n : Nat) (f : FabPeer → FabPeer) :
    (modFpeer n f s).fab = { s.fab with peers := mupd s.fab.peers n {} f } := rfl
@[simp] theorem modFpeer_stalled (n : Nat) (f : FabPeer → FabPeer) : (modFpeer n f s).stalled = s.stalled := rfl
@[simp] theorem modFpeer_sluiceHeld (n : Nat) (f : FabPeer → FabPeer) : (modFpeer n f s).sluiceHeld = s.sluiceHeld := rfl
@[simp] theorem modFpeer_sluice (n : Nat) (f : FabPeer → FabPeer) : (modFpeer n f s).sluice = s.sluice := rfl

/-! ### modPeer: changes one entry -/
@[simp] theorem modPeer_pending (n : Nat) (f : Peer → Peer) : (modPeer n f s).pending = s.pending := rfl
@[simp] theorem modPeer_out (n : Nat) (f : Peer → Peer) : (modPeer n f s).out = s.out := rfl
@[simp] theorem modPeer_free (n : Nat) (f : Peer → Peer) : (modPeer n f s).free = s.free := rfl
@[simp] theorem modPeer_reg (n : Nat) (f : Peer → Peer) : (modPeer n f s).reg = s.reg := rfl
@[simp] theorem modPeer_time (n : Nat) (f : Peer → Peer) : (modPeer n f s).time = s.time := rfl
@[simp] theorem modPeer_weir (n : Nat) (f : Peer → Peer) : (modPeer n f s).weir = s.weir := rfl
@[simp] theorem modPeer_obs (n : Nat) (f : Peer → Peer) : (modPeer n f s).obs = s.obs := rfl
@[simp] theorem modPeer_spl (n : Nat) (f : Peer → Peer) :
    (modPeer n f s).spl = { s.spl with peers := mmod s.spl.peers n f } := rfl
@[simp] theorem modPeer_port (n : Nat) (f : Peer → Peer) : (modPeer n f s).port = s.port := rfl
@[simp] theorem modPeer_ep (n : Nat) (f : Peer → Peer) : (modPeer n f s).ep = s.ep := rfl
@[simp] theorem modPeer_que (n : Nat) (f : Peer → Peer) : (modPeer n f s).que = s.que := rfl
@[simp] theorem modPeer_env (n : Nat) (f : Peer → Peer) : (modPeer n f s).env = s.env := rfl
@[simp] theorem modPeer_tr (n : Nat) (f : Peer → Peer) : (modPeer n f s).tr = s.tr := rfl
@[simp] theorem modPeer_coh (n : Nat) (f : Peer → Peer) : (modPeer n f s).coh = s.coh := rfl
@[simp] theorem modPeer_rsvr (n : Nat) (f : Peer → Peer) : (modPeer n f s).rsvr = s.rsvr := rfl
@[simp] theorem modPeer_cis (n : Nat) (f : Peer → Peer) : (modPeer n f s).cis = s.cis := rfl
@[simp] theorem modPeer_fab (n : Nat) (f : Peer → Peer) : (modPeer n f s).fab = s.fab := rfl
@[simp] theorem modPeer_stalled (n : Nat) (f : Peer → Peer) : (modPeer n f s).stalled = s.stalled := rfl
@[simp] theorem modPeer_sluiceHeld (n : Nat) (f : Peer → Peer) : (modPeer n f s).sluiceHeld = s.sluiceHeld := rfl
@[simp] theorem modPeer_sluice (n : Nat) (f : Peer → Peer) : (modPeer n f s).sluice = s.sluice := rfl

/-! ### modCmd: changes one entry -/
@[simp] theorem modCmd_pending (n : Nat) (f : Cmd → Cmd) : (modCmd n f s).pending = s.pending := rfl
@[simp] theorem modCmd_out (n : Nat) (f : Cmd → Cmd) : (modCmd n f s).out = s.out := rfl
@[simp] theorem modCmd_free (n : Nat) (f : Cmd → Cmd) : (modCmd n f s).free = s.free := rfl
@[simp] theorem modCmd_reg (n : Nat) (f : Cmd → Cmd) : (modCmd n f s).reg = s.reg := rfl
@[simp] theorem modCmd_time (n : Nat) (f : Cmd → Cmd) : (modCmd n f s).time = s.time := rfl
@[simp] theorem modCmd_weir (n : Nat) (f : Cmd → Cmd) : (modCmd n f s).weir = s.weir := rfl
@[simp] theorem modCmd_obs (n : Nat) (f : Cmd → Cmd) : (modCmd n f s).obs = s.obs := rfl
@[simp] theorem modCmd_spl (n : Nat) (f : Cmd → Cmd) : (modCmd n f s).spl = s.spl := rfl
@[simp] theorem modCmd_port (n : Nat) (f : Cmd → Cmd) : (modCmd n f s).port = s.port := rfl
@[simp] theorem modCmd_ep (n : Nat) (f : Cmd → Cmd) : (modCmd n f s).ep = s.ep := rfl
@[simp] theorem modCmd_que (n : Nat) (f : Cmd → Cmd) : (modCmd n f s).que = { s.que with cmds := mmod s.que.cmds n f } := rfl
@[simp] theorem modCmd_env (n : Nat) (f : Cmd → Cmd) : (modCmd n f s).env = s.env := rfl
@[simp] theorem modCmd_tr (n : Nat) (f : Cmd → Cmd) : (modCmd n f s).tr = s.tr := rfl
@[simp] theorem modCmd_coh (n : Nat) (f : Cmd → Cmd) : (modCmd n f s).coh = s.coh := rfl
@[simp] theorem modCmd_rsvr (n : Nat) (f : Cmd → Cmd) : (modCmd n f s).rsvr = s.rsvr := rfl
@[simp] theorem modCmd_cis (n : Nat) (f : Cmd → Cmd) : (modCmd n f s).cis = s.cis := rfl
@[simp] theorem modCmd_fab (n : Nat) (f : Cmd → Cmd) : (modCmd n f s).fab = s.fab := rfl
@[simp] theorem modCmd_stalled (n : Nat) (f : Cmd → Cmd) : (modCmd n f s).stalled = s.stalled := rfl
@[simp] theorem modCmd_sluiceHeld (n : Nat) (f : Cmd → Cmd) : (modCmd n f s).sluiceHeld = s.sluiceHeld := rfl
@[simp] theorem modCmd_sluice (n : Nat) (f : Cmd → Cmd) : (modCmd n f s).sluice = s.sluice := rfl

/-! ### modReq: changes one entry -/
@[simp] theorem modReq_pending (n : Nat) (f : Req → Req) : (modReq n f s).pending = s.pending := rfl
@[simp] theorem modReq_out (n : Nat) (f : Req → Req) : (modReq n f s).out = s.out := rfl
@[simp] theorem modReq_free (n : Nat) (f : Req → Req) : (modReq n f s).free = s.free := rfl
@[simp] theorem modReq_reg (n : Nat) (f : Req → Req) : (modReq n f s).reg = s.reg := rfl
@[simp] theorem modReq_time (n : Nat) (f : Req → Req) : (modReq n f s).time = s.time := rfl
@[simp] theorem modReq_weir (n : Nat) (f : Req → Req) : (modReq n f s).weir = s.weir := rfl
@[simp] theorem modReq_obs (n : Nat) (f : Req → Req) : (modReq n f s).obs = s.obs := rfl
@[simp] theorem modReq_spl (n : Nat) (f : Req → Req) : (modReq n f s).spl = s.spl := rfl
@[simp] theorem modReq_port (n : Nat) (f : Req → Req) : (modReq n f s).port = s.port := rfl
@[simp] theorem modReq_ep (n : Nat) (f : Req → Req) : (modReq n f s).ep = s.ep := rfl
@[simp] theorem modReq_que (n : Nat) (f : Req → Req) : (modReq n f s).que = { s.que with reqs := mmod s.que.reqs n f } := rfl
@[simp] theorem modReq_env (n : Nat) (f : Req → Req) : (modReq n f s).env = s.env := rfl
@[simp] theorem modReq_tr (n : Nat) (f : Req → Req) : (modReq n f s).tr = s.tr := rfl
@[simp] theorem modReq_coh (n : Nat) (f : Req → Req) : (modReq n f s).coh = s.coh := rfl
@[simp] theorem modReq_rsvr (n : Nat) (f : Req → Req) : (modReq n f s).rsvr = s.rsvr := rfl
@[simp] theorem modReq_cis (n : Nat) (f : Req → Req) : (modReq n f s).cis = s.cis := rfl
@[simp] theorem modReq_fab (n : Nat) (f : Req → Req) : (modReq n f s).fab = s.fab := rfl
@[simp] theorem modReq_stalled (n : Nat) (f : Req → Req) : (modReq n f s).stalled = s.stalled := rfl
@[simp] theorem modReq_sluiceHeld (n : Nat) (f : Req → Req) : (modReq n f s).sluiceHeld = s.sluiceHeld := rfl
@[simp] theorem modReq_sluice (n : Nat) (f : Req → Req) : (modReq n f s).sluice = s.sluice := rfl

/-! ### modQueue: changes one entry -/
@[simp] theorem modQueue_pending (n : Nat) (f : Queue → Queue) : (modQueue n f s).pending = s.pending := rfl
@[simp] theorem modQueue_out (n : Nat) (f : Queue → Queue) : (modQueue n f s).out = s.out := rfl
@[simp] theorem modQueue_free (n : Nat) (f : Queue → Queue) : (modQueue n f s).free = s.free := rfl
@[simp] theorem modQueue_reg (n : Nat) (f : Queue → Queue) : (modQueue n f s).reg = s.reg := rfl
@[simp] theorem modQueue_time (n : Nat) (f : Queue → Queue) : (modQueue n f s).time = s.time := rfl
@[simp] theorem modQueue_weir (n : Nat) (f : Queue → Queue) : (modQueue n f s).weir = s.weir := rfl
@[simp] theorem modQueue_obs (n : Nat) (f : Queue → Queue) : (modQueue n f s).obs = s.obs := rfl
@[simp] theorem modQueue_spl (n : Nat) (f : Queue → Queue) : (modQueue n f s).spl = s.spl := rfl
@[simp] theorem modQueue_port (n : Nat) (f : Queue → Queue) : (modQueue n f s).port = s.port := rfl
@[simp] theorem modQueue_ep (n : Nat) (f : Queue → Queue) : (modQueue n f s).ep = s.ep := rfl
@[simp] theorem modQueue_que (n : Nat) (f : Queue → Queue) :
    (modQueue n f s).que = { s.que with queues := mmod s.que.queues n f } := rfl
@[simp] theorem modQueue_env (n : Nat) (f : Queue → Queue) : (modQueue n f s).env = s.env := rfl
@[simp] theorem modQueue_tr (n : Nat) (f : Queue → Queue) : (modQueue n f s).tr = s.tr := rfl
@[simp] theorem modQueue_coh (n : Nat) (f : Queue → Queue) : (modQueue n f s).coh = s.coh := rfl
@[simp] theorem modQueue_rsvr (n : Nat) (f : Queue → Queue) : (modQueue n f s).rsvr = s.rsvr := rfl
@[simp] theorem modQueue_cis (n : Nat) (f : Queue → Queue) : (modQueue n f s).cis = s.cis := rfl
@[simp] theorem modQueue_fab (n : Nat) (f : Queue → Queue) : (modQueue n f s).fab = s.fab := rfl
@[simp] theorem modQueue_stalled (n : Nat) (f : Queue → Queue) : (modQueue n f s).stalled = s.stalled := rfl
@[simp] theorem modQueue_sluiceHeld (n : Nat) (f : Queue → Queue) : (modQueue n f s).sluiceHeld = s.sluiceHeld := rfl
@[simp] theorem modQueue_sluice (n : Nat) (f : Queue → Queue) : (modQueue n f s).sluice = s.sluice := rfl

/-! ### modCtx: changes one entry -/
@[simp] theorem modCtx_pending (n : Nat) (f : Ctx → Ctx) : (modCtx n f s).pending = s.pending := rfl
@[simp] theorem modCtx_out (n : Nat) (f : Ctx → Ctx) : (modCtx n f s).out = s.out := rfl
@[simp] theorem modCtx_free (n : Nat) (f : Ctx → Ctx) : (modCtx n f s).free = s.free := rfl
@[simp] theorem modCtx_reg (n : Nat) (f : Ctx → Ctx) : (modCtx n f s).reg = s.reg := rfl
@[simp] theorem modCtx_time (n : Nat) (f : Ctx → Ctx) : (modCtx n f s).time = s.time := rfl
@[simp] theorem modCtx_weir (n : Nat) (f : Ctx → Ctx) : (modCtx n f s).weir = s.weir := rfl
@[simp] theorem modCtx_obs (n : Nat) (f : Ctx → Ctx) : (modCtx n f s).obs = s.obs := rfl
@[simp] theorem modCtx_spl (n : Nat) (f : Ctx → Ctx) : (modCtx n f s).spl = s.spl := rfl
@[simp] theorem modCtx_port (n : Nat) (f : Ctx → Ctx) : (modCtx n f s).port = s.port := rfl
@[simp] theorem modCtx_ep (n : Nat) (f : Ctx → Ctx) : (modCtx n f s).ep = s.ep := rfl
@[simp] theorem modCtx_que (n : Nat) (f : Ctx → Ctx) : (modCtx n f s).que = { s.que with ctxs := mmod s.que.ctxs n f } := rfl
@[simp] theorem modCtx_env (n : Nat) (f : Ctx → Ctx) : (modCtx n f s).env = s.env := rfl
@[simp] theorem modCtx_tr (n : Nat) (f : Ctx → Ctx) : (modCtx n f s).tr = s.tr := rfl
@[simp] theorem modCtx_coh (n : Nat) (f : Ctx → Ctx) : (modCtx n f s).coh = s.coh := rfl
@[simp] theorem modCtx_rsvr (n : Nat) (f : Ctx → Ctx) : (modCtx n f s).rsvr = s.rsvr := rfl
@[simp] theorem modCtx_cis (n : Nat) (f : Ctx → Ctx) : (modCtx n f s).cis = s.cis := rfl
@[simp] theorem modCtx_fab (n : Nat) (f : Ctx → Ctx) : (modCtx n f s).fab = s.fab := rfl
@[simp] theorem modCtx_stalled (n : Nat) (f : Ctx → Ctx) : (modCtx n f s).stalled = s.stalled := rfl
@[simp] theorem modCtx_sluiceHeld (n : Nat) (f : Ctx → Ctx) : (modCtx n f s).sluiceHeld = s.sluiceHeld := rfl
@[simp] theorem modCtx_sluice (n : Nat) (f : Ctx → Ctx) : (modCtx n f s).sluice = s.sluice := rfl

/-! ### modFence: changes one entry -/
@[simp] theorem modFence_pending (n : Nat) (f : Fence → Fence) : (modFence n f s).pending = s.pending := rfl
@[simp] theorem modFence_out (n : Nat) (f : Fence → Fence) : (modFence n f s).out = s.out := rfl
@[simp] theorem modFence_free (n : Nat) (f : Fence → Fence) : (modFence n f s).free = s.free := rfl
@[simp] theorem modFence_reg (n : Nat) (f : Fence → Fence) : (modFence n f s).reg = s.reg := rfl
@[simp] theorem modFence_time (n : Nat) (f : Fence → Fence) : (modFence n f s).time = s.time := rfl
@[simp] theorem modFence_weir (n : Nat) (f : Fence → Fence) : (modFence n f s).weir = s.weir := rfl
@[simp] theorem modFence_obs (n : Nat) (f : Fence → Fence) : (modFence n f s).obs = s.obs := rfl
@[simp] theorem modFence_spl (n : Nat) (f : Fence → Fence) : (modFence n f s).spl = s.spl := rfl
@[simp] theorem modFence_port (n : Nat) (f : Fence → Fence) : (modFence n f s).port = s.port := rfl
@[simp] theorem modFence_ep (n : Nat) (f : Fence → Fence) : (modFence n f s).ep = s.ep := rfl
@[simp] theorem modFence_que (n : Nat) (f : Fence → Fence) :
    (modFence n f s).que = { s.que with fences := mmod s.que.fences n f } := rfl
@[simp] theorem modFence_env (n : Nat) (f : Fence → Fence) : (modFence n f s).env = s.env := rfl
@[simp] theorem modFence_tr (n : Nat) (f : Fence → Fence) : (modFence n f s).tr = s.tr := rfl
@[simp] theorem modFence_coh (n : Nat) (f : Fence → Fence) : (modFence n f s).coh = s.coh := rfl
@[simp] theorem modFence_rsvr (n : Nat) (f : Fence → Fence) : (modFence n f s).rsvr = s.rsvr := rfl
@[simp] theorem modFence_cis (n : Nat) (f : Fence → Fence) : (modFence n f s).cis = s.cis := rfl
@[simp] theorem modFence_fab (n : Nat) (f : Fence → Fence) : (modFence n f s).fab = s.fab := rfl
@[simp] theorem modFence_stalled (n : Nat) (f : Fence → Fence) : (modFence n f s).stalled = s.stalled := rfl
@[simp] theorem modFence_sluiceHeld (n : Nat) (f : Fence → Fence) : (modFence n f s).sluiceHeld = s.sluiceHeld := rfl
@[simp] theorem modFence_sluice (n : Nat) (f : Fence → Fence) : (modFence n f s).sluice = s.sluice := rfl

/-! ### modRed: changes one entry -/
@[simp] theorem modRed_pending (n : Nat) (f : Reduction → Reduction) : (modRed n f s).pending = s.pending := rfl
@[simp] theorem modRed_out (n : Nat) (f : Reduction → Reduction) : (modRed n f s).out = s.out := rfl
@[simp] theorem modRed_free (n : Nat) (f : Reduction → Reduction) : (modRed n f s).free = s.free := rfl
@[simp] theorem modRed_reg (n : Nat) (f : Reduction → Reduction) : (modRed n f s).reg = s.reg := rfl
@[simp] theorem modRed_time (n : Nat) (f : Reduction → Reduction) : (modRed n f s).time = s.time := rfl
@[simp] theorem modRed_weir (n : Nat) (f : Reduction → Reduction) : (modRed n f s).weir = s.weir := rfl
@[simp] theorem modRed_obs (n : Nat) (f : Reduction → Reduction) : (modRed n f s).obs = s.obs := rfl
@[simp] theorem modRed_spl (n : Nat) (f : Reduction → Reduction) : (modRed n f s).spl = s.spl := rfl
@[simp] theorem modRed_port (n : Nat) (f : Reduction → Reduction) : (modRed n f s).port = s.port := rfl
@[simp] theorem modRed_ep (n : Nat) (f : Reduction → Reduction) : (modRed n f s).ep = s.ep := rfl
@[simp] theorem modRed_que (n : Nat) (f : Reduction → Reduction) : (modRed n f s).que = s.que := rfl
@[simp] theorem modRed_env (n : Nat) (f : Reduction → Reduction) : (modRed n f s).env = s.env := rfl
@[simp] theorem modRed_tr (n : Nat) (f : Reduction → Reduction) : (modRed n f s).tr = s.tr := rfl
@[simp] theorem modRed_coh (n : Nat) (f : Reduction → Reduction) : (modRed n f s).coh = s.coh := rfl
@[simp] theorem modRed_rsvr (n : Nat) (f : Reduction → Reduction) : (modRed n f s).rsvr = s.rsvr := rfl
@[simp] theorem modRed_cis (n : Nat) (f : Reduction → Reduction) :
    (modRed n f s).cis = { s.cis with reds := mmod s.cis.reds n f } := rfl
@[simp] theorem modRed_fab (n : Nat) (f : Reduction → Reduction) : (modRed n f s).fab = s.fab := rfl
@[simp] theorem modRed_stalled (n : Nat) (f : Reduction → Reduction) : (modRed n f s).stalled = s.stalled := rfl
@[simp] theorem modRed_sluiceHeld (n : Nat) (f : Reduction → Reduction) : (modRed n f s).sluiceHeld = s.sluiceHeld := rfl
@[simp] theorem modRed_sluice (n : Nat) (f : Reduction → Reduction) : (modRed n f s).sluice = s.sluice := rfl

/-! ### modChunk: changes one chunk -/
@[simp] theorem modChunk_pending (n k : Nat) (f : Chunk → Chunk) : (modChunk n k f s).pending = s.pending := rfl
@[simp] theorem modChunk_out (n k : Nat) (f : Chunk → Chunk) : (modChunk n k f s).out = s.out := rfl
@[simp] theorem modChunk_free (n k : Nat) (f : Chunk → Chunk) : (modChunk n k f s).free = s.free := rfl
@[simp] theorem modChunk_reg (n k : Nat) (f : Chunk → Chunk) : (modChunk n k f s).reg = s.reg := rfl
@[simp] theorem modChunk_time (n k : Nat) (f : Chunk → Chunk) : (modChunk n k f s).time = s.time := rfl
@[simp] theorem modChunk_weir (n k : Nat) (f : Chunk → Chunk) : (modChunk n k f s).weir = s.weir := rfl
@[simp] theorem modChunk_obs (n k : Nat) (f : Chunk → Chunk) : (modChunk n k f s).obs = s.obs := rfl
@[simp] theorem modChunk_spl (n k : Nat) (f : Chunk → Chunk) : (modChunk n k f s).spl = s.spl := rfl
@[simp] theorem modChunk_port (n k : Nat) (f : Chunk → Chunk) : (modChunk n k f s).port = s.port := rfl
@[simp] theorem modChunk_ep (n k : Nat) (f : Chunk → Chunk) : (modChunk n k f s).ep = s.ep := rfl
@[simp] theorem modChunk_que (n k : Nat) (f : Chunk → Chunk) : (modChunk n k f s).que = s.que := rfl
@[simp] theorem modChunk_env (n k : Nat) (f : Chunk → Chunk) : (modChunk n k f s).env = s.env := rfl
@[simp] theorem modChunk_tr (n k : Nat) (f : Chunk → Chunk) : (modChunk n k f s).tr = s.tr := rfl
@[simp] theorem modChunk_coh (n k : Nat) (f : Chunk → Chunk) : (modChunk n k f s).coh = s.coh := rfl
@[simp] theorem modChunk_rsvr (n k : Nat) (f : Chunk → Chunk) : (modChunk n k f s).rsvr = s.rsvr := rfl
@[simp] theorem modChunk_fab (n k : Nat) (f : Chunk → Chunk) : (modChunk n k f s).fab = s.fab := rfl
@[simp] theorem modChunk_stalled (n k : Nat) (f : Chunk → Chunk) : (modChunk n k f s).stalled = s.stalled := rfl
@[simp] theorem modChunk_sluiceHeld (n k : Nat) (f : Chunk → Chunk) : (modChunk n k f s).sluiceHeld = s.sluiceHeld := rfl
@[simp] theorem modChunk_sluice (n k : Nat) (f : Chunk → Chunk) : (modChunk n k f s).sluice = s.sluice := rfl

end Sys2Proof.Machine
end

