-- ==== Sys2Proof/Laws/Ops.lean ====
section
/-! SUPPORT. What each shared operation can do: how an outcome is answered, and which parts of the state sending, firing,
setting events and raising errors leave alone. -/
namespace Sys2Proof.Machine

/-! ### Answering -/

/-- Driving the error outputs makes them say what the Weir holds, and holds a pulse that has just begun (R71). -/
theorem errOutputs_follows (s : State) : OutputsFollow (errOutputs s) := by
  refine ⟨?_, rfl⟩
  change (nonfatalDue s || s.weir.errHold) = (nonfatalDue s || (s.weir.errHold || nonfatalDue s && !s.weir.errNonfatalLow))
  cases nonfatalDue s <;> cases s.weir.errHold <;> rfl

/-- Where the outputs are right already, driving them changes nothing. -/
theorem errOutputs_of_follows {s : State} (h : OutputsFollow s) : errOutputs s = s := by
  obtain ⟨h1, h2⟩ := h
  have h3 : (s.weir.errHold || nonfatalDue s && !s.weir.errNonfatalLow) = s.weir.errHold := by
    rw [h1]; cases nonfatalDue s <;> cases s.weir.errHold <;> rfl
  unfold errOutputs
  rw [h3, ← h1, ← h2]

@[simp] theorem errOutputs_errOutputs (s : State) : errOutputs (errOutputs s) = errOutputs s :=
  errOutputs_of_follows (errOutputs_follows s)

theorem answer_eq (s : State) : answer s = .next (errOutputs s) := rfl

theorem answerAll_eq (s : State) : answerAll s = .next (errOutputs (settle s)) := rfl

theorem orHold_eq (c : Instr) (eff : State → State) (s : State) :
    orHold c eff s = .next (errOutputs (settle (if frozen s then holdCmd c s else eff s))) := rfl

theorem pktOrHold_eq (vc : Nat) (h : PktHdr) (c : Instr) (eff : State → State) (s : State) :
    pktOrHold vc h c eff s =
      .next (errOutputs (if frozen s && !beforeCut vc h s then holdCmd c s else settle (eff s))) := by
  unfold pktOrHold; split <;> rfl

/-! ### Repeating and choosing -/

/-- What every element's change keeps, the whole fold keeps. -/
theorem each_keeps {α : Type} {P : State → Prop} (l : List α) (f : α → State → State)
    (h : ∀ a ∈ l, ∀ s, P s → P (f a s)) {s : State} (hs : P s) : P (each l f s) := by
  unfold each
  induction l generalizing s with
  | nil => exact hs
  | cons a r ih =>
    exact ih (fun b hb => h b (List.mem_cons_of_mem _ hb)) (h a (List.mem_cons_self ..) s hs)

@[simp] theorem each_nil {α : Type} (f : α → State → State) (s : State) : each [] f s = s := rfl

@[simp] theorem each_cons {α : Type} (a : α) (l : List α) (f : α → State → State) (s : State) :
    each (a :: l) f s = each l f (f a s) := rfl

@[simp] theorem whenS_true (f : State → State) (s : State) : whenS true f s = f s := rfl

@[simp] theorem whenS_false (f : State → State) (s : State) : whenS false f s = s := rfl

theorem whenS_keeps {P : State → Prop} (c : Bool) (f : State → State) {s : State} (h : P (f s)) (hs : P s) :
    P (whenS c f s) := by cases c <;> assumption

/-- One candidate is taken, and no free value is drawn for it. -/
@[simp] theorem choose_one {α : Type} (a : α) (s : State) : choose [a] s = (some a, s) := rfl

/-- What is chosen is one of the candidates. -/
theorem choose_mem {α : Type} {l : List α} {s : State} {a : α} (h : (choose l s).1 = some a) : a ∈ l := by
  unfold choose at h
  split at h
  · cases h; simp
  · exact List.mem_of_getElem? h

/-- A choice among at least one candidate is made. -/
theorem choose_isSome {α : Type} {l : List α} (h : l ≠ []) (s : State) : (choose l s).1.isSome = true := by
  unfold choose
  split
  · rfl
  · have : 0 < l.length := List.length_pos_iff.mpr h
    rw [List.getElem?_eq_getElem (Nat.mod_lt _ this)]
    rfl

/-- A choice changes at most the counter of free values. -/
theorem choose_state {α : Type} (l : List α) (s : State) : ∃ n, (choose l s).2 = { s with free := n } := by
  unfold choose
  split
  · exact ⟨s.free, rfl⟩
  · exact ⟨s.free + 1, rfl⟩

/-! ### Parts that traffic leaves alone -/

/-- Only what host-bound traffic uses has changed between two states: messages driven, host ports and function
instances, contexts, counters and event registers. -/
structure TrafficOnly (s t : State) : Prop where
  pending : t.pending = s.pending
  free : t.free = s.free
  time : t.time = s.time
  spl : t.spl = s.spl
  port : t.port = s.port
  env : t.env = s.env
  tr : t.tr = s.tr
  coh : t.coh = s.coh
  rsvr : t.rsvr = s.rsvr
  cis : t.cis = s.cis
  fab : t.fab = s.fab
  stalled : t.stalled = s.stalled
  sluiceHeld : t.sluiceHeld = s.sluiceHeld
  sluice : t.sluice = s.sluice
  faults : t.weir = { s.weir with irqThisTick := t.weir.irqThisTick }

theorem TrafficOnly.refl (s : State) : TrafficOnly s s := by constructor <;> rfl

theorem TrafficOnly.trans {s t u : State} (h : TrafficOnly s t) (k : TrafficOnly t u) : TrafficOnly s u := by
  obtain ⟨a1, a2, a3, a4, a5, a6, a7, a8, a9, a10, a11, a12, a13, a14, a15⟩ := h
  obtain ⟨b1, b2, b3, b4, b5, b6, b7, b8, b9, b10, b11, b12, b13, b14, b15⟩ := k
  refine ⟨b1.trans a1, b2.trans a2, b3.trans a3, b4.trans a4, b5.trans a5, b6.trans a6, b7.trans a7, b8.trans a8,
    b9.trans a9, b10.trans a10, b11.trans a11, b12.trans a12, b13.trans a13, b14.trans a14, ?_⟩
  rw [b15, a15]

/-- A change of the host side alone: endpoint, contexts, counters, registers and messages. -/
theorem TrafficOnly.of_parts (s : State) (ep : EndState) (que : QueState) (obs : ObsState) (reg : RegFile)
    (out : List Out) : TrafficOnly s { s with ep := ep, que := que, obs := obs, reg := reg, out := out } := by
  constructor <;> rfl

theorem modPort_traffic (p : Nat) (f : HostPort → HostPort) (s : State) : TrafficOnly s (modPort p f s) := by
  constructor <;> rfl

theorem emit_traffic (o : Out) (s : State) : TrafficOnly s (emit o s) := by constructor <;> rfl

theorem count_traffic (g e n k : Nat) (s : State) : TrafficOnly s (count g e n k s) := by constructor <;> rfl

theorem regSetBit_traffic (key i : Nat) (s : State) : TrafficOnly s (regSetBit key i s) := by constructor <;> rfl

theorem countFn_traffic (fn e n : Nat) (s : State) : TrafficOnly s (countFn fn e n s) := by
  unfold countFn
  dsimp only
  split
  · exact (count_traffic ..).trans (count_traffic ..)
  · exact count_traffic ..

theorem exitL1_traffic (p : Nat) (s : State) : TrafficOnly s (exitL1 p s) := by
  unfold exitL1
  refine TrafficOnly.trans ?_ (modPort_traffic ..)
  split
  · exact (modPort_traffic ..).trans (emit_traffic ..)
  · exact .refl _

theorem modFunc_traffic (fn : Nat) (f : Func → Func) (s : State) : TrafficOnly s (modFunc fn f s) :=
  .of_parts s _ _ _ _ _

theorem tell_traffic (p : Nat) (m : HostMsg) (s : State) : TrafficOnly s (tell p m s) :=
  (exitL1_traffic p s).trans (emit_traffic ..)

/-- Issuing a message changes only traffic's own parts (R203, R207). -/
theorem issueNow_traffic (p : Nat) (e : UqEntry) (s : State) : TrafficOnly s (issueNow p e s) := by
  have last : ∀ u : State, TrafficOnly u (emit (.host p e.msg) (match e.msg with
      | .write fn _ _ d => countFn fn 3 d.length u
      | .writeEp fn _ _ d => countFn fn 3 d.length u
      | .msix fn _ _ _ => countFn fn 13 1 u
      | _ => u)) := by
    intro u
    refine TrafficOnly.trans ?_ (emit_traffic ..)
    split
    · exact countFn_traffic ..
    · exact countFn_traffic ..
    · exact countFn_traffic ..
    · exact .refl _
  unfold issueNow
  dsimp only
  refine TrafficOnly.trans ?_ (last _)
  split
  · refine TrafficOnly.trans ?_ (.of_parts _ _ _ _ _ _)
    exact (exitL1_traffic p s).trans ((modPort_traffic p _ _).trans (count_traffic ..))
  · exact (exitL1_traffic p s).trans ((modPort_traffic p _ _).trans (count_traffic ..))

theorem pendMsix_traffic (fn vec : Nat) (s : State) : TrafficOnly s (pendMsix fn vec s) := .of_parts s _ _ _ _ _

/-- Issuing uncharged traffic changes only traffic's own parts (R106, R195). -/
theorem issueU_traffic (p : Nat) (e : UqEntry) (s : State) : TrafficOnly s (issueU p e s) := by
  have go : ∀ (e : UqEntry) (f : HostPort → HostPort), TrafficOnly s (issueNow p e (modPort p f s)) :=
    fun e f => (modPort_traffic p f s).trans (issueNow_traffic ..)
  unfold issueU
  dsimp only
  split
  · split
    · exact pendMsix_traffic ..
    · exact go ..
  · exact go ..
  · exact go ..

theorem sendU_traffic (p : Nat) (e : UqEntry) (s : State) : TrafficOnly s (sendU p e s) := by
  unfold sendU
  split
  · exact issueU_traffic ..
  · exact modPort_traffic ..

theorem drainU_traffic (p n : Nat) (s : State) : TrafficOnly s (drainU p n s) := by
  induction n generalizing s with
  | zero => exact .refl _
  | succ n ih =>
    unfold drainU
    split
    · exact .refl _
    · dsimp only
      split
      · exact (modPort_traffic ..).trans ((issueU_traffic ..).trans (ih _))
      · exact .refl _

/-- A wake event changes only traffic's own parts (R109). -/
theorem wake_traffic (fn : Nat) (s : State) : TrafficOnly s (wake fn s) := by
  unfold wake
  dsimp only
  have both : ∀ (f : Nat → State → State) (hot cold : List Nat) (g : Nat → HostPort → HostPort),
      (∀ p u, TrafficOnly u (f p u)) → TrafficOnly s (each cold (fun p u => modPort p (g p) u) (each hot f s)) :=
    fun f hot cold g hf => each_keeps (P := TrafficOnly s) _ _ (fun p _ t h => h.trans (modPort_traffic ..))
      (each_keeps (P := TrafficOnly s) _ _ (fun p _ t h => h.trans (hf p t)) (.refl s))
  split
  · exact both _ _ _ _ fun p u => (TrafficOnly.of_parts u _ _ _ _ _).trans (tell_traffic ..)
  · exact (both _ _ _ _ fun p u => (TrafficOnly.of_parts u _ _ _ _ _).trans (tell_traffic ..)).trans (regSetBit_traffic ..)

theorem parkWake_traffic (fn : Nat) (s : State) : TrafficOnly s (parkWake fn s) := by
  unfold parkWake
  split
  · exact .refl _
  · exact (modFunc_traffic ..).trans (wake_traffic ..)

theorem viaPrimary_traffic (e : UqEntry) (s : State) : TrafficOnly s (viaPrimary e s).2 := by
  unfold viaPrimary
  split
  · exact sendU_traffic ..
  · exact (TrafficOnly.of_parts s _ _ _ _ _).trans (parkWake_traffic ..)

theorem npIssue_traffic (p : Nat) (n : NpReq) (m : HostMsg) (rank : Option Nat) (u : Nat) (s : State) :
    TrafficOnly s (npIssue p n m rank u s) := by
  unfold npIssue
  dsimp only
  split
  · exact (modPort_traffic ..).trans (sendU_traffic ..)
  · exact (modPort_traffic ..).trans (issueNow_traffic ..)

/-- A flush changes only traffic's own parts (R202). -/
theorem flushPort_traffic (p fn addr : Nat) (s : State) : TrafficOnly s (flushPort p fn addr s) := by
  unfold flushPort
  dsimp only
  split
  · exact .refl _
  · split <;> split <;> first
      | exact .refl _
      | exact (count_traffic ..).trans (npIssue_traffic ..)

theorem flushTo_traffic (p fn seq : Nat) (s : State) : TrafficOnly s (flushTo p fn seq s) := by
  unfold flushTo
  split
  · exact .refl _
  · unfold flushWork
    split <;> exact flushPort_traffic ..

theorem publish_traffic (need : List (Nat × Nat)) (a : PubAct) (s : State) : TrafficOnly s (publish need a s) :=
  .of_parts s _ _ _ _ _

theorem msixVia_traffic (fn vec p : Nat) (s : State) : TrafficOnly s (msixVia fn vec p s) := by
  unfold msixVia
  dsimp only
  split
  · exact .of_parts s _ _ _ _ _
  · split
    · exact (TrafficOnly.of_parts s _ _ _ _ _).trans (sendU_traffic ..)
    · refine TrafficOnly.trans (each_keeps (P := TrafficOnly s) _ _ (fun n _ t h => ?_) (.of_parts s _ _ _ _ _))
        (publish_traffic ..)
      split
      · exact h.trans (flushTo_traffic ..)
      · exact h

/-- A vector's message, sent, set pending or waiting for flushes, changes only traffic's own parts (R106, R204). -/
theorem sendMsix_traffic (fn vec : Nat) (s : State) : TrafficOnly s (sendMsix fn vec s) := by
  unfold sendMsix
  split
  · split
    · exact pendMsix_traffic ..
    · exact msixVia_traffic ..
  · exact (pendMsix_traffic ..).trans (parkWake_traffic ..)

theorem fire_traffic (fn vec : Nat) (s : State) : TrafficOnly s (fire fn vec s) := by
  unfold fire
  split
  · exact .refl _
  · dsimp only
    split
    · exact (TrafficOnly.of_parts s _ _ _ _ _).trans (sendMsix_traffic ..)
    · exact .of_parts s _ _ _ _ _

/-- Setting an event bit changes the registers, and traffic's parts where the manager's vector fires (R248, R249). -/
theorem setEvent_traffic (key i : Nat) (s : State) : TrafficOnly s (setEvent key i s) := by
  unfold setEvent
  dsimp only
  split
  · exact (regSetBit_traffic ..).trans (fire_traffic ..)
  · split
    · split
      · exact regSetBit_traffic ..
      · refine (regSetBit_traffic key i s).trans (TrafficOnly.trans ?_ (fire_traffic ..))
        constructor <;> rfl
    · exact regSetBit_traffic ..

/-- Raising an error appends to what the next edge latches, and changes nothing else; in recovery posture it does
nothing (R378, R381, R87). -/
theorem raise_cases (src : Nat) (c : Cause) (ctx env : Option Nat) (d : Nat) (s : State) :
    (s.spl.recovery = true ∧ raise src c ctx env d s = s) ∨
    (s.spl.recovery = false ∧
      raise src c ctx env d s = { s with weir := { s.weir with raised := s.weir.raised ++ [⟨src, c, ctx, env, d⟩] } }) := by
  unfold raise
  cases h : s.spl.recovery
  · exact .inr ⟨rfl, rfl⟩
  · exact .inl ⟨rfl, rfl⟩

@[simp] theorem raise_rsvr (src : Nat) (c : Cause) (x e : Option Nat) (d : Nat) (s : State) :
    (raise src c x e d s).rsvr = s.rsvr := by unfold raise; split <;> rfl

@[simp] theorem raise_reg (src : Nat) (c : Cause) (x e : Option Nat) (d : Nat) (s : State) :
    (raise src c x e d s).reg = s.reg := by unfold raise; split <;> rfl

@[simp] theorem raise_que (src : Nat) (c : Cause) (x e : Option Nat) (d : Nat) (s : State) :
    (raise src c x e d s).que = s.que := by unfold raise; split <;> rfl

@[simp] theorem raise_out (src : Nat) (c : Cause) (x e : Option Nat) (d : Nat) (s : State) :
    (raise src c x e d s).out = s.out := by unfold raise; split <;> rfl

/-! ### Registers -/

/-- A stored register reads what was stored. -/
@[simp] theorem regRaw_setRaw_same (key : Nat) (v : W64) (s : State) : regRaw key (setRaw key v s) = v := by
  simp [regRaw]

/-- Storing a register leaves every other register alone. -/
theorem regRaw_setRaw_ne {key k : Nat} (v : W64) (s : State) (h : key ≠ k) :
    regRaw k (setRaw key v s) = regRaw k s := by
  unfold regRaw
  rw [setRaw_reg]
  simp only [mget_mset_ne _ _ h]

end Sys2Proof.Machine
end

