-- ==== Sys2Proof/Laws/Memory.lean ====
section
/-! SUPPORT. Device memory and the other byte memories: what each operation over them does to the bytes, and that each
keeps the canonical form. -/
namespace Sys2Proof.Machine

/-- Reset lists no byte of any memory (log 6). -/
theorem reset_mem_wf : Memory.wf State.reset.rsvr.mem = true := rfl

theorem reset_staging_wf : Memory.wf State.reset.spl.staging = true := rfl

/-! ### Operations that leave device memory's bytes alone -/

@[simp] theorem mpIssue_rsvr (n fuel : Nat) (s : State) : (mpIssue n fuel s).rsvr = s.rsvr := by
  induction fuel generalizing s with
  | zero => rfl
  | succ k ih =>
    unfold mpIssue
    dsimp only
    split
    · rfl
    · split
      · rw [ih]; rfl
      · rfl

@[simp] theorem nrIssue_rsvr (n fuel : Nat) (s : State) : (nrIssue n fuel s).rsvr = s.rsvr := by
  induction fuel generalizing s with
  | zero => rfl
  | succ k ih =>
    unfold nrIssue
    dsimp only
    split
    · rw [ih]; rfl
    · rfl

@[simp] theorem mpSend_rsvr (n : Nat) (r : MpReq) (s : State) : (mpSend n r s).rsvr = s.rsvr := by
  unfold mpSend
  split
  · rw [nrIssue_rsvr, modMp_rsvr]
  · rw [mpIssue_rsvr, modMp_rsvr]

theorem placeLine_mem (ln hint : Nat) (w : Bool) (s : State) : (placeLine ln hint w s).rsvr.mem = s.rsvr.mem := by
  unfold placeLine
  dsimp only [modRsvr_rsvr]
  split
  · split
    · split <;> rfl
    · rfl
  · rfl

theorem writeBack_mem (ln : Nat) (s : State) : (writeBack ln s).rsvr.mem = s.rsvr.mem := by
  unfold writeBack
  dsimp only
  refine each_keeps (P := fun t => t.rsvr.mem = s.rsvr.mem) _ _ (fun i _ t h => by exact h) ?_
  rw [count_rsvr]
  exact each_keeps (P := fun t => t.rsvr.mem = s.rsvr.mem) _ _ (fun p _ t h => by rw [mpSend_rsvr, h]) rfl

theorem evictOne_mem (ln : Nat) (s : State) : (evictOne ln s).rsvr.mem = s.rsvr.mem := by
  unfold evictOne
  dsimp only
  split
  · rfl
  · rw [modRsvr_rsvr]
    split
    · split
      · exact writeBack_mem ..
      · rfl
    · rfl

theorem makeRoom_mem (ln : Nat) (s : State) : (makeRoom ln s).rsvr.mem = s.rsvr.mem :=
  each_keeps (P := fun t => t.rsvr.mem = s.rsvr.mem) _ _ (fun _ _ t h => by rw [evictOne_mem, h]) rfl

theorem fillGranule_mem (ln hint : Nat) (s : State) : (fillGranule ln hint s).rsvr.mem = s.rsvr.mem := by
  unfold fillGranule
  dsimp only
  refine each_keeps (P := fun t => t.rsvr.mem = s.rsvr.mem) _ _
    (fun i _ t h => by rw [placeLine_mem, makeRoom_mem, h]) ?_
  rw [mpSend_rsvr]

/-- An access to a line of the Reservoir leaves the bytes at their homes alone (R279, R290). -/
theorem touchLine_mem (ln hint : Nat) (w whole : Bool) (s : State) :
    (touchLine ln hint w whole s).rsvr.mem = s.rsvr.mem := by
  unfold touchLine
  dsimp only
  split
  · rw [placeLine_mem, count_rsvr]
  · split
    · rw [placeLine_mem, makeRoom_mem, count_rsvr]
    · rw [placeLine_mem, fillGranule_mem, count_rsvr]

theorem useLine_mem (ln hint : Nat) (w : Bool) (s : State) : (useLine ln hint w s).rsvr.mem = s.rsvr.mem := by
  unfold useLine
  split
  · exact placeLine_mem ..
  · split
    · rw [placeLine_mem, makeRoom_mem]
    · rfl

@[simp] theorem dirtyWrite_rsvr (e : Nat) (host : Bool) (page : Nat) (s : State) :
    (dirtyWrite e host page s).rsvr = s.rsvr := by
  unfold dirtyWrite
  split
  · rfl
  · dsimp only
    rw [modDirty_rsvr]
    exact (viaPrimary_traffic ..).rsvr

@[simp] theorem dirtyPage_rsvr (e page : Nat) (s : State) : (dirtyPage e page s).rsvr = s.rsvr := by
  unfold dirtyPage
  split
  · rfl
  · split
    · rfl
    · split
      · rw [(setEvent_traffic ..).rsvr, modDirty_rsvr]
      · simp

/-- Logging a written page of the device leaves the Reservoir's part alone (R374). -/
@[simp] theorem dirtyDevice_rsvr (a len : Nat) (s : State) : (dirtyDevice a len s).rsvr = s.rsvr := by
  unfold dirtyDevice
  split
  · dsimp only
    split
    · rfl
    · exact each_keeps (P := fun t => t.rsvr = s.rsvr) _ _ (fun p _ t h => by rw [dirtyPage_rsvr, h]) rfl
  · rfl

@[simp] theorem firstPoisonRead_rsvr (a len : Nat) (s : State) : (firstPoisonRead a len s).rsvr = s.rsvr := by
  unfold firstPoisonRead
  exact each_keeps (P := fun t => t.rsvr = s.rsvr) _ _ (fun l _ t h => by rw [raise_rsvr]; exact h) rfl

/-! ### Operations on device memory -/

/-- Storing bytes at one place. -/
theorem rawPut_mem (a : Nat) (d : List Byte) (s : State) : (rawPut a d s).rsvr.mem = cellsSet s.rsvr.mem a d := rfl

theorem rawClear_mem (a len : Nat) (s : State) : (rawClear a len s).rsvr.mem = cellsClear s.rsvr.mem a len := rfl

/-- Clearing whole words keeps the canonical form. -/
theorem clearWords_wf (l : List Nat) {m : Map Byte} (h : Memory.wf m = true) :
    Memory.wf (l.foldl (fun m w => cellsClear m (w * 8) 8) m) = true := by
  induction l generalizing m with
  | nil => exact h
  | cons c r ih => exact ih (cellsWf_cellsClear h _ _)

/-- Holding words as poison drops the bytes they held, and keeps the canonical form. -/
theorem addPoison_wf {s : State} (h : Memory.wf s.rsvr.mem = true) (ws : List Nat) :
    Memory.wf (addPoison ws s).rsvr.mem = true := clearWords_wf _ h

@[simp] theorem addPoison_nil_mem (s : State) : (addPoison [] s).rsvr.mem = s.rsvr.mem := rfl

/-- Bytes are stored at their home, and those that a mirrored pair has reached at the matching address (R365). -/
theorem memPut_mem (a : Nat) (d : List Byte) (s : State) :
    (memPut a d s).rsvr.mem = (match pairAddr a d.length s with
      | some (b, n) => cellsSet (cellsSet s.rsvr.mem (homeAddr a s) d) b (d.take n)
      | none => cellsSet s.rsvr.mem (homeAddr a s) d) := by
  unfold memPut
  dsimp only
  cases pairAddr a d.length s <;> rfl

/-- Outside a mirrored pair a byte string is stored at its own address and nowhere else. -/
theorem memPut_mem_plain {a : Nat} {s : State} (d : List Byte) (h : pairOf a s = none) :
    (memPut a d s).rsvr.mem = cellsSet s.rsvr.mem a d := by
  simp [memPut_mem, pairAddr, homeAddr, h]

theorem memPut_wf {s : State} (h : Memory.wf s.rsvr.mem = true) (a : Nat) (d : List Byte) :
    Memory.wf (memPut a d s).rsvr.mem = true := by
  rw [memPut_mem]
  split
  · exact cellsWf_cellsSet (cellsWf_cellsSet h _ _) _ _
  · exact cellsWf_cellsSet h _ _

theorem memClear_wf {s : State} (h : Memory.wf s.rsvr.mem = true) (a len : Nat) :
    Memory.wf (memClear a len s).rsvr.mem = true := by
  unfold memClear
  dsimp only
  split
  · exact cellsWf_cellsClear (cellsWf_cellsClear h _ _) _ _
  · exact cellsWf_cellsClear h _ _

/-- A read at the home changes no byte. -/
theorem homeRead_mem (a len hint : Nat) (s : State) : (homeRead a len hint s).2.2.rsvr.mem = s.rsvr.mem := by
  unfold homeRead
  split
  · rfl
  · split
    · rfl
    · dsimp only
      rw [firstPoisonRead_rsvr]
      exact each_keeps (P := fun t => t.rsvr.mem = s.rsvr.mem) _ _ (fun l _ t h => by rw [useLine_mem, h]) rfl

/-- A write at the home of bytes inside the extent stores them there, and in the pair's other place, and holds the
words given as poison (R279, R291, R365). -/
theorem homeStore_mem {a : Nat} {d : List Byte} {s : State} (hint : Nat) (bad : List Nat) (hd : d.isEmpty = false)
    (he : inExtent (a + d.length - 1) s = true) :
    (homeStore a d hint bad s).rsvr.mem = (addPoison bad (memPut a d s)).rsvr.mem := by
  unfold homeStore
  simp only [hd, he, Bool.not_true, Bool.false_eq_true, if_false]
  split
  · refine each_keeps (P := fun t => t.rsvr.mem = (addPoison bad (memPut a d s)).rsvr.mem) _ _
      (fun p _ t h => by rw [mpSend_rsvr, h]) ?_
    rw [modRsvr_rsvr, dirtyDevice_rsvr]
  · refine each_keeps (P := fun t => t.rsvr.mem = (addPoison bad (memPut a d s)).rsvr.mem) _ _
      (fun l _ t h => by split <;> simp only [touchLine_mem, useLine_mem, h]) ?_
    rw [dirtyDevice_rsvr]

theorem homeWrite_mem {a : Nat} {d : List Byte} {s : State} (hint : Nat) (hd : d.isEmpty = false)
    (he : inExtent (a + d.length - 1) s = true) :
    (homeWrite a d hint s).rsvr.mem = (memPut a d s).rsvr.mem := by
  rw [homeWrite, homeStore_mem hint [] hd he, addPoison_nil_mem]

/-- A write outside the extent is discarded and counted: no byte changes (R297). -/
theorem homeWrite_outside {a : Nat} {d : List Byte} {s : State} (hint : Nat) (hd : d.isEmpty = false)
    (he : inExtent (a + d.length - 1) s = false) :
    homeWrite a d hint s = modRsvr (fun q => { q with outside := satAdd 32 q.outside 1 }) s := by
  unfold homeWrite homeStore
  simp [hd, he]

theorem homeStore_wf {s : State} (h : Memory.wf s.rsvr.mem = true) (a : Nat) (d : List Byte) (hint : Nat)
    (bad : List Nat) : Memory.wf (homeStore a d hint bad s).rsvr.mem = true := by
  cases hd : d.isEmpty
  · cases he : inExtent (a + d.length - 1) s
    · unfold homeStore; simpa [hd, he] using h
    · rw [homeStore_mem hint bad hd he]; exact addPoison_wf (memPut_wf h a d) bad
  · unfold homeStore; simpa [hd] using h

theorem homeWrite_wf {s : State} (h : Memory.wf s.rsvr.mem = true) (a : Nat) (d : List Byte) (hint : Nat) :
    Memory.wf (homeWrite a d hint s).rsvr.mem = true := homeStore_wf h a d hint []

@[simp] theorem whenS_count_rsvr (c : Bool) (g e n k : Nat) (s : State) : (whenS c (count g e n k) s).rsvr = s.rsvr := by
  cases c <;> rfl

/-- An atomic keeps the canonical form (R284). -/
theorem homeAtomic_wf {s : State} (h : Memory.wf s.rsvr.mem = true) (a : Nat) (o : AtomOp) (hint : Nat) :
    Memory.wf (homeAtomic a o hint s).2.2.rsvr.mem = true := by
  have hr : Memory.wf (homeRead a (atomSpan o) hint s).2.2.rsvr.mem = true := by rw [homeRead_mem]; exact h
  unfold homeAtomic
  dsimp only
  split
  · exact hr
  · refine whenS_keeps (P := fun t => Memory.wf t.rsvr.mem = true) _ _ ?_ ?_
    · rw [(setEvent_traffic ..).rsvr]
      refine homeWrite_wf ?_ _ _ _
      simpa using hr
    · refine homeWrite_wf ?_ _ _ _
      simpa using hr

/-- A good or a corrected word of a read beat keeps the canonical form (R57, R291). -/
theorem mpWord_wf {s : State} (h : Memory.wf s.rsvr.mem = true) (n k a : Nat) (newer : Bool) (d : W64) (w : WordIn)
    (hw : w = .good d ∨ w = .corrected d) : Memory.wf (mpWord n k a newer w s).rsvr.mem = true := by
  have put : Memory.wf (if newer || s.rsvr.poison.contains (a / 8) then s
      else modRsvr (fun q => { q with mem := cellsSet q.mem a (toBytes 8 d.toNat) }) s).rsvr.mem = true := by
    split
    · exact h
    · exact cellsWf_cellsSet h _ _
  rcases hw with rfl | rfl
  · exact put
  · unfold mpWord mpCe
    dsimp only
    rw [modRsvr_rsvr, raise_rsvr, modMp_rsvr]
    exact put

/-- The copy of a memory move keeps the canonical form: it stores only bytes that memory lists (R365; log 31). -/
theorem moveCopied_wf {s : State} (h : Memory.wf s.rsvr.mem = true) (e : Nat) :
    Memory.wf (moveCopied e s).rsvr.mem = true := by
  have copy : ∀ (l m : Map Byte) (g : Nat × Byte → Nat), (∀ c ∈ l, c.2 ≠ 0) → cellsWf m = true →
      cellsWf (l.foldl (fun m c => mset m (g c) c.2) m) = true := by
    intro l m g hl hm
    induction l generalizing m with
    | nil => exact hm
    | cons c r ih =>
      exact ih _ (fun x hx => hl x (List.mem_cons_of_mem _ hx)) (cellsWf_mset hm _ (hl c (List.mem_cons_self ..)))
  unfold moveCopied
  split
  · exact h
  · dsimp only
    split
    · exact h
    · rw [(setEvent_traffic ..).rsvr, modEnv_rsvr]
      rename_i v _ _
      have hc : cellsWf (rawClear (v.newBase * gib) (v.llen * gib) (dropJob (moveJob e) s)).rsvr.mem = true := cellsWf_cellsClear h _ _
      exact copy _ _ _ (fun c hc' => (cellsWf_iff.mp hc).2 c (List.mem_filter.mp hc').1) hc

/-- A write of the staging window keeps the canonical form (R88). -/
theorem stagingWrite_wf {s : State} (h : Memory.wf s.spl.staging = true) (p : HP) (off : BitVec 23) (d : List Byte) :
    ∃ t, execStagingWrite p off d s = .next t ∧ Memory.wf t.spl.staging = true := by
  refine ⟨_, rfl, ?_⟩
  rw [errOutputs_spl]
  split
  · exact h
  · split
    · exact cellsWf_cellsSet h _ _
    · exact h

end Sys2Proof.Machine
end

