-- ==== Sys2Proof/WellFormed.lean ====
section
/-! DEFINITION. The form of a command: what the port or bus that brings it guarantees of the lengths and counts of its
operands, which their types do not say. A command without such operands is always well formed. -/
namespace Sys2Proof

/-- A posted write of a host carries 1 to 512 bytes, the largest Max Payload Size of Table 5-1. -/
def wfPosted (d : List Byte) : Bool := 0 < d.length && d.length ≤ 512

/-- A controller's training report names lanes 0 to 11 and at most 2,047 GiB (R286, Table 3-11). -/
def wfReport (r : TrainReport) : Bool := r.gib < 2048 && r.lanes.all fun l => l < 12

/-- The bytes listed lie in the NVM (R68). -/
def wfNvm (n : NvmData) : Bool := n.bytes.all fun e => e.1 < n.mib * 2 ^ 20

/-- An IDE key slot is 256 bits wide at most; DOE bytes come in double words (R116). -/
def wfDoe : DoeReq → Bool
  | .spdm m _ => m.length % 4 == 0
  | .securedSpdm m _ => m.length % 4 == 0
  | .ideKeyProg _ k => k < 2 ^ 256
  | .discovery i => i < 256
  | .other v t => v < 2 ^ 16 && t < 256
  | .ideGo _ => true
  | .ideStop _ => true

/-- CXL.mem moves whole lines of 64 bytes (R271). -/
def wfCxl : CxlOp → Bool
  | .wrI d _ => d.length == 64
  | .evict d _ => d.length == 64
  | .rdA => true
  | .rdS => true
  | .rdI => true
  | .conflict => true

/-- A data beat brings 8 words (Table 3-7). -/
def wfBeat : MpBeat → Bool
  | .data _ ws _ => ws.length == 8
  | .writeDone => true
  | .error => true

/-- A partial record begins with its 32-byte header (Table 13-6). -/
def wfRecord (b : List Byte) : Bool := 32 ≤ b.length

/-- A frame carries one credit count for each of the 4 virtual channels (R338). -/
def wfFrame (f : FrameIn) : Bool :=
  f.symbols.length == 4 && f.symbols.all (fun e => decide (e.getD 0 ≤ 8)) && decide (f.slots.length ≤ 4096)

/-- A command is well formed. -/
def wfInstr : Instr → Bool
  | .selfTest bad absent => bad.length ≤ 1024 && absent.length ≤ 512
  | .spoolRead n => wfNvm n
  | .memoryTraining reports => reports.length ≤ 72 && reports.all fun r => wfReport r.2.1 && wfReport r.2.2
  | .hostPortLinkUp links => links.length ≤ 4
  | .stagingWrite _ _ data => wfPosted data
  | .mpResponse _ _ b => wfBeat b
  | .store _ h data => data.length == h.len.toNat + 1
  | .tileWriteData _ _ _ _ data => 0 < data.length && data.length ≤ 64
  | .rillWrite _ _ _ off data => wfPosted data && off.toNat + data.length ≤ 4096
  | .hostWindowWrite _ _ _ data => wfPosted data
  | .placementWrite _ _ _ data => wfPosted data
  | .doeRequest _ r => wfDoe r
  | .completion _ _ data _ => data.length ≤ 4096
  | .cxlMemRequest _ _ _ _ op => wfCxl op
  | .hostGo _ _ _ data => data.length == 0 || data.length == 64
  | .inlineWrite _ h _ _ _ data => data.length == 64 * h.ext.val
  | .dirtyData _ data _ => data.length == 64
  | .wbData _ data _ => data.length == 64
  | .partialRecord _ bytes => wfRecord bytes
  | .frame _ f => wfFrame f
  | .linkInit _ _ _ credits => credits.length == 4
  | .fabricWrite _ _ data => 0 < data.length && data.length ≤ 4096
  | .rdata _ _ _ data => data.length ≤ 4096
  | .announce _ _ _ chips => chips.length ≤ 4096
  | .resultRecord _ bytes => wfRecord bytes
  | .powerOnReset .. | .warmReset .. | .perst .. | .tapReset .. | .tetherAcquire .. | .tetherAcqTimeout ..
  | .fabricBringUp .. | .envelopeInstantiation .. | .trainTimeout .. | .journalAppend .. | .stageOpen ..
  | .stageAuth .. | .stageAuthDone .. | .stageBoot .. | .commit .. | .commitEnd .. | .hostlossWaitExpiry ..
  | .tickEdge .. | .linkDelayExchange .. | .deadlineMiss .. | .elect .. | .electionComplete .. | .ppsEdge ..
  | .referenceAbsent .. | .holdoverEntry .. | .freeRunEntry .. | .syncRegained .. | .stepGo .. | .registerWrite ..
  | .countRead .. | .faultRecordRead .. | .ctxFaultRead .. | .mpReqCredit .. | .mpWdCredit .. | .mpTimeout ..
  | .narrowResponse .. | .trainDone .. | .laneFail .. | .mpQuiesced .. | .bistDone .. | .ctrlError .. | .keyAck ..
  | .ilvPublish .. | .load .. | .tileRead .. | .tileWrite .. | .atomic .. | .release .. | .acquire ..
  | .vc0FenceSignal .. | .vc0FenceWait .. | .vc0Alloc .. | .vc0Free .. | .vc0Reduce .. | .completionReport ..
  | .cfCreditReturn .. | .cfCreditTimeout .. | .coreError .. | .coreQuiesced .. | .coreResetReply ..
  | .coreBistReply .. | .mgmtRequest .. | .sensorSample .. | .sensorStale .. | .tapInstruction ..
  | .configRequest .. | .functionLevelReset .. | .flrComplete .. | .vfEnableChange .. | .priEnableWrite ..
  | .powerStateChange .. | .msixTableWrite .. | .submitDoorbell .. | .completionDoorbell .. | .hostWindowRead ..
  | .hostWindowAtomic .. | .windowReadLate .. | .placementRead .. | .ideIntegrityFailure .. | .atsCompletion ..
  | .atsInvalidateRequest .. | .invalidateCompletion .. | .prgSend .. | .prgResponse .. | .priTimeout ..
  | .flushCompletion .. | .completionTimeout .. | .dlDown .. | .hotReset .. | .replayComplete .. | .linkRecovery ..
  | .bucketMove .. | .aspmL1Entry .. | .l0pRequest .. | .pmeResend .. | .vecAlloc .. | .hdmMapWrite ..
  | .h2dSnoop .. | .bisnpResponse .. | .biTimeout .. | .adminEnable .. | .nop .. | .dispatch .. | .copy ..
  | .fill .. | .convert .. | .reduce .. | .fenceSignal .. | .fenceWait .. | .alloc .. | .free .. | .query ..
  | .ctxCreate .. | .ctxDestroy .. | .ctxResume .. | .ctxReclaim .. | .queueCreate .. | .queueDestroy ..
  | .queueStop .. | .queueStart .. | .fenceCreate .. | .fenceDestroy .. | .regionRegister .. | .regionRevoke ..
  | .rillBind .. | .rillUnbind .. | .abortTimeout .. | .destructionEnd .. | .quarantineEnd .. | .walkComplete ..
  | .peerMapFill .. | .filterSweepDone .. | .windowSlide .. | .classWrite .. | .pieceAdmission .. | .fenceRead ..
  | .fenceReset .. | .setMirror .. | .clearMirror .. | .arm .. | .disarm .. | .fenceTimeout ..
  | .mirrorWriteAccepted .. | .moderationDelay .. | .rdShared .. | .rdOwn .. | .upgrade .. | .wrBack ..
  | .evictClean .. | .rspI .. | .rspS .. | .rspIDirty .. | .rspSDirty .. | .cmpAck .. | .flushDone ..
  | .snpTimeout .. | .flushTimeout .. | .reclaimSweepEnd .. | .agentEnable .. | .rangeWrite .. | .biasAction ..
  | .biasFlipEnd .. | .retire .. | .narrowGo .. | .bucketCopyDone .. | .chunkSend .. | .chunkLateTimeout ..
  | .linkRetrain .. | .retrainTimeout .. | .laneError .. | .flTrainDone .. | .bringUpTimeout .. | .flkRestore ..
  | .fabricRead .. | .fabricAtomic .. | .fenceOp .. | .fenceDone .. | .aresp .. | .eack .. | .hello ..
  | .helloSend .. | .sync .. | .delay .. | .sessionInit .. | .sessionReply .. | .sessionFinish .. | .sessionDone ..
  | .e2eResend .. | .rekey .. | .fabricCreditTimeout .. | .peerLostTimeout .. | .pathMove .. | .create .. | .update .. | .createScrubDone ..
  | .remove .. | .removalEnd .. | .coreBind .. | .peerSet .. | .peerClear .. | .memMove .. | .moveCopied ..
  | .memSwitch .. | .memRelease .. | .memLen .. | .pause .. | .resume .. | .dirtyStart .. | .dirtyStop ..
  | .dirtyHeadWrite .. | .zeroiseAll .. | .errorInput .. | .quietPeriod .. | .unitTest .. | .unitRetire ..
  | .unitReturn .. | .unitSubstitute .. | .unitTestDone .. | .watchdogTimeout .. | .patrolScrub ..
  | .sluiceAnnounce .. | .sluiceResume .. | .sluice .. | .sluiceAck .. | .sluiceMark .. | .resumeNotice ..
  | .sluiceCaptureEnd .. | .sluiceResumeEdge .. | .holdExpiry .. | .traceDump .. | .traceMark ..
  | .auditHeadWrite .. | .auditStallRelease .. | .perstDeassert .. | .hostLinkTrained .. | .hostL0pRequest ..
  | .managerGroup .. | .coreOverdue .. | .rewriteDone .. | .peerRemoval .. => true

end Sys2Proof
end

