-- ==== Sys2Proof/Tests/Slice0.lean ====
section
/-! SUPPORT. The model's own tests: a refused term for each check of WellFormed, small tests whose expected results come from
the spec, and for every statement concrete states and operands that meet the hypotheses of each of its clauses. -/
open Sys2Proof Sys2Proof.Machine
namespace Sys2Proof.Tests

/-! ### Ill-formed commands, one for each check of WellFormed -/

def tHdr : PktHdr := ⟨0, 2, 0, 2, 5, 0, false, 0, true⟩
def tCoh : CohHdr := ⟨none, 0, 0, 0, false, false, true, true⟩
def tVc0 : Vc0Hdr := ⟨0, 0, 0, 0, 0, 3, 0, 0, 0, 0, 0, none⟩
def tBytes (n : Nat) : List Byte := List.replicate n 0
def tReport (g : Nat) (l : List Nat) : TrainReport := { done := true, pass := true, gib := g, lanes := l }
def tNvm : NvmData := ⟨true, 64, true, [(2 ^ 26, 1)], [], [], 0⟩
def tFrame : FrameIn := ⟨[some 9, some 0, some 0, some 0], [], 0⟩

theorem test_wf_start : (([.selfTest (List.replicate 1025 ⟨0, 0⟩) [], .selfTest [] (List.replicate 513 0), .spoolRead tNvm,
    .memoryTraining (List.replicate 73 (0, tReport 4 [], tReport 4 [])), .memoryTraining [(0, tReport 2048 [], tReport 4 [])],
    .memoryTraining [(0, tReport 4 [], tReport 4 [12])], .hostPortLinkUp (List.replicate 5 (0, ⟨0, 0, true, 0, []⟩)),
    .stagingWrite 0 0 [], .stagingWrite 0 0 (tBytes 513)] : List Instr).any wfInstr) = false := by decide +kernel

theorem test_wf_ports : (([.mpResponse 0 0 (.data 0 [⟨0, 0⟩] false), .store 0 tVc0 (tBytes 3), .tileWriteData 0 0 0 0 [],
    .tileWriteData 0 0 0 0 (tBytes 65), .rillWrite ⟨{}, 0⟩ 1 0 0 [], .rillWrite ⟨{}, 0⟩ 1 0 0xFFF (tBytes 2),
    .hostWindowWrite ⟨{}, 0⟩ 1 0 [], .placementWrite ⟨{}, 0⟩ 0 none (tBytes 513), .doeRequest 0 (.spdm [1] none),
    .doeRequest 0 (.securedSpdm [1] none), .doeRequest 0 (.ideKeyProg 0 (2 ^ 256)), .doeRequest 0 (.discovery 256),
    .doeRequest 0 (.other 65536 0), .completion 0 0 (tBytes 4097) false, .cxlMemRequest 0 0 ⟨⟨0, 0, 0, 0⟩, 0⟩ 0 (.wrI [1] false),
    .cxlMemRequest 0 0 ⟨⟨0, 0, 0, 0⟩, 0⟩ 0 (.evict [1] false), .hostGo 0 0 0 [1]] : List Instr).any wfInstr) = false := by
  decide +kernel

theorem test_wf_fabric : (([.inlineWrite 1 {} 0 0 0 [1], .dirtyData tCoh [1] false, .wbData tCoh [1] false,
    .partialRecord tHdr (tBytes 31), .resultRecord tHdr (tBytes 31), .frame 0 tFrame, .linkInit 0 0 0 [], .fabricWrite tHdr 0 [],
    .fabricWrite tHdr 0 (tBytes 4097), .rdata tHdr 0 .ok (tBytes 4097), .announce 0 0 0 (List.replicate 4097 0)] :
    List Instr).any wfInstr) = false := by decide +kernel

theorem test_wf_allows : (([.store 0 tVc0 (tBytes 4), .stagingWrite 0 0 (tBytes 512), .create 0 (.full 0) (),
    .partialRecord tHdr (tBytes 32), .powerOnReset] : List Instr).all wfInstr) = true := by decide +kernel

/-! ### Small tests: expected results from the spec's examples and tables -/

theorem test_reset_queue : State.reset.pending = [] := by decide

/-- Table 12-3: chip 12, local address 0xA4_3B2C_7E40 lies in bucket 13 and set 1,201 of its slice. -/
theorem test_bucket_of_table_12_3 :
    bucketOf 0xA43B2C7E40 { spl := { chip := 12 } } = 13 ∧
    lineSet (0xA43B2C7E40 / 64) { spl := { chip := 12 }, rsvr := { buckets := [(13, { port := 13, base := 0, slice := 13 })] } } =
      13 * 1536 + 1201 := by decide +kernel

/-- Table 13-12: chips 96 to 99 contribute 2^24, 1, −2^24 and 1; the accumulators, descriptors and words of the table. -/
theorem test_table_13_12 :
    (accAdd false (decodeVal .fp32 0x4B800000) {}).a = 2 ^ 173 ∧
    cxpElem false (accAdd false (decodeVal .fp32 0x3F800000) {}) = (4, 1, [0x00200000]) ∧
    cxpElem false (accAdd false (decodeVal .fp32 0xCB800000) {}) = (5, 1, [0xFFFFE000]) ∧
    cxpElem false (accAdd false (decodeVal .fp32 0) {}) = (2, 0, []) := by decide +kernel

/-- The worked example of chapter 13: the exact sum is 2.0, BF16 0x4000, whatever the order. -/
theorem test_worked_sum :
    (encodeVal .bf16 0 false 0 0 (accVal false 0 (sumOf false
      ([0x4B800000, 0x3F800000, 0xCB800000, 0x3F800000].map (decodeVal .fp32))))).1 = 0x4000 ∧
    (encodeVal .bf16 0 false 0 0 (accVal false 0 (sumOf false
      ([0x3F800000, 0xCB800000, 0x3F800000, 0x4B800000].map (decodeVal .fp32))))).1 = 0x4000 := by decide +kernel

/-- The same in ordered mode is 1.0: block [96, 98) rounds to 2^24, block [98, 100) is −2^24 + 1. -/
theorem test_ordered_sum :
    vecAdd .fp32 0 false [0x4B800000] [0x3F800000] = [0x4B800000] ∧
    vecAdd .fp32 0 false (vecAdd .fp32 0 false [0x4B800000] [0x3F800000]) (vecAdd .fp32 0 false [0xCB800000] [0x3F800000]) =
      [0x3F800000] := by decide +kernel

/-- The example of R243: a compatibility fence at 0xFFFF_FFF0 takes 5 and wraps, a wait for 0xFFFF_FFF8 is then satisfied,
and a signal of 0x7FFF_FFF0 would put it in ERROR. -/
theorem test_compatibility_fence :
    let s : State := { que := { fences := [(0, { value := 0xFFFFFFF0, compat := true, scope := 0, ctx := 0 })] } }
    (fenceSignal 0 5 {} {} s).1 = (.ok, 5) ∧
    targetMet { value := 5, compat := true, scope := 0, ctx := 0 } 0xFFFFFFF8 = true ∧
    (fenceSignal 0 0x7FFFFFF0 {} {} s).1 = (.fenceError, 0xFFFFFFF0) := by decide +kernel

/-- Table 14-8: with all 32 links up the path of chip 12 to chip 25 is link 5, and without FL5 it is FL7. -/
theorem test_path_of_table_14_8 :
    let s (l : List Nat) : State := { spl := { chip := 12, peers := [(25, { st := .active, linkMask := 0xFFFFFFFF })] },
                                      fab := { links := l.map fun k => (k, { st := .up }) } }
    pathFor 25 (s (List.range 32)) = some 5 ∧ pathFor 25 (s ((List.range 32).filter (· != 5))) = some 7 := by decide +kernel

/-- R6 and R122: little-endian bytes, and the fields of a handle. -/
theorem test_bytes_and_handles :
    toBytes 4 0x11223344 = [0x44, 0x33, 0x22, 0x11] ∧ handleOf 0x0000000700000503 = ⟨3, 0, 5, 7⟩ := by decide +kernel

/-- R302 and R304: ties go to even, and 65,520 overflows FP16 to infinity without SAT and to 65,504 with it. -/
theorem test_rounding_fp16 :
    (encodeVal .fp16 0 false 0 0 (.fin false 2049 0)).1 = 0x6800 ∧ (encodeVal .fp16 0 false 0 0 (.fin false 2051 0)).1 = 0x6802 ∧
    (encodeVal .fp16 0 false 0 0 (.fin false 65520 0)).1 = 0x7C00 ∧
    (encodeVal .fp16 0 true 0 0 (.fin false 65520 0)).1 = 0x7BFF := by decide +kernel

/-- 1.0 of BF16 and minus infinity of FP16 are addends of the narrow class. -/
theorem addends_witness : Addends false [decodeVal .bf16 0x3F80, decodeVal .fp16 0xFC00] := by
  intro v h
  rcases List.mem_cons.1 h with h | h
  · exact ⟨.bf16, 0x3F80, by decide, by decide, h⟩
  · exact ⟨.fp16, 0xFC00, by decide, by decide, by simpa using h⟩

theorem one_mem {α : Type} {l : List α} {x : α} {p : α → Prop} (e : l = [x]) (h : p x) : ∀ y ∈ l, p y := by
  intro y hy
  rw [e] at hy
  rw [List.mem_singleton.1 hy]
  exact h

theorem not_passes {r : HRes} {st : Status} {a b : Prop} (e : r = .fail st) (h : st ≠ .revoked) :
    ¬ ((∃ n, r = .slot n) ∨ (a ∧ b ∧ r = .fail .revoked)) := by
  rintro (⟨n, h1⟩ | ⟨_, _, h1⟩)
  · rw [e] at h1; cases h1
  · rw [e] at h1; cases h1; exact h rfl

theorem many_waits (w : Wait) (h : w.registered = true) (n : Nat) :
    ((List.replicate n ((0 : Nat), w)).filter fun e => e.2.registered).length = n := by
  rw [List.filter_replicate]; simp [h]

/-- Reset values of Tables 0-3, 5-9, 6-16, 12-7 and 18-3. -/
theorem test_register_resets :
    regFields 0 0 0 State.reset = 0x010402 ∧ regFields 0 0 0x18038 State.reset = 0xF8000800 ∧
    regFields 0 0 0x1C008 State.reset = 0x1000 + 0x10000 * 2 ^ 16 + 0x4000 * 2 ^ 33 ∧
    regFields 0 0 0x30008 State.reset = 0x48 ∧ regFields 0 0 0x8 State.reset = 0x7FFC := by decide


theorem ex_quad {a b c d : Type} {p q : Prop} (x : (a × b × c) × d) (hp : p) (hq : q) :
    ∃ (i : a) (j : b) (k : c) (l : d), p ∧ q ∧ x = ((i, j, k), l) := ⟨_, _, _, _, hp, hq, rfl⟩

/-- The check value of CRC-32C: that of the bytes "123456789". -/
theorem test_crc32c : crc32c (toBytes 9 0x393837363534333231) = 0xE3069283 := by decide

/-- The descriptor of Table 14-8's WRITE from chip 12 to chip 25: TYPE, SLOTS, LEN_LAST, DST, SRC and ESEQ where Table 14-4a
places them. -/
theorem test_descriptor :
    msgHead 12 0 (.packet ⟨25, 3, 0x3E8, 0, 0, false, { body := .write 0 0 (tBytes 64) }⟩) % 2 ^ 63
      = 1 + 1 * 2 ^ 4 + 63 * 2 ^ 11 + 25 * 2 ^ 17 + 12 * 2 ^ 30 + 0x3E8 * 2 ^ 43 := by decide

/-- Byte 4,100 of a frame, in its header: word cycle 16, lane 0, bits [39:32] at 8 lanes (R328), and cycle 32 at 4 (R330). -/
theorem test_frame_place : frameAt 8 4100 = (16, 0, 32) ∧ frameAt 4 4100 = (32, 0, 32) := by decide

/-! ### States that meet the hypotheses of the statements -/

/-- An envelope that is READY: function 1, fabric tag 5, 16 GiB from 16 GiB on, two cores. -/
def wEnv : Env :=
  { st := .ready, vf := 1, tag := 5, kgen := 1, hostId := 0, classMask := 0xFFFF, remoteRights := 7, lbase := 16, llen := 16
    qCtx := 8, qQueue := 8, qFence := 8, qRegion := 8, qObj := 8, vectors := 4, cores := [8, 9], rill := [3]
    blocks := [(34, 0)] }

/-- Its context, queues (admin and data), object, fence, region and Rill slot. -/
def wCtx : Ctx := { st := .active, fn := 1, env := some 1, pasid := 7, ptObj := none, defCls := 2 }
def wAdmin : Queue :=
  { ctx := none, fn := 1, ring := 2 ^ 56 + 4096, cpl := 2 ^ 56 + 8192, k := 4, fetchMax := 64, vector := 0, db := 0
    tail := 1, upTo := 1, entries := [{ pos := 0, num := 0, paid := true, here := true }] }
def wQ : Queue :=
  { ctx := some 0, fn := 1, ring := 2 ^ 56 + 65536, cpl := 2 ^ 56 + 131072, k := 4, fetchMax := 64, vector := 1, db := 1
    tail := 1, upTo := 1, entries := [{ pos := 0, num := 0, paid := true, here := true }] }
def wObj : Obj := { ctx := some 0, env := 1, off := 0, log2 := 12, rights := 7, shared := false }
def wFence : Fence := { value := 5, scope := 0, ctx := 0 }
def wRegion : Region := { ctx := 0, obj := 0, off := 0, len := 4096, key := 9, win := 0, nwin := 1 }
def wRill : Rill := { ctx := some 0, core := 1 }

def wHdr : CmdHdr := { cls := 2, scope := 1, deadline := 5 }
def wCmd : Cmd := { queue := 1, pos := 0, body := .nop, hdr := wHdr, st := .running, ctxGen := 0 }
def wReq : Req := { who := .block, fn := 1, env := some 1, ident := { ctx := some 0, cls := 2 }, op := .load 64 64, st := .reading }

/-- A chip in operation: host port 0 up with the physical function and function 1, one context, an admin and a data queue, an
object, a fence, a Rill slot and a region; fabric link 0 up and peer 2 ACTIVE; memory port 0 in service. -/
def S0 : State :=
  { time := { now := 16000000, st := .locked }
    spl := { phase := 8, begun := [4, 7], ended := [1, 2, 3, 4, 5, 6, 7], chip := 1
             img := { hpEn := 1, flEn := 1, mpEn := 1, cfEn := 2, vendorId := 0x1234, deviceId := 1, numVfs := 4, planes := [0]
                      chipNumber := 1 }
             peers := [(2, { st := .active, linkMask := 1, digest := some 77 })] }
    ep := { ports := [(0, { link := 2, st := .up, perst := false })], mgr := [0]
            funcs := [(1, { env := some 1, vectors := 4 })]
            insts := [(0, { cfg := [(1, 6), (0xC2, 8)] }), (4, {})] }
    env := { envs := [(1, wEnv)] }
    que := { ctxSlots := { fresh := 1 }, queSlots := { fresh := 2 }, objSlots := { fresh := 1 }, fenSlots := { fresh := 1 }
             regSlots := { fresh := 1 }
             ctxs := [(0, wCtx)]
             queues := [(0, wAdmin), (1, wQ)]
             objs := [(0, wObj)]
             fences := [(0, wFence)]
             regions := [(0, wRegion)]
             rills := [(3, wRill)] }
    fab := { links := [(0, { st := .up, mask := 0xFF, cred := [(0, 64), (1, 64), (2, 64), (3, 64)] })]
             peers := [(2, { sess := .established, live := true, path := some 0 })] }
    port := { mp := [(0, { st := .inService, gib := 64 })] }
    rsvr := { extent := 64 } }

/-- The same chip with other queue state, endpoint state, and so on. -/
def qS (f : QueState → QueState) : State := { S0 with que := f S0.que }
def eS (f : EndState → EndState) : State := { S0 with ep := f S0.ep }
def rS (key : Nat) (v : W64) : State := setRaw key v S0

def w1 : State := { S0 with spl := { phase := 2, ended := [1] } }
def w2 : State := { S0 with spl := { phase := 3, ended := [1, 2], img := { mpEn := 1 } } }
def w3 : State := { S0 with spl := { phase := 4, ended := [1, 2, 3], img := { acqTicks := 5 }, acqTicks := 5 } }
def w4 : State := { { S0 with spl := { phase := 4, begun := [4], ended := [1, 2, 3], img := { acqTicks := 5 }, acqTicks := 5 } } with time := { S0.time with st := .locked } }
def w5 : State := { { S0 with spl := { phase := 4, begun := [4], ended := [1, 2, 3] } } with time := { S0.time with st := .acquire, isRoot := false, election := none, offset := -1000, syncRun := 1 } }
def w6 : State := { { S0 with spl := { phase := 4, begun := [4], ended := [1, 2, 3], img := { acqTicks := 5 }, acqTicks := 5 } } with time := { S0.time with st := .acquire } }
def w7 : State := { S0 with time := { st := .acquire }, spl := { phase := 4, begun := [4], ended := [1, 2, 3] } }
def w8 : State := { S0 with spl := { phase := 5, ended := [1, 2, 3, 4], img := { hpEn := 1 } }, ep := { ports := [(0, { perst := false, link := 1 })] } }
def w9 : State := { S0 with spl := { phase := 5, ended := [1, 2, 3, 4], img := { hpEn := 1 } }, ep := { ports := [(0, { perst := false })] } }
def w10 : State := { S0 with spl := { phase := 6, ended := [1, 2, 3, 4, 5] } }
def w11 : State := { S0 with spl := { phase := 7, ended := [1, 2, 3, 4, 5, 6] }, env := {} }
def w12 : State := { S0 with spl := { phase := 7, ended := [1, 2, 3, 4, 5, 6], img := { S0.spl.img with templates := [[1, 0, 0, 0, 2, 0, 7, 0, 1, 0, 0, 0, 255, 255, 7, 0, 40, 0, 0, 0, 1, 0, 0, 0, 1, 0, 1, 0, 1, 0, 1, 0, 1, 0, 0, 0, 1, 0]] } } }
def w13 : State := { S0 with spl := { S0.spl with stage := .authenticating } }
def w14 : State := { S0 with spl := { S0.spl with stage := .opened } }
def w15 : State := { S0 with spl := { S0.spl with commitBusy := true } }
def w16 : State := { S0 with spl := { S0.spl with journalWait := [({ seq := 0, lane := ⟨0, 0, 3, 64⟩, marker := none, tick := 1000, mac := 0 } : JournalEntry)] } }
def w17 : State := { S0 with spl := { S0.spl with laneMap := [⟨0, 1, 0, 64⟩] } }
def w18 : State := { S0 with spl := { S0.spl with stage := .authenticated, stageOk := true } }
def w19 : State := { S0 with spl := { S0.spl with stage := .authenticated, stageOk := true, commitBusy := true } }
def w20 : State := { S0 with spl := { S0.spl with stage := .authenticated, stageOk := true, recovery := true } }
def w21 : State := { S0 with spl := { S0.spl with hostLoss := [(1, 3000)], img := { S0.spl.img with hostLossWaitMs := 3 } } }
def w22 : State := { S0 with ep := { S0.ep with ports := [(0, { perst := false })] } }
def w23 : State := (eS fun e => { e with ports := [(0, { laneOut := [0, 3] })] })
def w24 : State := { S0 with ep := { S0.ep with ports := [(0, { perst := false, link := 1 })] }, spl := { S0.spl with ended := [1, 2, 3, 4, 5] } }
def w25 : State := { S0 with ep := { S0.ep with ports := [(0, { perst := false, link := 1 })] } }
def w26 : State := { S0 with ep := { S0.ep with mgr := [] }, spl := { S0.spl with recovery := true, recoveryTicks := 100000 } }
def w27 : State := { S0 with ep := { S0.ep with ports := [(0, { link := 2, st := .up, perst := false, nps := [({ tag := 3, fn := 1, fnGen := 1, ctx := none, ctxGen := 0, pasid := none, addr := 4096, len := 128, purpose := .access 4 0 } : NpReq)], seq := 9, covered := 8 })] } }
def w28 : State := { S0 with ep := { S0.ep with ports := [(0, { link := 2, st := .up, perst := false, nps := [({ tag := 3, fn := 1, fnGen := 0, ctx := none, ctxGen := 0, pasid := none, addr := 4096, len := 128, purpose := .fetch 1 0 } : NpReq)], seq := 9, covered := 8 })] } }
def w29 : State := { S0 with ep := { S0.ep with ports := [(0, { link := 2, st := .up, perst := false, nps := [({ tag := 3, fn := 1, fnGen := 0, ctx := none, ctxGen := 0, pasid := none, addr := 4096, len := 128, purpose := .flush 7 } : NpReq)], seq := 9, covered := 8 })] } }
def w30 : State := { S0 with tr := { ats := [({ tag := 1, port := 0, fn := 1, fnGen := 0, pasid := 7, page := 5, waiters := [(0, 4)] } : Ats)] } }
def w31 : State := { S0 with ep := { S0.ep with replays := [({ lost := 1, fn := 1, port := 0, entries := [], buckets := [3], nps := [], coverSeq := 5 } : Replay)] } }
def w32 : State := { S0 with ep := { S0.ep with replays := [({ lost := 1, fn := 1, port := 0, entries := [], buckets := [3], nps := [], coverSeq := 0 } : Replay)] } }
def w33 : State := { S0 with ep := { S0.ep with moves := [({ fn := 1, bucket := 3, src := 0, dst := 2, need := 8 } : BucketMove)], ports := [(0, { link := 2, st := .up, perst := false, seq := 9, covered := 7 })] } }
def w34 : State := { S0 with ep := { S0.ep with moves := [({ fn := 1, bucket := 3, src := 0, dst := 2, need := 8 } : BucketMove)], ports := [(0, { link := 2, st := .up, perst := false, seq := 9, covered := 8 })] } }
def w35 : State := { S0 with ep := { S0.ep with ports := [(0, { link := 2, st := .up, perst := false, idle := 64, lowTicks := 1024 })], insts := [(0, { cfg := [(0x18, 2), (1, 6)] })] } }
def w36 : State := { S0 with ep := { S0.ep with ports := [(0, { link := 2, st := .up, perst := false, lstate := .l0p, width := 1, queued := 5000, rate := 6 })] } }
def w37 : State := (eS fun e => { e with insts := [(4, { pmeStatus := true })] })
def w38 : State := { S0 with spl := { S0.spl with ended := [1] } }
def w39 : State := (eS fun e => { e with funcs := [(1, { env := some 1, vectors := 4, flrBusy := true })] })
def w40 : State := (eS fun e => { e with funcs := [(1, { env := some 1, vectors := 4, priStopped := true })] })
def w41 : State := (eS fun e =>
    { e with funcs := [(1, { env := some 1, vectors := 4, priStopped := true, priCleared := true })] })
def w42 : State := { S0 with que := {}, ep := { S0.ep with funcs := [(1, { env := some 1, vectors := 4, flrBusy := true, heldCfg := [⟨0, true, .write 0x11 15 3⟩] })], msix := [(2048, {}), (4096, {})] } }
def w43 : State := setRaw (fnKey 1 fQUE_ADMIN_CFG) 4 { S0 with que := { queSlots := { fresh := 65536 } } }
def w44 : State := setRaw (fnKey 1 fQUE_ADMIN_CFG) 4 { S0 with que := {} }
def w45 : State := setRaw (fnKey 1 fQUE_ADMIN_CFG) 4 (setRaw (fnKey 1 fQUE_ADMIN_RING) 5 S0)
def w46 : State := (eS fun e => { e with ports := [(0, { link := 2, st := .up, perst := false, spdm := true })] })
def w47 : State := (eS fun e =>
    { e with ports := [(0, { link := 2, st := .up, perst := false, spdm := true, ideKeys := [(3, 7)] })] })
def w48 : State := (eS fun e =>
    { e with ports := [(0, { link := 2, st := .up, perst := false, spdm := true, ideKeys := [(3, 7)], ideRun := [3] })] })
def w49 : State := { S0 with reg := { S0.reg with sel := [(4 * rEPT_FUNC_SEL, 3)] } }
def w50 : State := (mgrOffer 0 (rEPT_HDM_MAP + 16) (.full 0x1111222233334444) S0).2
def w51 : State := setRaw (rEPT_HDM_MAP + 16) 3 { S0 with ep := { S0.ep with hdm := [(2, ⟨0, 0x10000000, 0, 0⟩)] } }
def w52 : State := each (List.range 4) portTick (syncSend (bindingEdge (guaranteeEdge (parkPieces (edgeFirst 16000 true
    S0)))))
def w53 : State := { S0 with time := { now := 16000000, st := .holdover, errBound20 := 5 } }
def w54 : State := { S0 with time := { now := 16000000, st := .freeRun, errBound20 := 5 } }
def w55 : State := { S0 with time := { now := 16000000, st := .stepPending, stepGo := true, stepOffset := -77 } }
def w56 : State := { S0 with time := { now := 16000000, st := .locked, exchange := [(0, 900)] } }
def w57 : State := { S0 with time := { S0.time with excluded := [0] } }
def w58 : State := { S0 with time := { S0.time with heard := [(0, (100, ⟨15999900, 0, 15999990, 0, 0, 2⟩)), (1, (-90000, ⟨15999900, 0, 15999990, 0, 0, 2⟩))] }, fab := { S0.fab with links := [(0, { st := .up, mask := 1 }), (1, { st := .up, mask := 1 })] } }
def w59 : State := { S0 with time := { S0.time with heard := [(0, (100, ⟨15999900, 0, 15999990, 0, 0, 2⟩)), (1, (101, ⟨15999900, 0, 15999990, 0, 0, 2⟩))] }, fab := { S0.fab with links := [(0, { st := .up, mask := 1 }), (1, { st := .up, mask := 1 })] } }
def w60 : State := { S0 with time := { now := 16000000, st := .locked, election := some 40, claims := [({ quality := 1, priority := 3, chip := 2 } : RootClaim)] } }
def w61 : State := { S0 with time := { now := 16000000, st := .locked, election := some 3 } }
def w62 : State := { S0 with time := { now := 16000000, st := .locked, isRoot := true, awaitPps := true } }
def w63 : State := { S0 with time := { now := 16000000, st := .locked, isRoot := true }, port := { S0.port with refPps := true } }
def w64 : State := { S0 with time := { now := 16000000, st := .locked, noSync := 4 } }
def w65 : State := { S0 with time := { now := 16000000, st := .holdover, errBound20 := 20001 } }
def w66 : State := { S0 with time := { now := 16000000, st := .holdover, syncRun := 16, offset := 320 } }
def w67 : State := { S0 with time := { now := 16000000, st := .freeRun, syncRun := 16, offset := -25601 } }
def w68 : State := { S0 with time := { now := 16000000, st := .stepPending, stepOffset := 5 } }
def w69 : State := { S0 with reg := { S0.reg with half := [(4 * rSYN_MGR_VEC, 0xFFFFFFFF)] } }
def w70 : State := { S0 with spl := { S0.spl with img := { S0.spl.img with ports := [{ ideRequired := true }] } } }
def w71 : State := { S0 with reg := { S0.reg with cnt := [(64 * rTTH_EVENT + 1, 3)] } }
def w72 : State := (qS fun q => { q with ctxs := [(0, { wCtx with fault := 9 })] })
def w73 : State := { S0 with reg := { S0.reg with cnt := [(64 * rTTH_EVENT + 1, 3), (64 * rTTH_EVENT + 2, 9)] } }
def w74 : State := (eS fun e =>
    { e with funcs := [(1, { env := some 1, vectors := 4, fault := { first := some ⟨2 ^ 56, 1, 3, 0, 7⟩, count := 1 } })] })
def w75 : State := (qS fun q => { q with ctxs := [(0, { wCtx with fault := 0x500000009 })] })
def w76 : State := setRaw rOBS_SNAP 1 { S0 with obs := { S0.obs with holdTicks := 1000 } }
def w77 : State := setRaw rOBS_TRACE_CTL 1 (setRaw rOBS_TRACE_FILTER 0x10000 (setRaw rOBS_TRACE_MATCH 0x201000 S0))
def w78 : State := setRaw rOBS_TRACE_CTL 4 (setRaw rOBS_TRACE_RING 0x100000 S0)
def w79 : State := { S0 with reg := { S0.reg with half := mset S0.reg.half (4 * rOBS_TRACE_MARK) 7 } }
def w80 : State := { S0 with port := { mp := [(0, { st := .inService, gib := 64, opened := [({ tag := 3, req := { write := true, gran := 5, smask := 1, kslot := 0 }, left := [0] } : MpOpen)] })] } }
def w81 : State := { S0 with port := { mp := [(0, { st := .inService, gib := 64, opened := [({ tag := 3, req := { write := false, gran := 5, smask := 1, kslot := 0 }, left := [0] } : MpOpen)] })] } }
def w82 : State := { S0 with port := { mp := [(0, { st := .inService, gib := 64, narrow := [({ tag := 2, write := false, word := 3, kslot := 0, data := 0, who := true } : NrReq)] })] } }
def w83 : State := { S0 with port := { mp := [(0, { st := .training, gib := 64 })] } }
def w84 : State := { S0 with port := { mp := [(0, { st := .inService, gib := 64 })] } }
def w85 : State := { S0 with port := { mp := [(0, { st := .quiescing, leaving := true, gib := 64 })] } }
def w86 : State := { S0 with port := { mp := [(0, { st := .failing, leaving := true, mapOut := true, gib := 64 })] } }
def w87 : State := { S0 with port := { mp := [(0, { st := .quiescing, gib := 64 })] }, weir := { unitBusy := some (5, 0, .test) } }
def w88 : State := { S0 with port := { mp := [(0, { st := .quiescing, failLanes := [3], gib := 64 })] } }
def w89 : State := { S0 with port := { mp := [(0, { st := .bist, gib := 64 })] } }
def w90 : State := { S0 with port := { mp := [(0, { st := .failing, gib := 64 })] } }
def w91 : State := { S0 with rsvr := { S0.rsvr with moves := [{ bucket := 3, port := 0, base := 9 }] } }
def w92 : State := { S0 with rsvr := { S0.rsvr with moves := [{ bucket := 3, port := 5, base := 9 }] } }
def w93 : State := { S0 with port := { S0.port with ilvTicks := 1024 } }
def w94 : State := setRaw rMPT_NR_ADDR 8388608 { S0 with rsvr := { S0.rsvr with buckets := [(0, { port := 0, base := 0 })] } }
def w95 : State := { S0 with rsvr := { S0.rsvr with nrBusy := true } }
def w96 : State := { S0 with rsvr := { S0.rsvr with buckets := [(0, { port := 0, base := 0 })] } }
def w97 : State := { S0 with port := { mp := [(0, { st := .inService, gib := 64, keyBusy := some ({ op := 0, slot := 2, env := some 1 } : KeyOp) })] } }
def w98 : State := { S0 with port := { mp := [(0, { st := .inService, gib := 64, keyBusy := some ({ op := 1, slot := 2, env := some 1 } : KeyOp) })] }, env := { S0.env with loaded := [2] } }
def w99 : State := { S0 with port := { mp := [(0, { st := .inService, gib := 64, keyBusy := some ({ op := 0, slot := 2, env := some 1 } : KeyOp) }), (1, { st := .inService, gib := 64, keyBusy := some ({ op := 0, slot := 2, env := some 1 } : KeyOp) })] } }
def w100 : State := (qS fun q =>
    { q with tokens := [(5, ({ core := 8, cmd := 0, ctx := 0, ctxGen := 0, ident := { ctx := some 0, cls := 2 }, relaxed := false } : Token))], cmds := [(0, { wCmd with tokens := [5] })], nextCmd := 1 })
def w101 : State := (qS fun q =>
    { q with tokens := [(5, ({ core := 8, cmd := 0, ctx := 0, ctxGen := 0, ident := { ctx := some 0, cls := 2 }, relaxed := false } : Token))], cmds := [(0, { wCmd with tokens := [5] })], nextCmd := 1 , reqs := (List.range 32).map fun k => (k, { wReq with who := .core 1 0 1 3 5, listed := true }) })
def w102 : State := (qS fun q =>
    { q with tokens := [(5, ({ core := 8, cmd := 0, ctx := 0, ctxGen := 0, ident := { ctx := some 0, cls := 2 }, relaxed := false } : Token))], cmds := [(0, { wCmd with tokens := [5] })], nextCmd := 1 , reqs := [(4, { wReq with who := .core 1 0 1 3 5, op := .tileWrite ({ base := 4096, pitch := 256, rows := 2, rowBytes := 64 } : Tile), expect := 128, st := .reading })], nextReq := 5 })
def w103 : State := { (qS fun q => { q with tokens := [(5, ({ core := 8, cmd := 0, ctx := 0, ctxGen := 0, ident := { ctx := some 0, cls := 2 }, relaxed := false } : Token))], cmds := [(0, { wCmd with tokens := [5] })], nextCmd := 1 }) with sluice := { st := .held } }
def w104 : State := (qS fun q =>
    { q with tokens := [(5, ({ core := 8, cmd := 0, ctx := 0, ctxGen := 0, ident := { ctx := some 0, cls := 2 }, relaxed := false , aborted := true, abortTicks := 150 } : Token))], cmds := [(0, { wCmd with tokens := [5] })], nextCmd := 1 })
def w105 : State := { S0 with port := { S0.port with cf := [(1, { dn := [(1, 3)] })] } }
def w106 : State := (allocObj (some 0) (some 1) 4096 12 4 false ((qS fun q =>
    { q with tokens := [(5, ({ core := 8, cmd := 0, ctx := 0, ctxGen := 0, ident := { ctx := some 0, cls := 2 }, relaxed := false } : Token))], cmds := [(0, { wCmd with tokens := [5] })], nextCmd := 1 }))).2
def w107 : State := (allocObj (some 0) (some 1) 4096 12 1 false (qS fun q =>
    { q with tokens := [(5, ({ core := 8, cmd := 0, ctx := 0, ctxGen := 0, ident := { ctx := some 0, cls := 2 }, relaxed := false } : Token))], cmds := [(0, { wCmd with tokens := [5] })], nextCmd := 1 })).2
def w108 : State := { (qS fun q => { q with tokens := [(5, ({ core := 8, cmd := 0, ctx := 0, ctxGen := 0, ident := { ctx := some 0, cls := 2 }, relaxed := false } : Token))], cmds := [(0, { wCmd with tokens := [5] })], nextCmd := 1 }) with cis := { reds := [(4, ({ plan := ({ id := 7, parent := 5, outFmt := 1, firstSlot := 993, stride := 4, perSlot := 1, leaf := 0, leaves := 2, round := 0, all := true, sat := false, loc := 2, lateTicks := 0, srKey := 0, children := [2], rsvdZero := true } : Plan), fmt := 1, op := 1, ordered := false, count := 2, src := 0, dst := 0, ctx := 0, env := 1, cls := 2, chunks := [(0, { })] } : Reduction))] } }
def w109 : State := (coreContribute (some 1) 7 0 0 1 (packedElems 32 2 (8589934597))
    ({ (qS fun q => { q with tokens := [(5, ({ core := 8, cmd := 0, ctx := 0, ctxGen := 0, ident := { ctx := some 0, cls := 2 }, relaxed := false } : Token))], cmds := [(0, { wCmd with tokens := [5] })], nextCmd := 1 }) with cis := { reds := [(4, ({ plan := ({ id := 7, parent := 5, outFmt := 1, firstSlot := 993, stride := 4, perSlot := 1, leaf := 0, leaves := 2, round := 0, all := true, sat := false, loc := 2, lateTicks := 0, srKey := 0, children := [2], rsvdZero := true } : Plan), fmt := 1, op := 1, ordered := false, count := 2, src := 0, dst := 0, ctx := 0, env := 1, cls := 2, chunks := [(0, { })] } : Reduction))] } })).2
def w110 : State := (qS fun q =>
    { q with tokens := [(5, ({ core := 8, cmd := 0, ctx := 0, ctxGen := 0, ident := { ctx := some 0, cls := 2 }, relaxed := false } : Token))], cmds := [(0, { wCmd with tokens := [5, 6] })], nextCmd := 1 })
def w111 : State := { S0 with port := { S0.port with coreOut := [8] } }
def w112 : State := { S0 with env := { S0.env with leaving := [(8, (.quiescing, (1, 0)))] } , coh := { agents := [(8, { st := .active, en := true })] } }
def w113 : State := { S0 with env := { S0.env with leaving := [(8, (.quiescing, (1, 0)))] } }
def w114 : State := { S0 with env := { S0.env with leaving := [(8, (.resetting 3, (1, 0)))] } }
def w115 : State := { S0 with spl := { S0.spl with recovery := true } }
def w116 : State := { S0 with env := { S0.env with leaving := [(8, (.flushing 120, (1, 0)))] } }
def w117 : State := { S0 with env := { S0.env with leaving := [(8, (.resetting 100, (1, 0)))] } }
def w118 : State := { S0 with env := { S0.env with leaving := [(8, (.resetting 99, (1, 0)))] } }
def w119 : State := { S0 with env := { S0.env with leaving := [(8, (.flushing 119, (1, 0)))] } }
def w120 : State := { S0 with env := { S0.env with leaving := [(8, (.returning, (1, 0)))] } }
def w121 : State := { S0 with spl := { S0.spl with img := { S0.spl.img with sensorMapT := 5, sensorMapP := 3 } } }
def w122 : State := { S0 with spl := { S0.spl with ended := [1, 2] } }
def w123 : State := { { S0 with spl := { S0.spl with img := { S0.spl.img with sensorMapT := 5, sensorMapP := 3 } } } with time := { now := 160000000000 } }
def w124 : State := { S0 with spl := { S0.spl with phase := 1 } }
def w125 : State := { S0 with env := { S0.env with loaded := [2] } }
def w126 : State := (qS fun q => { q with ctxs := [(0, { wCtx with st := .faulted })] })
def w127 : State := (qS fun q =>
    { q with queues := [(1, { wQ with tail := 2, upTo := 2, entries := [{ pos := 0, num := 0, paid := true, here := true }, { pos := 1, num := 1, paid := true, here := true }] })] })
def w128 : State := (started 1 wQ wHdr (.fenceSignal (mkHandle 4 0 0) 9) S0)
def w129 : State := (allocObj (some 0) (some 1) 4096 12 0 false (started 1 wQ wHdr (.alloc 4096 12 0) S0)).2
def w130 : State := { S0 with ep := { S0.ep with funcs := [(1, { vectors := 4 })] } }
def w131 : State := (ctxCreate 1 7 0 2 (started 0 wAdmin wHdr (.ctxCreate 7 0 2) S0)).2
def w132 : State := (qS fun q => { q with ctxs := [(0, { wCtx with st := .hostPathLost })] })
def w133 : State := (queueCreate 1 0 (2^56 + 2^20) (2^56 + 2^21) 4 6 2 0 (started 0 wAdmin wHdr (.queueCreate (mkHandle 1 0 0)
    (2^56 + 2^20) (2^56 + 2^21) 4 6 2 0) S0)).2
def w134 : State := (qS fun q => { q with queues := [(0, wAdmin), (1, { wQ with st := .stopped })] })
def w135 : State := (qS fun q => { q with objs := [(0, { wObj with log2 := 13 })] })
def w136 : State := (regionRegister 1 0 4096 4096 (started 0 wAdmin wHdr (.regionRegister (mkHandle 3 0 0) 4096 4096 3) (qS
    fun q => { q with objs := [(0, { wObj with log2 := 13 })] }))).2
def w137 : State := { S0 with reg := { S0.reg with half := [(4 * doorbellKey 1 1 0, 17)] } }
def w138 : State := (qS fun q => { q with reqs := [(4, { wReq with who := .inbound 0, st := .translate })], nextReq := 5 })
def w139 : State := setRaw (fnKey 1 (fSYN_MOD + 16)) 0x100 (eS fun e =>
    { e with mods := [(vecKey 1 2, { firings := 3, ticks := 5 })] })
def w140 : State := setRaw (fnKey 1 (fSYN_MOD + 16)) 0x500 (eS fun e =>
    { e with mods := [(vecKey 1 2, { firings := 3, ticks := 4 })] })
def w141 : State := (eS fun e =>
    { e with funcs := [(1, { env := some 1, vectors := 4, winActive := true, winBase := 0, winCtx := 0 })] })
def w142 : State := { eS (fun e => { e with winReads := [⟨4, 0, 1, 1, 0⟩] }) with que := { S0.que with reqs := [(4, wReq)], nextReq := 5 } }
def w143 : State := setRaw (rDPA_CLASS + 16) 5
    { S0 with que := { S0.que with reqs := [(4, { wReq with st := .credit, res := 0, cost := 1 })], nextReq := 5 } }
def w144 : State := (qS fun q => { q with cmds := [(0, wCmd)], nextCmd := 1 })
def w145 : State := (qS fun q => { q with cmds := [(0, { wCmd with dlMiss := true })], nextCmd := 1 })
def w146 : State := (qS fun q =>
    { q with reqs := [(4, { wReq with ident := { ctx := some 0, cls := 2, deadline := 5 }, dlLeft := 0 })], nextReq := 5 })
def w147 : State := (qS fun q => { q with reqs := [(4, { wReq with dlMissed := true })], nextReq := 5 })
def w148 : State := { S0 with tr := { ats := [({ tag := 1, port := 0, fn := 1, fnGen := 9, pasid := 7, page := 5, waiters := [(0, 4)] } : Ats)] } }
def w149 : State := { S0 with tr := { ats := [{ ({ tag := 1, port := 0, fn := 1, fnGen := 0, pasid := 7, page := 5, waiters := [(0, 4)] } : Ats) with stale := true }] } }
def w150 : State := { S0 with tr := { invals := [⟨0, 1, 31, 0, 0, [], true, [(0, 1)]⟩] } }
def w151 : State := { S0 with tr := { invals := [⟨0, 1, 31, 0, 0, [], true, []⟩], filter := [{ id := 0, revoke := false, m := .host 7 0 4096, active := true, swept := true, hold := true }] } }
def w152 : State := { S0 with tr := { prgs := [({ index := 0, fn := 1, pasid := 7, req := 4, pages := [(5, true, true)], out := 0 } : Prg)] } }
def w153 : State := { S0 with tr := { prgs := [({ index := 0, fn := 1, pasid := 7, req := 4, pages := [(5, true, true)], out := 0 } : Prg)] }, ep := { S0.ep with insts := [(0, { cfg := [(1, 6), (0xC2, 8)] }), (4, { cfg := [(1, 6), (0xD3, 1), (0xD5, 32)] })] } }
def w154 : State := { S0 with tr := { prgs := [({ index := 0, fn := 1, pasid := 7, req := 4, pages := [(5, true, true)], out := 1 } : Prg)] } }
def w155 : State := { S0 with tr := { prgs := [({ index := 0, fn := 1, pasid := 7, req := 4, pages := [(5, true, true), (6, true, true)], out := 1 } : Prg)] } }
def w156 : State := { S0 with tr := { prgs := [{ ({ index := 0, fn := 1, pasid := 7, req := 4, pages := [(5, true, true)], out := 1 } : Prg) with ticks := 100000 }] } }
def w157 : State := { S0 with tr := { walks := ({ ctx := 0, page := 0, waiters := [] } : Walk) :: List.replicate 16 { ctx := 0, page := 0, waiters := [4] } } }
def w158 : State := { S0 with tr := { walks := [({ ctx := 0, page := 0, waiters := [4] } : Walk)] }, que := { S0.que with ctxs := [(0, { wCtx with ptObj := some 0 })], objs := [(0, { wObj with log2 := 13, isPt := true })] }, rsvr := { S0.rsvr with mem := cellsSet (cellsSet [] 0x400000000 (toBytes 8 0x100400001003)) 0x400001000 (toBytes 8 0x10044000001D) } }
def w159 : State := walkAsk 0 0 ({ ctx := 0, page := 0, waiters := [4] } : Walk)
    ({ S0 with tr := { walks := [({ ctx := 0, page := 0, waiters := [4] } : Walk)] }, que := { S0.que with ctxs := [(0, { wCtx with ptObj := some 0 })], objs := [(0, { wObj with log2 := 13, isPt := true })] }, rsvr := { S0.rsvr with mem := cellsSet (cellsSet [] 0x400000000 (toBytes 8 0x100400001003)) 0x400001000 (toBytes 8 0x10044000001D) } })
def w160 : State := { S0 with tr := { walks := [({ ctx := 0, page := 0, waiters := [4], asked := [0x10000000, 0x10000040] , stale := true} : Walk)] }, que := { S0.que with ctxs := [(0, { wCtx with ptObj := some 0 })], objs := [(0, { wObj with log2 := 13, isPt := true })] }, rsvr := { S0.rsvr with mem := cellsSet (cellsSet [] 0x400000000 (toBytes 8 0x100400001003)) 0x400001000 (toBytes 8 0x10044000001D) } }
def w161 : State := walkAsk 0 0 ({ ctx := 0, page := 0, waiters := [4], asked := [0x10000000, 0x10000040] , stale := true} :
    Walk) ({ S0 with tr := { walks := [({ ctx := 0, page := 0, waiters := [4], asked := [0x10000000, 0x10000040] , stale := true} : Walk)] }, que := { S0.que with ctxs := [(0, { wCtx with ptObj := some 0 })], objs := [(0, { wObj with log2 := 13, isPt := true })] }, rsvr := { S0.rsvr with mem := cellsSet (cellsSet [] 0x400000000 (toBytes 8 0x100400001003)) 0x400001000 (toBytes 8 0x10044000001D) } })
def w162 : State := { S0 with tr := { walks := [({ ctx := 0, page := 0, waiters := [4], asked := [0x10000000, 0x10000040] } : Walk)] }, que := { S0.que with ctxs := [(0, { wCtx with ptObj := some 0 })], objs := [(0, { wObj with log2 := 13, isPt := true })] }, rsvr := { S0.rsvr with mem := cellsSet (cellsSet [] 0x400000000 (toBytes 8 0x100400001003)) 0x400001000 (toBytes 8 0x10044000001D) } }
def w163 : State := walkAsk 0 0 ({ ctx := 0, page := 0, waiters := [4], asked := [0x10000000, 0x10000040] } : Walk)
    ({ S0 with tr := { walks := [({ ctx := 0, page := 0, waiters := [4], asked := [0x10000000, 0x10000040] } : Walk)] }, que := { S0.que with ctxs := [(0, { wCtx with ptObj := some 0 })], objs := [(0, { wObj with log2 := 13, isPt := true })] }, rsvr := { S0.rsvr with mem := cellsSet (cellsSet [] 0x400000000 (toBytes 8 0x100400001003)) 0x400001000 (toBytes 8 0x10044000001D) } })
def w164 : State := walkKeep 0 0
    { (walkAsk 0 0 ({ ctx := 0, page := 0, waiters := [4], asked := [0x10000000, 0x10000040] } : Walk) ({ S0 with tr := { walks := [({ ctx := 0, page := 0, waiters := [4], asked := [0x10000000, 0x10000040] } : Walk)] }, que := { S0.que with ctxs := [(0, { wCtx with ptObj := some 0 })], objs := [(0, { wObj with log2 := 13, isPt := true })] }, rsvr := { S0.rsvr with mem := cellsSet (cellsSet [] 0x400000000 (toBytes 8 0x100400001003)) 0x400001000 (toBytes 8 0x10044000001D) } })) with tr := { (walkAsk 0 0 ({ ctx := 0, page := 0, waiters := [4], asked := [0x10000000, 0x10000040] } : Walk) ({ S0 with tr := { walks := [({ ctx := 0, page := 0, waiters := [4], asked := [0x10000000, 0x10000040] } : Walk)] }, que := { S0.que with ctxs := [(0, { wCtx with ptObj := some 0 })], objs := [(0, { wObj with log2 := 13, isPt := true })] }, rsvr := { S0.rsvr with mem := cellsSet (cellsSet [] 0x400000000 (toBytes 8 0x100400001003)) 0x400001000 (toBytes 8 0x10044000001D) } })).tr with walks := [] } }
def w165 : State := { S0 with tr := { walks := [({ ctx := 0, page := 0, waiters := [4], asked := [0x10000000, 0x10000040] } : Walk)] }, que := { S0.que with ctxs := [(0, { wCtx with ptObj := some 0 })], objs := [(0, { wObj with log2 := 13, isPt := true })] }, rsvr := { S0.rsvr with mem := cellsSet (cellsSet [] 0x400000000 (toBytes 8 0x100400001003)) 0x400001000 (toBytes 8 0) } }
def w166 : State := walkAsk 0 0 ({ ctx := 0, page := 0, waiters := [4], asked := [0x10000000, 0x10000040] } : Walk)
    ({ S0 with tr := { walks := [({ ctx := 0, page := 0, waiters := [4], asked := [0x10000000, 0x10000040] } : Walk)] }, que := { S0.que with ctxs := [(0, { wCtx with ptObj := some 0 })], objs := [(0, { wObj with log2 := 13, isPt := true })] }, rsvr := { S0.rsvr with mem := cellsSet (cellsSet [] 0x400000000 (toBytes 8 0x100400001003)) 0x400001000 (toBytes 8 0) } })
def w167 : State := walkKeep 0 0
    { (walkAsk 0 0 ({ ctx := 0, page := 0, waiters := [4], asked := [0x10000000, 0x10000040] } : Walk) ({ S0 with tr := { walks := [({ ctx := 0, page := 0, waiters := [4], asked := [0x10000000, 0x10000040] } : Walk)] }, que := { S0.que with ctxs := [(0, { wCtx with ptObj := some 0 })], objs := [(0, { wObj with log2 := 13, isPt := true })] }, rsvr := { S0.rsvr with mem := cellsSet (cellsSet [] 0x400000000 (toBytes 8 0x100400001003)) 0x400001000 (toBytes 8 0) } })) with tr := { (walkAsk 0 0 ({ ctx := 0, page := 0, waiters := [4], asked := [0x10000000, 0x10000040] } : Walk) ({ S0 with tr := { walks := [({ ctx := 0, page := 0, waiters := [4], asked := [0x10000000, 0x10000040] } : Walk)] }, que := { S0.que with ctxs := [(0, { wCtx with ptObj := some 0 })], objs := [(0, { wObj with log2 := 13, isPt := true })] }, rsvr := { S0.rsvr with mem := cellsSet (cellsSet [] 0x400000000 (toBytes 8 0x100400001003)) 0x400001000 (toBytes 8 0) } })).tr with walks := [] } }
def w168 : State := { S0 with tr := { walks := [({ ctx := 0, page := 0, waiters := [4], asked := [0x10000000, 0x10000040] } : Walk)] }, que := { S0.que with ctxs := [(0, { wCtx with ptObj := some 0 })], objs := [(0, { wObj with log2 := 13, isPt := true })] }, rsvr := { S0.rsvr with mem := cellsSet (cellsSet [] 0x400000000 (toBytes 8 0x100400001003)) 0x400001000 (toBytes 8 0x1F00400001023) } }
def w169 : State := walkAsk 0 0 ({ ctx := 0, page := 0, waiters := [4], asked := [0x10000000, 0x10000040] } : Walk)
    ({ S0 with tr := { walks := [({ ctx := 0, page := 0, waiters := [4], asked := [0x10000000, 0x10000040] } : Walk)] }, que := { S0.que with ctxs := [(0, { wCtx with ptObj := some 0 })], objs := [(0, { wObj with log2 := 13, isPt := true })] }, rsvr := { S0.rsvr with mem := cellsSet (cellsSet [] 0x400000000 (toBytes 8 0x100400001003)) 0x400001000 (toBytes 8 0x1F00400001023) } })
def w170 : State := walkKeep 0 0
    { (walkAsk 0 0 ({ ctx := 0, page := 0, waiters := [4], asked := [0x10000000, 0x10000040] } : Walk) ({ S0 with tr := { walks := [({ ctx := 0, page := 0, waiters := [4], asked := [0x10000000, 0x10000040] } : Walk)] }, que := { S0.que with ctxs := [(0, { wCtx with ptObj := some 0 })], objs := [(0, { wObj with log2 := 13, isPt := true })] }, rsvr := { S0.rsvr with mem := cellsSet (cellsSet [] 0x400000000 (toBytes 8 0x100400001003)) 0x400001000 (toBytes 8 0x1F00400001023) } })) with tr := { (walkAsk 0 0 ({ ctx := 0, page := 0, waiters := [4], asked := [0x10000000, 0x10000040] } : Walk) ({ S0 with tr := { walks := [({ ctx := 0, page := 0, waiters := [4], asked := [0x10000000, 0x10000040] } : Walk)] }, que := { S0.que with ctxs := [(0, { wCtx with ptObj := some 0 })], objs := [(0, { wObj with log2 := 13, isPt := true })] }, rsvr := { S0.rsvr with mem := cellsSet (cellsSet [] 0x400000000 (toBytes 8 0x100400001003)) 0x400001000 (toBytes 8 0x1F00400001023) } })).tr with walks := [] } }
def w171 : State := { S0 with tr := { peers := [{ ctx := 0, page := 16384, waiters := [4] }] }, env := { envs := [(1, { wEnv with peers := [(2, { lbase := 16, llen := 16, rights := 7 })] })] } }
def w172 : State := { S0 with tr := { filter := [{ id := 0, revoke := false, m := .host 7 0 4096, active := true }], l2 := [{ src := 1, size := 0, r := true, w := true, a := false, ctx := 0, pasid := 7, va := 2^56, pa := 4096 }] } }
def w173 : State := (qS fun q => { q with ctxs := [(0, { wCtx with st := .destroying, reportTo := some 5 })] })
def w174 : State := (endDestroy 0 (qS fun q =>
    { q with ctxs := [(0, { wCtx with st := .destroying, reportTo := some 5 })] })).2
def w175 : State := (qS fun q => { q with ctxs := [(0, { wCtx with st := .destroying })] })
def w176 : State := (endDestroy 0 (qS fun q => { q with ctxs := [(0, { wCtx with st := .destroying })] })).2
def w177 : State := (qS fun q => { q with objs := [(0, { wObj with st := .quarantine, edges := 2 })] })
def w178 : State := { S0 with weir := { scrubTicks := 0x141DD76000 } }
def w179 : State := { S0 with stalled := [.sluiceResume 0], obs := { auditOn := true, holding := List.replicate 3840 { seq := 0, tether := 0, type := .genesis, refused := false, coalesced := false, unlocked := false, bytes := [], chip := 1, actor := 0, fn := 0, env := 0, repeats := 1, payload := [], classC := true } } }
def w180 : State := { setRaw rCOH_RANGE (1 + 8192 * 2 ^ 21 + 2 ^ 44) (setRaw rEPT_HDM_MAP 3 (eS fun e => { e with ports := [(0, { link := 2, st := .up, perst := false, cxl := 7 })] })) with coh := { agents := [(544, { st := .active, en := true })], dir := [] } }
def w181 : State := { ({ setRaw rCOH_RANGE (1 + 8192 * 2 ^ 21 + 2 ^ 44) (setRaw rEPT_HDM_MAP 3 (eS fun e => { e with ports := [(0, { link := 2, st := .up, perst := false, cxl := 7 })] })) with coh := { agents := [(544, { st := .active, en := true })], dir := [] } }) with ep := { ({ setRaw rCOH_RANGE (1 + 8192 * 2 ^ 21 + 2 ^ 44) (setRaw rEPT_HDM_MAP 3 (eS fun e => { e with ports := [(0, { link := 2, st := .up, perst := false, cxl := 7 })] })) with coh := { agents := [(544, { st := .active, en := true })], dir := [] } }).ep with hdm := mset ({ setRaw rCOH_RANGE (1 + 8192 * 2 ^ 21 + 2 ^ 44) (setRaw rEPT_HDM_MAP 3 (eS fun e => { e with ports := [(0, { link := 2, st := .up, perst := false, cxl := 7 })] })) with coh := { agents := [(544, { st := .active, en := true })], dir := [] } }).ep.hdm 0 ⟨0, 2^40, 0, 0⟩ } }
def w182 : State := { setRaw rCOH_RANGE (1 + 8192 * 2 ^ 21 + 2 ^ 44) (setRaw rEPT_HDM_MAP 3 (eS fun e => { e with ports := [(0, { link := 2, st := .up, perst := false, cxl := 7 })] })) with coh := { agents := [(544, { st := .active, en := true })], dir := [(16 * 2^30 / 64, { owner := some 544, txn := some { st := .xSi, r := { kind := .rdOwn, agent := 0, txn := 3 }, snooped := [544] } })] } }
def w183 : State := { ({ setRaw rCOH_RANGE (1 + 8192 * 2 ^ 21 + 2 ^ 44) (setRaw rEPT_HDM_MAP 3 (eS fun e => { e with ports := [(0, { link := 2, st := .up, perst := false, cxl := 7 })] })) with coh := { agents := [(544, { st := .active, en := true })], dir := [(16 * 2^30 / 64, { owner := some 544, txn := some { st := .xSi, r := { kind := .rdOwn, agent := 0, txn := 3 }, snooped := [544] } })] } }) with ep := { ({ setRaw rCOH_RANGE (1 + 8192 * 2 ^ 21 + 2 ^ 44) (setRaw rEPT_HDM_MAP 3 (eS fun e => { e with ports := [(0, { link := 2, st := .up, perst := false, cxl := 7 })] })) with coh := { agents := [(544, { st := .active, en := true })], dir := [(16 * 2^30 / 64, { owner := some 544, txn := some { st := .xSi, r := { kind := .rdOwn, agent := 0, txn := 3 }, snooped := [544] } })] } }).ep with hdm := mset ({ setRaw rCOH_RANGE (1 + 8192 * 2 ^ 21 + 2 ^ 44) (setRaw rEPT_HDM_MAP 3 (eS fun e => { e with ports := [(0, { link := 2, st := .up, perst := false, cxl := 7 })] })) with coh := { agents := [(544, { st := .active, en := true })], dir := [(16 * 2^30 / 64, { owner := some 544, txn := some { st := .xSi, r := { kind := .rdOwn, agent := 0, txn := 3 }, snooped := [544] } })] } }).ep.hdm 0 ⟨0, 2^40, 0, 0⟩ } }
def w184 : State := { setRaw rCOH_RANGE (1 + 8192 * 2 ^ 21 + 2 ^ 44) (setRaw rEPT_HDM_MAP 3 (eS fun e => { e with ports := [(0, { link := 2, st := .up, perst := false, cxl := 7 })] })) with coh := { agents := [(544, { st := .active, en := true })] } }
def w185 : State := { setRaw rCOH_RANGE (1 + 8192 * 2 ^ 21 + 2 ^ 44) (setRaw rEPT_HDM_MAP 3 (eS fun e => { e with ports := [(0, { link := 2, st := .up, perst := false, cxl := 7 })] })) with coh := { agents := [(544, { st := .active, en := true })], dir := [(2^50 + 1, { host := true, owner := some 0, txn := some { st := .go, r := { kind := .rdOwn, agent := 0, txn := 3 } } })] } }
def w186 : State := { setRaw rCOH_RANGE (1 + 8192 * 2 ^ 21 + 2 ^ 44) (setRaw rEPT_HDM_MAP 3 (eS fun e => { e with ports := [(0, { link := 2, st := .up, perst := false, cxl := 7 })] })) with coh := { agents := [(544, { st := .active, en := true })], dir := [(2^50 + 1, { host := true, hstate := 2, txn := some { st := .go, r := { kind := .rdOwn, agent := 0, txn := 3 } } })] } }
def w187 : State := { setRaw rCOH_RANGE (1 + 8192 * 2 ^ 21 + 2 ^ 44) (setRaw rEPT_HDM_MAP 3 (eS fun e => { e with ports := [(0, { link := 2, st := .up, perst := false, cxl := 7 })] })) with coh := { agents := [(544, { st := .active, en := true })] , dir := [(2^50 + 1, { host := true, txn := some { st := .go, r := { kind := .rdOwn, agent := 0, txn := 3 } } })] } }
def w188 : State := { setRaw rCOH_RANGE (1 + 8192 * 2 ^ 21 + 2 ^ 44) (setRaw rEPT_HDM_MAP 3 (eS fun e => { e with ports := [(0, { link := 2, st := .up, perst := false, cxl := 7 })] })) with coh := { agents := [(544, { st := .active, en := true })] , dir := [(16 * 2^30 / 64, { owner := some 544, txn := some { st := .xSd, r := { kind := .rdShared, agent := 0, txn := 3 }, snooped := [544] } })] } }
def w189 : State := { setRaw rCOH_RANGE (1 + 8192 * 2 ^ 21 + 2 ^ 44) (setRaw rEPT_HDM_MAP 3 (eS fun e => { e with ports := [(0, { link := 2, st := .up, perst := false, cxl := 7 })] })) with coh := { agents := [(544, { st := .active, en := true })], dir := [(16 * 2^30 / 64, { owner := some 544, txn := some { st := .xSi, r := { kind := .rdOwn, agent := 0, txn := 3 }, snooped := [545] } })] } }
def w190 : State := { setRaw rCOH_RANGE (1 + 8192 * 2 ^ 21 + 2 ^ 44) (setRaw rEPT_HDM_MAP 3 (eS fun e => { e with ports := [(0, { link := 2, st := .up, perst := false, cxl := 7 })] })) with coh := { agents := [(544, { st := .dead, en := true })], dir := [] } }
def w191 : State := { setRaw rCOH_RANGE (1 + 8192 * 2 ^ 21 + 2 ^ 44) (setRaw rEPT_HDM_MAP 3 (eS fun e => { e with ports := [(0, { link := 2, st := .up, perst := false, cxl := 7 })] })) with coh := { agents := [(544, { st := .active, en := true })] , dir := [(16 * 2^30 / 64, { owner := some 544, txn := some { st := .xSd, r := { kind := .rdShared, agent := 0, txn := 3 }, snooped := [545] } })] } }
def w192 : State := setRaw (fnKey 1 fSYN_ACTION) (0) (setRaw (fnKey 1 fSYN_ARG) (0) (qS fun q =>
    { q with fences := [(0, wFence)] }))
def w193 : State := setRaw (fnKey 1 fSYN_ACTION) (7) (setRaw (fnKey 1 fSYN_ARG) (0) (qS fun q =>
    { q with fences := [(0, wFence)] }))
def w194 : State := setRaw (fnKey 1 fSYN_ACTION) (1) (setRaw (fnKey 1 fSYN_ARG) (0) (qS fun q =>
    { q with fences := [(0, wFence)] }))
def w195 : State := setRaw (fnKey 1 fSYN_ACTION) (1) (setRaw (fnKey 1 fSYN_ARG) (0xFFFFFFFFFFFFFFFF) (qS fun q =>
    { q with fences := [(0, { wFence with st := .error })] }))
def w196 : State := setRaw (fnKey 1 fSYN_ACTION) (1) (setRaw (fnKey 1 fSYN_ARG) (9) (qS fun q =>
    { q with fences := [(0, { wFence with st := .error })] }))
def w197 : State := setRaw (fnKey 1 fSYN_ACTION) (1) (setRaw (fnKey 1 fSYN_ARG) (9) (qS fun q =>
    { q with fences := [(0, { wFence with st := .exhausted, compat := true })] }))
def w198 : State := setRaw (fnKey 1 fSYN_ACTION) (2) (setRaw (fnKey 1 fSYN_ARG) (12) (qS fun q =>
    { q with fences := [(0, wFence)] }))
def w199 : State := setRaw (fnKey 1 fSYN_ACTION) (2) (setRaw (fnKey 1 fSYN_ARG) (2^56 + 64) (qS fun q =>
    { q with fences := [(0, wFence)] }))
def w200 : State := setRaw (fnKey 1 fSYN_ACTION) (3) (setRaw (fnKey 1 fSYN_ARG) (0) (qS fun q =>
    { q with fences := [(0, { wFence with mirror := some 4096, mirrorBusy := true, mirrorAgain := true })] }))
def w201 : State := setRaw (fnKey 1 fSYN_ACTION) (4 + 2^16 * 4) (setRaw (fnKey 1 fSYN_ARG) (0) (qS fun q =>
    { q with fences := [(0, wFence)] }))
def w202 : State := setRaw (fnKey 1 fSYN_ACTION) (4 + 2^16 * 3) (setRaw (fnKey 1 fSYN_ARG) (5) (qS fun q =>
    { q with fences := [(0, wFence)] }))
def w203 : State := setRaw (fnKey 1 fSYN_ACTION) (4 + 2^16 * 3) (setRaw (fnKey 1 fSYN_ARG) (5) (qS fun q =>
    { q with fences := [(0, { wFence with st := .error })] }))
def w204 : State := setRaw (fnKey 1 fSYN_ACTION) (5) (setRaw (fnKey 1 fSYN_ARG) (0) (qS fun q =>
    { q with fences := [(0, wFence)] }))
def w205 : State := setRaw (fnKey 1 fSYN_ACTION) (0) (setRaw (fnKey 1 fSYN_ARG) (0) (qS fun q =>
    { q with fences := [(0, wFence)] , actBusy := [(1, (0, 4096))] }))
def w206 : State := setRaw (fnKey 1 fSYN_ACTION) (0) (setRaw (fnKey 1 fSYN_ARG) (0) (qS fun q =>
    { q with fences := [(0, wFence)] , waits := [(0, ({ fence := 0, target := 9, who := .cmd 0, scope := 0, core := 0, engine := 0, left := some 0, registered := true } : Wait))], nextWait := 1 }))
def w207 : State := setRaw (fnKey 1 fSYN_ACTION) (0) (setRaw (fnKey 1 fSYN_ARG) (0) (qS fun q =>
    { q with fences := [(0, wFence)] , waits := [(0, ({ fence := 0, target := 9, who := .cmd 0, scope := 0, core := 0, engine := 0, left := some 3, registered := true } : Wait))], nextWait := 1 }))
def w208 : State := setRaw (fnKey 1 fSYN_ACTION) (0) (setRaw (fnKey 1 fSYN_ARG) (0) (qS fun q =>
    { q with fences := [(0, { wFence with mirror := some 4096, mirrorBusy := true, mirrorSent := false })] }))
def w209 : State := (qS fun q =>
    { q with fences := [(0, { wFence with mirror := some 4096, mirrorBusy := true, mirrorSent := true })] })
def w210 : State := (modFence 0 (fun f => { f with mirrorBusy := false, mirrorSent := false }) (qS fun q =>
    { q with fences := [(0, { wFence with mirror := some 4096, mirrorBusy := true, mirrorSent := true })] }))
def w211 : State := { setRaw rCOH_RANGE (1 + 8192 * 2 ^ 21 + 2 ^ 44) (setRaw rEPT_HDM_MAP 3 (eS fun e => { e with ports := [(0, { link := 2, st := .up, perst := false, cxl := 7 })] })) with coh := { agents := [(0, { st := .active, en := true, ctx := 0, gen := 0 }), (9, { st := .active, en := true }), (544, { st := .active, en := true })] } }
def w212 : State := { setRaw rCOH_RANGE (1 + 8192 * 2 ^ 21 + 2 ^ 44) (setRaw rEPT_HDM_MAP 3 (eS fun e => { e with ports := [(0, { link := 2, st := .up, perst := false, cxl := 7 })] })) with coh := { agents := [(0, { st := .active, en := true, ctx := 9, gen := 0 })], dir := [] } }
def w213 : State := { setRaw rCOH_RANGE (1 + 8192 * 2 ^ 21 + 2 ^ 44) (setRaw rEPT_HDM_MAP 3 (eS fun e => { e with ports := [(0, { link := 2, st := .up, perst := false, cxl := 7 })] })) with coh := { agents := [(0, { st := .dead, en := true, ctx := 0, gen := 0 })], dir := [] } }
def w214 : State := { setRaw rCOH_RANGE (1 + 8192 * 2 ^ 21 + 2 ^ 44) (setRaw rEPT_HDM_MAP 3 (eS fun e => { e with ports := [(0, { link := 2, st := .up, perst := false, cxl := 7 })] })) with coh := { agents := [(0, { st := .active, en := true, ctx := 0, gen := 0 }), (9, { st := .active, en := true }), (544, { st := .active, en := true })] , dir := [(16 * 2^30 / 64, { txn := some { st := .gA, r := { kind := .rdShared, agent := 9 } } })] } }
def w215 : State := { setRaw rCOH_RANGE (1 + 8192 * 2 ^ 21 + 2 ^ 44) (setRaw rEPT_HDM_MAP 3 (eS fun e => { e with ports := [(0, { link := 2, st := .up, perst := false, cxl := 7 })] })) with coh := { agents := [(0, { st := .active, en := true, ctx := 0, gen := 0 }), (9, { st := .active, en := true }), (544, { st := .active, en := true })] , dir := [(16 * 2^30 / 64, { sharers := [9] })] } }
def w216 : State := { setRaw rCOH_RANGE (1 + 8192 * 2 ^ 21 + 2 ^ 44) (setRaw rEPT_HDM_MAP 3 (eS fun e => { e with ports := [(0, { link := 2, st := .up, perst := false, cxl := 7 })] })) with coh := { agents := [(0, { st := .active, en := true, ctx := 0, gen := 0 }), (9, { st := .active, en := true }), (544, { st := .active, en := true })] , dir := [(16 * 2^30 / 64, { owner := some 9 })] } }
def w217 : State := { setRaw rCOH_RANGE (1 + 8192 * 2 ^ 21 + 2 ^ 44) (setRaw rEPT_HDM_MAP 3 (eS fun e => { e with ports := [(0, { link := 2, st := .up, perst := false, cxl := 7 })] })) with coh := { agents := [(0, { st := .active, en := true, ctx := 0, gen := 0 }), (9, { st := .active, en := true }), (544, { st := .active, en := true })] , dir := [(16 * 2^30 / 64, { sharers := [0] })] } }
def w218 : State := { setRaw rCOH_RANGE (1 + 8192 * 2 ^ 21 + 2 ^ 44) (setRaw rEPT_HDM_MAP 3 (eS fun e => { e with ports := [(0, { link := 2, st := .up, perst := false, cxl := 7 })] })) with coh := { agents := [(0, { st := .active, en := true, ctx := 0, gen := 0 }), (9, { st := .active, en := true }), (544, { st := .active, en := true })] , dir := [(16 * 2^30 / 64, { sharers := [0, 9] })] } }
def w219 : State := { setRaw rCOH_RANGE (1 + 8192 * 2 ^ 21 + 2 ^ 44) (setRaw rEPT_HDM_MAP 3 (eS fun e => { e with ports := [(0, { link := 2, st := .up, perst := false, cxl := 7 })] })) with coh := { agents := [(0, { st := .active, en := true, ctx := 0, gen := 0 }), (9, { st := .active, en := true }), (544, { st := .active, en := true })] , dir := [(16 * 2^30 / 64, { owner := some 0 })] } }
def w220 : State := { setRaw rCOH_RANGE (1 + 8192 * 2 ^ 21 + 2 ^ 44) (setRaw rEPT_HDM_MAP 3 (eS fun e => { e with ports := [(0, { link := 2, st := .up, perst := false, cxl := 7 })] })) with coh := { agents := [(0, { st := .active, en := true, ctx := 0, gen := 0 }), (9, { st := .active, en := true }), (544, { st := .active, en := true })] , dir := [(16 * 2^30 / 64, { owner := some 0, txn := some { st := .xSi, r := { kind := .rdShared, agent := 9, txn := 3 } , snooped := [0] } })] } }
def w221 : State := { setRaw rCOH_RANGE (1 + 8192 * 2 ^ 21 + 2 ^ 44) (setRaw rEPT_HDM_MAP 3 (eS fun e => { e with ports := [(0, { link := 2, st := .up, perst := false, cxl := 7 })] })) with coh := { agents := [(0, { st := .active, en := true, ctx := 0, gen := 0 }), (9, { st := .active, en := true }), (544, { st := .active, en := true })] , dir := [(16 * 2^30 / 64, { owner := some 0, txn := some { st := .xSd, r := { kind := .rdShared, agent := 9, txn := 3 } , snooped := [0] } })] } }
def w222 : State := { setRaw rCOH_RANGE (1 + 8192 * 2 ^ 21 + 2 ^ 44) (setRaw rEPT_HDM_MAP 3 (eS fun e => { e with ports := [(0, { link := 2, st := .up, perst := false, cxl := 7 })] })) with coh := { agents := [(0, { st := .active, en := true, ctx := 0, gen := 0 }), (9, { st := .active, en := true }), (544, { st := .active, en := true })] , dir := [(16 * 2^30 / 64, { sharers := [0, 9], txn := some { st := .sSi, r := { kind := .rdShared, agent := 9, txn := 3 } , snooped := [0] } })] } }
def w223 : State := { setRaw rCOH_RANGE (1 + 8192 * 2 ^ 21 + 2 ^ 44) (setRaw rEPT_HDM_MAP 3 (eS fun e => { e with ports := [(0, { link := 2, st := .up, perst := false, cxl := 7 })] })) with coh := { agents := [(0, { st := .dead, en := true, ctx := 0, gen := 0 }), (544, { st := .active, en := true })] } }
def w224 : State := { setRaw rCOH_RANGE (1 + 8192 * 2 ^ 21 + 2 ^ 44) (setRaw rEPT_HDM_MAP 3 (eS fun e => { e with ports := [(0, { link := 2, st := .up, perst := false, cxl := 7 })] })) with coh := { agents := [(0, { st := .active, en := true, ctx := 0, gen := 0 }), (9, { st := .active, en := true }), (544, { st := .active, en := true })] , dir := [(16 * 2^30 / 64, { owner := some 0, txn := some { st := .xSd, r := { kind := .rdShared, agent := 9, txn := 3 } , owing := [0] } })] } }
def w225 : State := { setRaw rCOH_RANGE (1 + 8192 * 2 ^ 21 + 2 ^ 44) (setRaw rEPT_HDM_MAP 3 (eS fun e => { e with ports := [(0, { link := 2, st := .up, perst := false, cxl := 7 })] })) with coh := { agents := [(0, { st := .active, en := true, ctx := 0, gen := 0 }), (9, { st := .active, en := true }), (544, { st := .active, en := true })] , dir := [(16 * 2^30 / 64, { owner := some 0, txn := some { st := .wD, r := { kind := .rdShared, agent := 0, txn := 3 } } })] } }
def w226 : State := { setRaw rCOH_RANGE (1 + 8192 * 2 ^ 21 + 2 ^ 44) (setRaw rEPT_HDM_MAP 3 (eS fun e => { e with ports := [(0, { link := 2, st := .up, perst := false, cxl := 7 })] })) with coh := { agents := [(0, { st := .active, en := true, ctx := 0, gen := 0 }), (9, { st := .active, en := true }), (544, { st := .active, en := true })] , dir := [(16 * 2^30 / 64, { owner := some 0, txn := some { st := .gA, r := { kind := .rdShared, agent := 0, txn := 3 } , exclusive := true } })] } }
def w227 : State := { setRaw rCOH_RANGE (1 + 8192 * 2 ^ 21 + 2 ^ 44) (setRaw rEPT_HDM_MAP 3 (eS fun e => { e with ports := [(0, { link := 2, st := .up, perst := false, cxl := 7 })] })) with coh := { agents := [(0, { st := .flushing, en := true })], dir := [] } }
def w228 : State := { setRaw rCOH_RANGE (1 + 8192 * 2 ^ 21 + 2 ^ 44) (setRaw rEPT_HDM_MAP 3 (eS fun e => { e with ports := [(0, { link := 2, st := .up, perst := false, cxl := 7 })] })) with coh := { agents := [(0, { st := .flushing, en := true, ctx := 0, gen := 0 }), (544, { st := .active, en := true })] } }
def w229 : State := { setRaw rCOH_RANGE (1 + 8192 * 2 ^ 21 + 2 ^ 44) (setRaw rEPT_HDM_MAP 3 (eS fun e => { e with ports := [(0, { link := 2, st := .up, perst := false, cxl := 7 })] })) with coh := { agents := [(544, { st := .active, en := true })] , dir := [(16 * 2^30 / 64, { sharers := [512, 0], txn := some { st := .sSi, r := { kind := .rdOwn, agent := 9 }, snooped := [512, 0] } })] } }
def w230 : State := { setRaw rCOH_RANGE (1 + 8192 * 2 ^ 21 + 2 ^ 44) (setRaw rEPT_HDM_MAP 3 (eS fun e => { e with ports := [(0, { link := 2, st := .up, perst := false, cxl := 7 })] })) with coh := { agents := [(512, { st := .flushing, en := true }), (544, { st := .active, en := true })] } }
def w231 : State := { setRaw rCOH_RANGE (1 + 8192 * 2 ^ 21 + 2 ^ 44) (setRaw rEPT_HDM_MAP 3 (eS fun e => { e with ports := [(0, { link := 2, st := .up, perst := false, cxl := 7 })] })) with coh := { agents := [(0, { st := .active, en := true }), (544, { st := .active, en := true })] , dir := [(16 * 2^30 / 64, { sharers := [512, 0], txn := some { st := .sSi, r := { kind := .rdOwn, agent := 9 }, snooped := [512, 0] } })] } }
def w232 : State := { setRaw rCOH_RANGE (1 + 8192 * 2 ^ 21 + 2 ^ 44) (setRaw rEPT_HDM_MAP 3 (eS fun e => { e with ports := [(0, { link := 2, st := .up, perst := false, cxl := 7 })] })) with coh := { agents := [(7, { st := .flushing, en := true })], dir := [] } }
def w233 : State := { setRaw rCOH_RANGE (1 + 8192 * 2 ^ 21 + 2 ^ 44) (setRaw rEPT_HDM_MAP 3 (eS fun e => { e with ports := [(0, { link := 2, st := .up, perst := false, cxl := 7 })] })) with coh := { agents := [(7, { st := .dead, cause := 1, en := false })], dir := [] } }
def w234 : State := { S0 with coh := { agents := [(0, { st := .dead, en := true })] } }
def w235 : State := { S0 with reg := { S0.reg with sel := mset S0.reg.sel (4 * rCOH_AGENT_SEL) 7 }, coh := { agents := [] } }
def w236 : State := { { S0 with reg := { S0.reg with sel := mset S0.reg.sel (4 * rCOH_AGENT_SEL) 7 }, coh := { agents := [] } } with reg := { ({ S0 with reg := { S0.reg with sel := mset S0.reg.sel (4 * rCOH_AGENT_SEL) 7 }, coh := { agents := [] } }).reg with last := mset ({ S0 with reg := { S0.reg with sel := mset S0.reg.sel (4 * rCOH_AGENT_SEL) 7 }, coh := { agents := [] } }).reg.last rCOH_AGENT_CTL 1 } }
def w237 : State := { S0 with reg := { S0.reg with sel := mset S0.reg.sel (4 * rCOH_AGENT_SEL) 7 }, coh := { agents := [(7, { st := .active, en := true })] } }
def w238 : State := setRaw rCOH_RANGE (1 + 8192 * 2 ^ 21 + 2 ^ 44) S0
def w239 : State := { setRaw (fnKey 1 fCOH_BIAS_ARG) (4096) S0 with coh := { acts := [] } }
def w240 : State := { setRaw (fnKey 1 fCOH_BIAS_ARG) (4097) S0 with coh := { acts := [] } }
def w241 : State := { S0 with coh := { flips := [{ page := 5, fn := 1 }], dir := [(5 * 64, {})] } }
def w242 : State := { S0 with coh := { flips := [{ page := 5, fn := 1 }], shared := [5, 6] } }
def w243 : State := { S0 with cis := { reds := [(4, ({ plan := ({ id := 7, parent := 5, outFmt := 1, firstSlot := 993, stride := 4, perSlot := 1, leaf := 0, leaves := 2, round := 0, all := true, sat := false, loc := 0, lateTicks := 0, srKey := 0, children := [2], rsvdZero := true } : Plan), fmt := 1, op := 1, ordered := false, count := 2, src := 0, dst := 0, ctx := 0, env := 1, cls := 2, chunks := [(0, { })] } : Reduction))] } }
def w244 : State := { S0 with cis := { reds := [(4, ({ plan := ({ id := 7, parent := 5, outFmt := 1, firstSlot := 993, stride := 4, perSlot := 1, leaf := 0, leaves := 2, round := 0, all := true, sat := false, loc := 0, lateTicks := 0, srKey := 0, children := [2], rsvdZero := true } : Plan), fmt := 1, op := 1, ordered := false, count := 2, src := 0, dst := 0, ctx := 0, env := 1, cls := 2, chunks := [(0, { })] } : Reduction))] }, que := { S0.que with ctxs := [(0, { wCtx with ptObj := some 0 })], objs := [(0, { wObj with log2 := 13, isPt := true })] }, rsvr := { S0.rsvr with mem := cellsSet (cellsSet [] 0x400000000 (toBytes 8 0x100400001003)) 0x400001000 (toBytes 8 0x10044000001D) } }
def w245 : State := { S0 with cis := { reds := [(4, ({ plan := ({ id := 7, parent := 5, outFmt := 1, firstSlot := 993, stride := 4, perSlot := 1, leaf := 0, leaves := 2, round := 0, all := true, sat := false, loc := 0, lateTicks := 0, srKey := 0, children := [2], rsvdZero := true } : Plan), fmt := 1, op := 0, ordered := false, count := 2, src := 0, dst := 0, ctx := 0, env := 1, cls := 2, chunks := [(0, { accs := [{ a := 2^308, nz := true }, {}] })] } : Reduction))] }, que := { S0.que with ctxs := [(0, { wCtx with ptObj := some 0 })], objs := [(0, { wObj with log2 := 13, isPt := true })] }, rsvr := { S0.rsvr with mem := cellsSet (cellsSet [] 0x400000000 (toBytes 8 0x100400001003)) 0x400001000 (toBytes 8 0x10044000001D) } }
def w246 : State := { S0 with cis := { reds := [(4, ({ plan := ({ id := 7, parent := 5, outFmt := 1, firstSlot := 993, stride := 4, perSlot := 1, leaf := 0, leaves := 2, round := 0, all := true, sat := false, loc := 0, lateTicks := 0, srKey := 0, children := [2], rsvdZero := true } : Plan), fmt := 1, op := 1, ordered := false, count := 2, src := 0, dst := 0, ctx := 0, env := 1, cls := 2, chunks := [(0, { sent := true })] } : Reduction))] } }
def w247 : State := { S0 with cis := { reds := [(4, ({ plan := ({ id := 7, parent := 5, outFmt := 1, firstSlot := 993, stride := 4, perSlot := 1, leaf := 0, leaves := 2, round := 0, all := true, sat := false, loc := 0, lateTicks := 0, srKey := 0, children := [2], rsvdZero := true } : Plan), fmt := 1, op := 1, ordered := false, count := 2, src := 0, dst := 0, ctx := 0, env := 1, cls := 2, chunks := [(0, { own := true, counts := [1, 1], got := [2], native := [some 1, some 2], contribs := 2 })] } : Reduction))] } }
def w248 : State := { S0 with cis := { reds := [(4, ({ plan := ({ id := 7, parent := 2, outFmt := 1, firstSlot := 993, stride := 4, perSlot := 1, leaf := 0, leaves := 2, round := 0, all := true, sat := false, loc := 0, lateTicks := 0, srKey := 0, children := [2], rsvdZero := true } : Plan), fmt := 1, op := 1, ordered := false, count := 2, src := 0, dst := 0, ctx := 0, env := 1, cls := 2, chunks := [(0, { own := true, counts := [1, 1], got := [2], native := [some 1, some 2], contribs := 2 })] } : Reduction))] } }
def w249 : State := { S0 with cis := { reds := [(4, ({ plan := ({ id := 7, parent := 2, outFmt := 1, firstSlot := 993, stride := 4, perSlot := 1, leaf := 0, leaves := 2, round := 0, all := false, sat := false, loc := 0, lateTicks := 0, srKey := 0, children := [2], rsvdZero := true } : Plan), fmt := 1, op := 1, ordered := false, count := 2, src := 0, dst := 0, ctx := 0, env := 1, cls := 2, chunks := [(0, { own := true, counts := [1, 1], got := [2], native := [some 1, some 2], contribs := 2 })] } : Reduction))] } }
def w250 : State := { S0 with cis := { reds := [(4, ({ plan := ({ id := 7, parent := 0xFFFF, outFmt := 1, firstSlot := 993, stride := 4, perSlot := 1, leaf := 0, leaves := 2, round := 0, all := false, sat := false, loc := 0, lateTicks := 0, srKey := 0, children := [2], rsvdZero := true } : Plan), fmt := 1, op := 1, ordered := false, count := 2, src := 0, dst := 0, ctx := 0, env := 1, cls := 2, chunks := [(0, { own := true, counts := [1, 1], got := [2], native := [some 1, some 2], contribs := 1 })] } : Reduction))] } }
def w251 : State := { S0 with cis := { reds := [(4, ({ plan := ({ id := 7, parent := 0xFFFF, outFmt := 1, firstSlot := 993, stride := 4, perSlot := 1, leaf := 0, leaves := 2, round := 0, all := false, sat := false, loc := 0, lateTicks := 0, srKey := 0, children := [2], rsvdZero := true } : Plan), fmt := 1, op := 1, ordered := false, count := 2, src := 0, dst := 0, ctx := 0, env := 1, cls := 2, chunks := [(0, { own := true, counts := [1, 1], got := [2], native := [some 1, some 2], contribs := 2 })] } : Reduction))] } }
def w252 : State := { S0 with cis := { reds := [(4, ({ plan := ({ id := 7, parent := 5, outFmt := 1, firstSlot := 0, stride := 4, perSlot := 1, leaf := 0, leaves := 2, round := 0, all := true, sat := false, loc := 0, lateTicks := 992, srKey := 0, children := [2], rsvdZero := true } : Plan), fmt := 1, op := 1, ordered := false, count := 2, src := 0, dst := 0, ctx := 0, env := 1, cls := 2, chunks := [(0, { own := true })] } : Reduction))] } }
def w253 : State := { S0 with cis := { reds := [(4, ({ plan := ({ id := 7, parent := 5, outFmt := 1, firstSlot := 993, stride := 4, perSlot := 1, leaf := 0, leaves := 2, round := 0, all := true, sat := false, loc := 0, lateTicks := 0, srKey := 0, children := [2], rsvdZero := true } : Plan), fmt := 1, op := 1, ordered := false, count := 2, src := 0, dst := 0, ctx := 0, env := 1, cls := 2, chunks := [(0, { own := true, got := [2] })] } : Reduction))] } }
def w254 : State := (askedTake 2 1 9 (fabArrive 1 1 false ⟨0, 2, 0, 2, 5, 0, false, 0, true⟩
    ({ S0 with fab := { S0.fab with peers := [(2, { sess := .established, live := true, path := some 0, asked := [(1, 9, .fenceOp 3 true 0 6 0 0 0 0)] })] } }))).2
def w255 : State := { S0 with fab := { S0.fab with peers := [(2, { sess := .established, live := true, path := some 0, asked := [(1, 9, .fenceOp 3 true 0 6 0 0 0 0)] })] } }
def w256 : State := (askedTake 2 3 9 (fabArrive 2 1 false ⟨0, 2, 0, 2, 5, 0, false, 0, true⟩
    ({ S0 with time := S0.time, que := { S0.que with reqs := [(4, wReq)], nextReq := 5 }, fab := { S0.fab with peers := [(2, { sess := .established, live := true, path := some 0, asked := [(3, 9, .read 4 0 5 64)] })] } }))).2
def w257 : State := { S0 with time := S0.time, que := { S0.que with reqs := [(4, wReq)], nextReq := 5 }, fab := { S0.fab with peers := [(2, { sess := .established, live := true, path := some 0, asked := [(3, 9, .read 4 0 5 64)] })] } }
def w258 : State := (askedTake 2 3 9 (fabArrive 2 1 false ⟨0, 2, 0, 2, 5, 0, false, 0, true⟩
    ({ S0 with que := { S0.que with reqs := [(4, { wReq with op := .load (2^55) 64 })], nextReq := 5 }, fab := { S0.fab with peers := [(2, { sess := .established, live := true, path := some 0, asked := [(3, 9, .read 4 0 5 64)] })] } }))).2
def w259 : State := { S0 with que := { S0.que with reqs := [(4, { wReq with op := .load (2^55) 64 })], nextReq := 5 }, fab := { S0.fab with peers := [(2, { sess := .established, live := true, path := some 0, asked := [(3, 9, .read 4 0 5 64)] })] } }
def w260 : State := { S0 with que := { S0.que with reqs := [(4, { wReq with op := .atomic (2^55) ({ aop := 2, width := 4, fmt := 9, operand := 3, compare := 0, noret := false } : AtomOp) })], nextReq := 5 }, fab := { S0.fab with peers := [(2, { sess := .established, live := true, path := some 0, asked := [(3, 9, .atomic 4 5 ({ aop := 2, width := 4, fmt := 9, operand := 3, compare := 0, noret := false } : AtomOp))] })] } }
def w261 : State := (askedTake 2 3 9 (fabArrive 2 1 false ⟨0, 2, 0, 2, 5, 0, false, 0, true⟩
    ({ S0 with que := { S0.que with reqs := [(4, { wReq with op := .atomic (2^55) ({ aop := 2, width := 4, fmt := 9, operand := 3, compare := 0, noret := false } : AtomOp) })], nextReq := 5 }, fab := { S0.fab with peers := [(2, { sess := .established, live := true, path := some 0, asked := [(3, 9, .atomic 4 5 ({ aop := 2, width := 4, fmt := 9, operand := 3, compare := 0, noret := false } : AtomOp))] })] } }))).2
def w262 : State := (askedTake 2 3 9 (fabArrive 2 0 false ⟨0, 2, 0, 2, 5, 0, false, 0, true⟩
    ({ S0 with que := { S0.que with reqs := [(4, { wReq with op := .atomic (2^55) ({ aop := 2, width := 4, fmt := 9, operand := 3, compare := 0, noret := false } : AtomOp) })], nextReq := 5 }, fab := { S0.fab with peers := [(2, { sess := .established, live := true, path := some 0, asked := [(3, 9, .atomic 4 5 ({ aop := 2, width := 4, fmt := 9, operand := 3, compare := 0, noret := false } : AtomOp))] })] } }))).2
def w263 : State := { S0 with que := { S0.que with reqs := [(4, { wReq with op := .store (2^55) [1, 2] })], nextReq := 5 }, fab := { S0.fab with peers := [(2, { sess := .established, live := true, path := some 0, asked := [(3, 9, .write 4 5 [1, 2])] })] } }
def w264 : State := (askedTake 2 3 9 (fabArrive 2 0 false ⟨0, 2, 0, 2, 5, 0, false, 0, true⟩
    ({ S0 with que := { S0.que with reqs := [(4, { wReq with op := .store (2^55) [1, 2] })], nextReq := 5 }, fab := { S0.fab with peers := [(2, { sess := .established, live := true, path := some 0, asked := [(3, 9, .write 4 5 [1, 2])] })] } }))).2
def w265 : State := { S0 with fab := { S0.fab with peers := [(2, { sess := .established, live := true, path := some 0, rx := [(3, 3)] })] } }
def w266 : State := { S0 with fab := { S0.fab with links := [(0, { st := .up, rxSeq := 9, txSeq := 6, replay := [(4, .session 2 1), (5, .session 2 3)], mask := 0xFF, cred := [(0, 64), (1, 64), (2, 64), (3, 64)] })] } }
def w267 : State := { S0 with fab := { S0.fab with links := [(0, { st := .up, mask := 0xFF, cred := [(0, 64), (1, 64), (2, 64), (3, 64)] , nakFor := (5, 2) })] } }
def w268 : State := { S0 with fab := { S0.fab with links := [(0, { st := .up, rxSeq := 9, txSeq := 6, replay := [(4, .session 2 1), (5, .session 2 3)], mask := 0xFF, cred := [(0, 64), (1, 64), (2, 64), (3, 64)] })] , peers := [] } }
def w269 : State := { S0 with fab := { S0.fab with links := [(0, { st := .retraining, ticks := 100000, mask := 0xFF, cred := [(0, 64), (1, 64), (2, 64), (3, 64)] })] } }
def w270 : State := { S0 with fab := { S0.fab with links := [(0, { st := .training, mask := 0xFF, cred := [(0, 64), (1, 64), (2, 64), (3, 64)] })] } }
def w271 : State := { S0 with fab := { S0.fab with links := [(0, { st := .up, mask := 0xFF, cred := [(0, 64), (1, 64), (2, 64), (3, 64)] })] } }
def w272 : State := { S0 with fab := { S0.fab with links := [(0, { st := .initialising, mask := 0xFF, cred := [(0, 64), (1, 64), (2, 64), (3, 64)] })] } }
def w273 : State := { S0 with spl := { S0.spl with img := { S0.spl.img with flEn := 1 } } }
def w274 : State := { S0 with fab := { S0.fab with announced := [(0, [2, 3])] } }
def w275 : State := { S0 with spl := { S0.spl with chip := 0xFFFF, img := { S0.spl.img with flEn := 3, planes := [0, 1] } }, fab := { S0.fab with links := [(0, { st := .up }), (1, { st := .up })] } }
def w276 : State := { S0 with spl := { S0.spl with planesExcluded := [3] } }
def w277 : State := { S0 with spl := { S0.spl with peers := [] } }
def w278 : State := { S0 with spl := { S0.spl with peers := [] }, fab := { S0.fab with announced := [(0, [2, 5])] } }
def w279 : State := { S0 with spl := { S0.spl with peers := [(2, { st := .seen, linkMask := 1, digest := some 77 })] }, fab := { S0.fab with peers := [(2, { sess := .initSent })] } }
def w280 : State := { S0 with spl := { S0.spl with peers := [(2, { st := .seen, linkMask := 1, digest := some 77 })] }, fab := { S0.fab with peers := [(2, { sess := .replySent })] } }
def w281 : State := { S0 with spl := { S0.spl with peers := [(2, { st := .seen, linkMask := 1, digest := some 77 })] }, fab := { S0.fab with peers := [(2, { sess := .finishSent })] } }
def w282 : State := { S0 with spl := { S0.spl with peers := [(2, { st := .active, linkMask := 1, digest := some 77 })] }, fab := { S0.fab with peers := [(2, { sess := .established, live := true, path := some 0, unacked := [{ pkt := { dst := 2, vc := 3, eseq := 0, ctr := 0, stick := 0, kepoch := false, p := { body := .write 4 0 [1, 2] } }, bytes := 64, link := 0 }], wait := 9 })] } }
def w283 : State := { S0 with spl := { S0.spl with peers := [(2, { st := .active, linkMask := 1, digest := some 77 })] }, fab := { S0.fab with peers := [(2, { sess := .established, live := true, path := some 0, rekeyTicks := 2 ^ 32 })] } }
def w284 : State := { S0 with spl := { S0.spl with peers := [(2, { st := .active, linkMask := 1, digest := some 77 , silent := 2 ^ 33 })] }, fab := { S0.fab with peers := [(2, { sess := .established, live := true, path := some 0 })] } }
def w285 : State := { S0 with spl := { S0.spl with img := { S0.spl.img with peerLostTicks := 4 } } }
def w286 : State := { S0 with spl := { S0.spl with peers := [(2, { st := .seen, linkMask := 1, digest := some 77 })] } }
def w287 : State := { S0 with spl := { S0.spl with peers := [(2, { st := .active, linkMask := 1, digest := some 77 })] }, fab := { S0.fab with peers := [(2, { sess := .established, live := true, path := some 0, moveTo := some 1 })] } }
def w288 : State := { S0 with env := { S0.env with pending := [(2, .pause)], effect := 1005 } }
def w289 : State := { S0 with env := { S0.env with pending := [(1, .pause)], effect := 1004, busy := true } }
def w290 : State := { S0 with env := { S0.env with pending := [(1, .pause)], effect := 1000, busy := true } }
def w291 : State := { S0 with env := { S0.env with envs := [(1, { wEnv with peers := [(2, ⟨1, 2, 3⟩)] })] } }
def w292 : State := { S0 with env := { S0.env with envs := [(1, { wEnv with newBase := 32, move := .mirrored })] } }
def w293 : State := { S0 with env := { envs := [(1, { wEnv with st := .paused })] } }
def w294 : State := { S0 with env := { S0.env with envs := [(1, { wEnv with newBase := 0, lbase := 32, move := .switched })] } }
def w295 : State := { S0 with env := { S0.env with envs := [(1, { wEnv with st := .paused })] } }
def w296 : State := { S0 with env := { S0.env with envs := [(1, { wEnv with dirty := some { ring := 4096, k := 10, device := true, host := false } })] } }
def w297 : State := { S0 with env := { S0.env with envs := [] } }
def w298 : State := { S0 with env := { S0.env with envs := [(1, { wEnv with st := .creating })] } }
def w299 : State := { S0 with env := { S0.env with envs := [(1, { wEnv with st := .removing, removeTicks := 2 })] }, que := {} }
def w300 : State := { S0 with env := { S0.env with envs := [(1, { wEnv with move := .copying, newBase := 32 })] }, rsvr := { S0.rsvr with mem := [(16 * 2^30 + 5, 7), (33 * 2^30, 9)], poison := [16 * 2^27 + 9] } }
def w301 : State := { S0 with env := { S0.env with envs := [(1, { wEnv with move := .switched, newBase := 32 })] }, que := {} }
def w302 : State := { { S0 with env := { S0.env with envs := [(1, { wEnv with dirty := some ({ ring := 4096, k := 10, device := true, host := false, head := 3, tail := 5, logged := [1, 2], pend := [9], recs := [(false, 1), (true, 2)] } : Dirty) })] } } with reg := { S0.reg with sel := mset S0.reg.sel (4 * rENV_SEL) 1 } }
def w303 : State := { S0 with env := {}, que := { S0.que with ctxs := [], queues := [], reqs := [(4, wReq)] } }
def w304 : State := setRaw (rWEIR_STATUS + 24) 2
    ({ S0 with weir := { regions := [(3, { maxLevel := 2, quiet := 5000000000 })] } })
def w305 : State := setRaw (rWEIR_STATUS + 24) 2
    { { S0 with weir := { regions := [(3, { maxLevel := 2, quiet := 0 })] } } with spl := { S0.spl with img := { S0.spl.img with quietTicks := 9 } } }
def w306 : State := { S0 with weir := { unitBusy := some (2, 3, .test) } }
def w307 : State := { S0 with port := { mp := [(0, { st := .failing })] } }
def w308 : State := { S0 with weir := { S0.weir with units := [(320, .outOfService), (321, .outOfService), (322, .outOfService), (323, .outOfService)] } }
def w309 : State := { S0 with weir := { units := [(259, .outOfService)] } }
def w310 : State := { S0 with weir := { units := [(259, .testing)] } }
def w311 : State := { S0 with weir := { units := [(259, .waitingSubst)] } }
def w312 : State := { S0 with weir := { unitBusy := some (5, 3, .test) } }
def w313 : State := { S0 with weir := { unitBusy := some (2, 3, .test), units := [(259, .testing)] }, spl := { S0.spl with recovery := true } }
def w314 : State := { S0 with weir := { units := [(515, .testing)] } }
def w315 : State := setRaw rWEIR_SLUICE_TICK (1008) { S0 with sluice := { } }
def w316 : State := { S0 with obs := { S0.obs with auditOn := true }, stalled := [.sluiceResume 0] }
def w317 : State := setRaw rWEIR_SLUICE_TICK 1009 { S0 with sluice := { st := .held } }
def w318 : State := { S0 with sluice := { st := .announced, domain := true, tickT := 1008, originChip := 2 } }
def w319 : State := setRaw rWEIR_SLUICE_TICK (1100)
    { S0 with sluice := { st := .announced, origin := true, domain := true, tickT := 1050, waiting := [2] } }
def w320 : State := setRaw rWEIR_SLUICE_TICK (1100) { S0 with sluice := { st := .held, originChip := 2, domain := true } }
def w321 : State := setRaw rWEIR_SLUICE_TICK (1100) { S0 with sluice := { st := .held, originChip := 3, domain := true } }
def w322 : State := setRaw rWEIR_SLUICE_TICK (1100) { S0 with sluice := { st := .capturing } }
def w323 : State := setRaw rWEIR_SLUICE_TICK (1100) { S0 with sluice := { st := .resumePending, tickR := 1000 } }
def w324 : State := (qS fun q => { q with fences := [(0, { wFence with compat := true, value := 0xFFFFFFFE })] })
def w325 : State := (qS fun q =>
    { q with fences := [(0, wFence)] , waits := [(0, ({ fence := 0, target := 9, who := .cmd 0, scope := 0, core := 0, engine := 0, left := none, registered := true } : Wait)), (1, ({ fence := 0, target := 5, who := .cmd 0, scope := 0, core := 0, engine := 0, left := none, registered := true } : Wait))], nextWait := 2 })
def w326 : State := (qS fun q =>
    { q with fences := [(0, { wFence with st := .exhausted })] , waits := [(0, ({ fence := 0, target := 9, who := .cmd 0, scope := 0, core := 0, engine := 0, left := none, registered := true } : Wait)), (1, ({ fence := 0, target := 5, who := .cmd 0, scope := 0, core := 0, engine := 0, left := none, registered := true } : Wait))], nextWait := 2 })
def w327 : State := { S0 with que := { S0.que with waits := List.replicate 65536 (0, ({ fence := 0, target := 9, who := .cmd 0, scope := 0, core := 0, engine := 0, left := none, registered := true } : Wait)) } }
def w328 : State := (qS fun q => { q with fences := [(0, { wFence with st := .error })] })
def w329 : State := (qS fun q => { q with objs := [(0, { wObj with st := .zombie })] })
def w330 : State := (qS fun q => { q with fences := [(0, { wFence with st := .destroying })] })
def w331 : State := { S0 with port := { mp := [(3, { st := .training })] } }
def w332 : State := { S0 with ep := { S0.ep with ports := mset S0.ep.ports 1 { link := 2, st := .up, perst := false, hostId := 3 }, insts := mset (mset S0.ep.insts 1 { cfg := [(1, 6)] }) 5 {} } }

/-! ### Witnesses: one theorem per statement with hypotheses, one part per clause -/

theorem witness_StepRunsFront :
    (∃ (s : State), s.pending = []) :=
  ⟨S0, by decide⟩

theorem witness_StepsKeepOutputs :
    (∃ (s : State), OutputsFollow s) ∧
    (∃ (s : State), OutputsFollow s) :=
  ⟨⟨S0, by decide⟩,
   ⟨S0, by decide⟩⟩

theorem witness_StartUpPhases :
    (∃ (s : State), s.spl.phase = 1 ∧ s.spl.ended = []) ∧
    (∃ (s : State), s.spl.phase = 2 ∧ s.spl.recovery = false) ∧
    (∃ (s : State), s.spl.phase = 3 ∧ s.spl.recovery = false) ∧
    (∃ (s : State), inPhase4 s = true ∧ s.spl.begun.contains 4 = false) ∧
    (∃ (s : State), s.spl.phase ≠ 1) ∧
    (∃ (s : State), (s.spl.phase ≠ 2 ∨ s.spl.recovery = true)) ∧
    (∃ (s : State), (s.spl.phase ≠ 3 ∨ s.spl.recovery = true)) ∧
    (∃ (s : State), inPhase4 s = false) ∧
    (∃ (s : State), inPhase4 s = true ∧ s.spl.begun.contains 4 = true ∧ acquired s = true) ∧
    (∃ (s : State), inPhase4 s = true ∧ s.spl.begun.contains 4 = true ∧ mayAcquire s = true ∧ acquired s = false) ∧
    (∃ (s : State), inPhase4 s = true ∧ s.spl.begun.contains 4 = true ∧ s.spl.img.acqTicks ≤ s.spl.acqTicks ∧ s.time.st ≠
    .locked) ∧
    (∃ (s : State), (s.spl.begun.contains 4 = false ∨ s.spl.acqTicks < s.spl.img.acqTicks ∨ s.time.st = .locked)) ∧
    (∃ (s : State), s.spl.begun.contains 4 = true ∧ acquired s = false ∧ mayAcquire s = false) ∧
    (∃ (s : State), s.spl.recovery = false ∧ s.spl.ended.contains 3 = true ∧ s.spl.ended.contains 5 = false) ∧
    (∃ (s : State), (s.spl.recovery = true ∨ s.spl.ended.contains 3 = false ∨ s.spl.ended.contains 5 = true)) ∧
    (∃ (s : State), s.spl.recovery = false ∧ s.spl.ended.contains 3 = true ∧ s.spl.ended.contains 5 = false ∧ (∀ p < 4, (hport
    p s).link = 0)) ∧
    (∃ (s : State), s.spl.recovery = false ∧ s.spl.ended.contains 4 = true ∧ s.spl.ended.contains 6 = false) ∧
    (∃ (s : State), s.spl.phase = 7 ∧ s.spl.recovery = false ∧ s.spl.begun.contains 7 = false ∧ s.spl.ended.contains 7 = false
    ∧ s.spl.img.templates = [] ∧ s.env.envs = []) ∧
    (∃ (s : State), s.spl.phase = 7 ∧ s.spl.recovery = false ∧ s.spl.begun.contains 7 = false) ∧
    (∃ (x : Nat × List Byte), (tmplOf x.2).instantiate = false) ∧
    (∃ (x : Nat × List Byte) (s : State), (tmplOf x.2).instantiate = true ∧ createCheck x.1 (tmplOf x.2) s = none) ∧
    (∃ (x : Nat × List Byte) (s : State) (c : Status), (tmplOf x.2).instantiate = true ∧ createCheck x.1 (tmplOf x.2) s = some
    c) ∧
    (∃ (s : State), (s.spl.phase ≠ 7 ∨ s.spl.recovery = true ∨ s.spl.begun.contains 7 = true)) ∧
    (∃ (s : State), (s.spl.recovery = true ∨ s.spl.ended.contains 4 = false ∨ s.spl.ended.contains 6 = true)) :=
  ⟨⟨{ S0 with spl := { phase := 1 } }, by decide⟩,
   ⟨w1, by decide⟩,
   ⟨w2, by decide⟩,
   ⟨w3, by decide⟩,
   ⟨S0, by decide⟩,
   ⟨S0, by decide⟩,
   ⟨S0, by decide⟩,
   ⟨S0, by decide⟩,
   ⟨w4, by decide⟩,
   ⟨w5, by decide⟩,
   ⟨w6, by decide⟩,
   ⟨S0, by decide⟩,
   ⟨w7, by decide⟩,
   ⟨w8, by decide⟩,
   ⟨S0, by decide⟩,
   ⟨w9, by decide⟩,
   ⟨w10, by decide⟩,
   ⟨w11, by decide⟩,
   ⟨w12, by decide⟩,
   ⟨(3, []), by decide⟩,
   ⟨(3, [1, 0, 0, 0, 2, 0, 7, 0, 1, 0, 0, 0, 255, 255, 7, 0, 40, 0, 0, 0, 1, 0, 0, 0, 1, 0, 1, 0, 1, 0, 1, 0, 1, 0, 0, 0, 1,
   0]), S0, by decide +kernel⟩,
   ⟨(1, [1, 0, 0, 0, 2, 0, 7, 0, 1, 0, 0, 0, 255, 255, 7, 0, 40, 0, 0, 0, 1, 0, 0, 0, 1, 0, 1, 0, 1, 0, 1, 0, 1, 0, 0, 0, 1,
   0]), S0, .busy, by decide⟩,
   ⟨S0, by decide⟩,
   ⟨S0, by decide⟩⟩

theorem witness_StagingRuns :
    (∃ (p : HP) (s : State), mgrOpen p.val rSPL_CTRL s = true ∧ s.spl.stage ≠ .authenticating ∧ s.spl.commitBusy = false) ∧
    (∃ (s : State), (s.spl.stage = .authenticating ∨ s.spl.commitBusy = true)) ∧
    (∃ (p : HP) (off : BitVec 23) (data : List Byte) (s : State), mgrOpen p.val rSPL_CTRL s = true ∧ s.spl.stage = .opened ∧
    off.toNat + data.length ≤ 0x800000) ∧
    (∃ (p : HP) (s : State), mgrOpen p.val rSPL_CTRL s = true ∧ s.spl.stage ≠ .opened) ∧
    (∃ (p : HP) (s : State), mgrOpen p.val rSPL_CTRL s = true ∧ s.spl.stage = .opened) ∧
    (∃ (s : State), s.spl.stage = .authenticating) ∧
    (∃ (s : State), s.spl.commitBusy = true) ∧
    (∃ (s : State), s.spl.commitBusy = true) ∧
    (∃ (e : JournalEntry) (r : List JournalEntry) (s : State), s.spl.journalWait = e :: r ∧ s.spl.commitBusy = false ∧
    s.spl.journal.length < 8192) ∧
    (∃ (n : Nat) (lane : Nat) (s : State), (repairLane n lane s).1 = true) :=
  ⟨⟨0, S0, by decide⟩,
   ⟨w13, by decide⟩,
   ⟨0, 0x7FFFFE, [1, 2], w14, by decide⟩,
   ⟨0, S0, by decide⟩,
   ⟨0, w14, by decide⟩,
   ⟨w13, by decide⟩,
   ⟨w15, by decide⟩,
   ⟨w15, by decide⟩,
   ⟨({ seq := 0, lane := ⟨0, 0, 3, 64⟩, marker := none, tick := 1000, mac := 0 } : JournalEntry), [], w16, by decide⟩,
   ⟨0, 3, w17, by decide⟩⟩

theorem witness_CommitAndBoot :
    (∃ (p : HP) (s : State), mgrOpen p.val rSPL_CTRL s = true ∧ stagedGood s = true ∧ s.spl.commitBusy = false ∧ mayClassC s =
    true) ∧
    (∃ (s : State), s.spl.commitBusy = true ∧ mayClassC s = true) ∧
    (∃ (p : HP) (s : State), mgrOpen p.val rSPL_CTRL s = true ∧ s.spl.recovery = true ∧ stagedGood s = true) ∧
    (∃ (s : State), s.spl.recovery = false) ∧
    (∃ (fn : Fn) (n : Nat) (s : State), mget s.spl.hostLoss fn.val = some n ∧ s.spl.img.hostLossWaitMs * 1000 ≤ n) :=
  ⟨⟨0, w18, by decide⟩,
   ⟨w19, by decide⟩,
   ⟨0, w20, by decide⟩,
   ⟨w18, by decide⟩,
   ⟨1, 3000, w21, by decide⟩⟩

theorem witness_HostPortEvents :
    (∃ (p : HP) (s : State), (hport p.val s).perst = true) ∧
    (∃ (p : HP) (s : State), (hport p.val s).perst = false) ∧
    (∃ (p : HP) (s : State), (hport p.val s).st = .down ∧ trained p.val s = false) ∧
    (∃ (p : HP) (s : State), (hport p.val s).perst = false) ∧
    (∃ (p : HP) (s : State), (hport p.val s).perst = true ∧ (s.spl.ended.contains 1 = false ∨ (s.spl.img.hpEn / 2 ^ p.val % 2
    = 0 ∧ s.spl.ended.contains 2 = true) ∨ arrangement (widthLimit p.val s) (hport p.val s).laneOut = none)) ∧
    (∃ (p : HP) (s : State) (a : Arrangement), (hport p.val s).perst = true ∧ s.spl.ended.contains 1 = true ∧ (s.spl.img.hpEn
    / 2 ^ p.val % 2 = 1 ∨ s.spl.ended.contains 2 = false) ∧ arrangement (widthLimit p.val s) (hport p.val s).laneOut = some a)
    ∧
    (∃ (p : HP) (s : State), (mayTrain p.val s = false ∨ (hport p.val s).link ≠ 1)) ∧
    (∃ (p : HP) (s : State), mayTrain p.val s = true ∧ (hport p.val s).link = 1) ∧
    (∃ (p : HP) (t : Trained) (a : Arrangement) (s : State), t.failed = [] ∧ arrangement (max t.width.val (widthLimit p.val
    s)) (hport p.val s).laneOut = some a ∧ t.flit = true) ∧
    (∃ (p : HP) (t : Trained) (a : Arrangement) (s : State) (q : HP), t.failed = [] ∧ arrangement (max t.width.val (widthLimit
    p.val s)) (hport p.val s).laneOut = some a ∧ t.flit = true ∧ q ≠ p) ∧
    (∃ (p : HP) (t : Trained) (a : Arrangement) (s : State), t.failed = [] ∧ arrangement (max t.width.val (widthLimit p.val
    s)) (hport p.val s).laneOut = some a ∧ t.flit = true) ∧
    (∃ (p : HP) (s : State), trained p.val s = false) ∧
    (∃ (p : HP) (s : State), trained p.val s = true) ∧
    (∃ (p : HP) (s : State), linkUp p.val s = false) ∧
    (∃ (p : HP) (s : State), linkUp p.val s = true) ∧
    (∃ (p : HP) (s : State), s.spl.recovery = true ∧ s.ep.mgr = [] ∧ 100000 ≤ s.spl.recoveryTicks ∧ firstUp s = some p.val) ∧
    (∃ (s : State), (s.spl.recovery = false ∨ s.ep.mgr ≠ [] ∨ s.spl.recoveryTicks < 100000 ∨ firstUp s = none)) :=
  ⟨⟨0, (eS fun e => { e with ports := [] }), by decide⟩,
   ⟨0, S0, by decide⟩,
   ⟨0, w22, by decide⟩,
   ⟨0, S0, by decide⟩,
   ⟨0, w23, by decide⟩,
   ⟨0, (eS fun e => { e with ports := [] }), ⟨0, [0, 1, 2, 3], false⟩, by decide⟩,
   ⟨0, S0, by decide⟩,
   ⟨0, w24, by decide⟩,
   ⟨0, ⟨1, 5, true, 7, []⟩, ⟨1, [0, 1], false⟩, w25, by decide⟩,
   ⟨0, ⟨1, 5, true, 7, []⟩, ⟨1, [0, 1], false⟩, w25, 1, by decide⟩,
   ⟨0, ⟨1, 5, true, 7, []⟩, ⟨1, [0, 1], false⟩, w25, by decide⟩,
   ⟨1, S0, by decide⟩,
   ⟨0, S0, by decide⟩,
   ⟨1, S0, by decide⟩,
   ⟨0, S0, by decide⟩,
   ⟨0, w26, by decide⟩,
   ⟨S0, by decide⟩⟩

theorem witness_HostTraffic :
    (∃ (p : HP) (tag : BitVec 14) (n : NpReq) (s : State), (hport p.val s).nps.find? (fun n => n.tag == tag.toNat) = some n ∧
    (∀ u, n.purpose ≠ .flush u) ∧ npFresh n s = false) ∧
    (∃ (p : HP) (tag : BitVec 14) (n : NpReq) (s : State), (hport p.val s).nps.find? (fun n => n.tag == tag.toNat) = some n ∧
    (∀ u, n.purpose ≠ .flush u) ∧ npFresh n s = true) ∧
    (∃ (p : HP) (tag : BitVec 14) (u : Nat) (n : NpReq) (s : State), (hport p.val s).nps.find? (fun n => n.tag == tag.toNat) =
    some n ∧ n.purpose = .flush u) ∧
    (∃ (p : HP) (tag : BitVec 14) (n : NpReq) (s : State), s.tr.ats.find? (fun a => a.tag == tag.toNat && a.port == p.val) =
    none ∧ (hport p.val s).nps.find? (fun n => n.tag == tag.toNat) = some n ∧ npFresh n s = false) ∧
    (∃ (p : HP) (tag : BitVec 14) (s : State), (hport p.val s).nps.find? (fun n => n.tag == tag.toNat) = none) ∧
    (∃ (p : HP) (tag : BitVec 14) (s : State), (hport p.val s).nps.find? (fun n => n.tag == tag.toNat) = none) ∧
    (∃ (p : HP) (tag : BitVec 14) (s : State), (hport p.val s).nps.find? (fun n => n.tag == tag.toNat) = none ∧ s.tr.ats.find?
    (fun a => a.tag == tag.toNat && a.port == p.val) = none) ∧
    (∃ (p : HP) (tag : BitVec 14) (n : NpReq) (s : State) (u : Nat), s.tr.ats.find? (fun a => a.tag == tag.toNat && a.port ==
    p.val) = none ∧ (hport p.val s).nps.find? (fun n => n.tag == tag.toNat) = some n ∧ npFresh n s = true ∧ n.purpose = .flush
    u) ∧
    (∃ (p : HP) (tag : BitVec 14) (n : NpReq) (s : State), s.tr.ats.find? (fun a => a.tag == tag.toNat && a.port == p.val) =
    none ∧ (hport p.val s).nps.find? (fun n => n.tag == tag.toNat) = some n ∧ npFresh n s = true) ∧
    (∃ (p : HP) (tag : BitVec 14) (a : Ats) (s : State), s.tr.ats.find? (fun a => a.tag == tag.toNat && a.port == p.val) =
    some a) ∧
    (∃ (lost : HP) (fn : Fn) (r : Replay) (s : State), s.ep.replays.find? (fun r => r.lost == lost.val && r.fn == fn.val) =
    some r ∧ (r.coverSeq ≠ 0 ∨ r.entries ≠ [])) ∧
    (∃ (lost : HP) (fn : Fn) (r : Replay) (s : State), s.ep.replays.find? (fun r => r.lost == lost.val && r.fn == fn.val) =
    some r ∧ r.coverSeq = 0 ∧ r.entries = []) ∧
    (∃ (lost : HP) (fn : Fn) (s : State), s.ep.replays.find? (fun r => r.lost == lost.val && r.fn == fn.val) = none) ∧
    (∃ (fn : Fn) (b : Fin 64) (s : State), s.ep.moves.find? (fun m => m.fn == fn.val && m.bucket == b.val) = none) ∧
    (∃ (fn : Fn) (b : Fin 64) (m : BucketMove) (s : State), s.ep.moves.find? (fun m => m.fn == fn.val && m.bucket == b.val) =
    some m ∧ (hport m.src s).covered < m.need) ∧
    (∃ (fn : Fn) (b : Fin 64) (m : BucketMove) (s : State), s.ep.moves.find? (fun m => m.fn == fn.val && m.bucket == b.val) =
    some m ∧ m.need ≤ (hport m.src s).covered) ∧
    (∃ (p : HP) (s : State), linkUp p.val s = true ∧ (hport p.val s).lstate = .l0 ∧ 64 ≤ (hport p.val s).idle ∧ (hport p.val
    s).nps = [] ∧ (hport p.val s).uq = [] ∧ cfgBit 0 p.val 0x18 1 s = true) ∧
    (∃ (p : HP) (s : State), (linkUp p.val s = false ∨ (hport p.val s).lstate ≠ .l0 ∨ (hport p.val s).idle < 64 ∨ (hport p.val
    s).nps ≠ [] ∨ (hport p.val s).uq ≠ [] ∨ cfgBit 0 p.val 0x18 1 s = false)) ∧
    (∃ (p : HP) (s : State), (linkUp p.val s = false ∨ (hport p.val s).lstate = .l1)) ∧
    (∃ (p : HP) (s : State), let h := hport p.val s; linkUp p.val s = true ∧ (hport p.val s).lstate ≠ .l1 ∧ h.lstate = .l0p ∧
    portUnits (lanesOf h.width) h.rate * 60 / 100 < h.queued) ∧
    (∃ (p : HP) (s : State), let h := hport p.val s; linkUp p.val s = true ∧ (hport p.val s).lstate ≠ .l1 ∧ (h.lstate ≠ .l0p ∨
    h.queued ≤ portUnits (lanesOf h.width) h.rate * 60 / 100) ∧ 1024 ≤ h.lowTicks ∧ 4 < lanesOf h.width) ∧
    (∃ (p : HP) (s : State), let h := hport p.val s; linkUp p.val s = true ∧ (hport p.val s).lstate ≠ .l1 ∧ (h.lstate ≠ .l0p ∨
    h.queued ≤ portUnits (lanesOf h.width) h.rate * 60 / 100) ∧ (h.lowTicks < 1024 ∨ lanesOf h.width ≤ 4)) ∧
    (∃ (p : HP) (s : State), linkUp p.val s = true) ∧
    (∃ (p : HP) (s : State), linkUp p.val s = false) ∧
    (∃ (fn : Fn) (p : HP) (s : State), ((mgetD s.ep.insts (4 * fn.val + p.val) {}).pmeStatus = false ∨ linkUp p.val s =
    false)) ∧
    (∃ (fn : Fn) (p : HP) (s : State), (mgetD s.ep.insts (4 * fn.val + p.val) {}).pmeStatus = true ∧ linkUp p.val s = true) :=
  ⟨⟨0, 3, ({ tag := 3, fn := 1, fnGen := 1, ctx := none, ctxGen := 0, pasid := none, addr := 4096, len := 128, purpose := .access 4 0 }
    : NpReq), w27, ⟨by decide, (by intro u h; cases h), by decide⟩⟩,
   ⟨0, 3, ({ tag := 3, fn := 1, fnGen := 0, ctx := none, ctxGen := 0, pasid := none, addr := 4096, len := 128, purpose := .fetch 1 0 }
   : NpReq), w28, ⟨by decide, (by intro u h; cases h), by decide⟩⟩,
   ⟨0, 3, 7, ({ tag := 3, fn := 1, fnGen := 0, ctx := none, ctxGen := 0, pasid := none, addr := 4096, len := 128, purpose := .flush 7 }
   : NpReq), w29, by decide⟩,
   ⟨0, 3, ({ tag := 3, fn := 1, fnGen := 1, ctx := none, ctxGen := 0, pasid := none, addr := 4096, len := 128, purpose := .access 4 0 }
   : NpReq), w27, by decide⟩,
   ⟨0, 9, w27, by decide⟩,
   ⟨0, 9, w27, by decide⟩,
   ⟨0, 9, w27, by decide⟩,
   ⟨0, 3, ({ tag := 3, fn := 1, fnGen := 0, ctx := none, ctxGen := 0, pasid := none, addr := 4096, len := 128, purpose := .flush 7 }
   : NpReq), w29, 7, by decide⟩,
   ⟨0, 3, ({ tag := 3, fn := 1, fnGen := 0, ctx := none, ctxGen := 0, pasid := none, addr := 4096, len := 128, purpose := .fetch 1 0 }
   : NpReq), w28, by decide⟩,
   ⟨0, 1, ({ tag := 1, port := 0, fn := 1, fnGen := 0, pasid := 7, page := 5, waiters := [(0, 4)] } : Ats), w30, by decide⟩,
   ⟨1, 1, ({ lost := 1, fn := 1, port := 0, entries := [], buckets := [3], nps := [], coverSeq := 5 } : Replay), w31, by
   decide⟩,
   ⟨1, 1, ({ lost := 1, fn := 1, port := 0, entries := [], buckets := [3], nps := [], coverSeq := 0 } : Replay), w32, by
   decide⟩,
   ⟨1, 1, S0, by decide⟩,
   ⟨1, 3, S0, by decide⟩,
   ⟨1, 3, ({ fn := 1, bucket := 3, src := 0, dst := 2, need := 8 } : BucketMove), w33, by decide⟩,
   ⟨1, 3, ({ fn := 1, bucket := 3, src := 0, dst := 2, need := 8 } : BucketMove), w34, by decide⟩,
   ⟨0, w35, by decide⟩,
   ⟨0, S0, by decide⟩,
   ⟨1, S0, by decide⟩,
   ⟨0, w36, by decide⟩,
   ⟨0, w35, by decide⟩,
   ⟨0, S0, by decide⟩,
   ⟨0, S0, by decide⟩,
   ⟨1, S0, by decide⟩,
   ⟨1, 0, S0, by decide⟩,
   ⟨1, 0, w37, by decide⟩⟩

theorem witness_ConfigurationSpace :
    (∃ (p : HP) (fn : Fn) (s : State), (hport p.val s).link = 2 ∧ (mgetD s.ep.insts (4 * fn.val + p.val) {}).cold = false ∧
    s.spl.recovery = false ∧ s.spl.ended.contains 5 = false) ∧
    (∃ (p : HP) (fn : Fn) (s : State), (hport p.val s).link = 2 ∧ instAt fn.val p.val s = true ∧ (mgetD s.ep.insts (4 * fn.val
    + p.val) {}).cold = false ∧ s.spl.ended.contains 5 = true) ∧
    (∃ (p : HP) (fn : Fn) (s : State), (hport p.val s).link = 2 ∧ instAt fn.val p.val s = true ∧ (mgetD s.ep.insts (4 * fn.val
    + p.val) {}).cold = false ∧ s.spl.ended.contains 5 = true ∧ cfgHeld fn.val p.val s = false) ∧
    (∃ (p : HP) (fn : Fn) (s : State), (hport p.val s).link = 2 ∧ instAt fn.val p.val s = true ∧ (mgetD s.ep.insts (4 * fn.val
    + p.val) {}).cold = false ∧ s.spl.ended.contains 5 = true ∧ cfgHeld fn.val p.val s = true) ∧
    (∃ (p : HP) (s : State), instAt 0 p.val s = true ∧ linkUp p.val s = true ∧ cfgHeld 0 p.val s = false) ∧
    (∃ (fn : Fn) (p : HP) (s : State), instAt fn.val p.val s = true ∧ linkUp p.val s = true ∧ cfgHeld fn.val p.val s = false ∧
    (func fn.val s).priStopped = true) ∧
    (∃ (fn : Fn) (p : HP) (s : State), instAt fn.val p.val s = true ∧ linkUp p.val s = true ∧ cfgHeld fn.val p.val s = false ∧
    (func fn.val s).priStopped = true ∧ (func fn.val s).priCleared = true) ∧
    (∃ (fn : Fn) (p : HP) (s : State), instAt fn.val p.val s = true ∧ linkUp p.val s = true ∧ (mgetD s.ep.insts (4 * fn.val +
    p.val) {}).cold = false ∧ cfgHeld fn.val p.val s = false) ∧
    (∃ (t : Tlp) (p : HP) (fn : Fn) (vec : Fin 2048) (s : State), outsideIde t p.val s = false ∧ fnOpen p.val fn.val s = true
    ∧ vec.val < (func fn.val s).vectors ∧ s.ep.msixPending.contains (vecKey fn.val vec.val) = false) ∧
    (∃ (t : Tlp) (p : HP) (fn : Fn) (vec : Fin 2048) (s : State), outsideIde t p.val s = false ∧ (fnOpen p.val fn.val s =
    false ∨ (func fn.val s).vectors ≤ vec.val)) :=
  ⟨⟨0, 0, w38, by decide⟩,
   ⟨0, 0, S0, by decide⟩,
   ⟨0, 0, S0, by decide⟩,
   ⟨0, 1, w39, by decide⟩,
   ⟨0, S0, by decide⟩,
   ⟨1, 0, w40, by decide⟩,
   ⟨1, 0, w41, by decide⟩,
   ⟨1, 0, S0, by decide⟩,
   ⟨{}, 0, 1, 0, S0, by decide⟩,
   ⟨{}, 0, 1, 9, S0, by decide⟩⟩

theorem witness_FunctionResets :
    (∃ (fn : Fn) (p : HP) (s : State), fn ≠ 0 ∧ instAt fn.val p.val s = true ∧ linkUp p.val s = true ∧ s.spl.ended.contains 5
    = true ∧ (func fn.val s).flrBusy = false ∧ AuditRoom s ∧ s.que.ctxs = [] ∧ s.que.queues = [] ∧ s.que.reqs = []) ∧
    (∃ (fn : Fn) (p : HP) (s : State), instAt fn.val p.val s = true ∧ linkUp p.val s = true ∧ s.spl.ended.contains 5 = true ∧
    (func fn.val s).flrBusy = false ∧ fn ≠ 0) ∧
    (∃ (fn : Fn) (p : HP) (s : State), instAt fn.val p.val s = true ∧ linkUp p.val s = true ∧ s.spl.ended.contains 5 = true ∧
    (func fn.val s).flrBusy = false ∧ fn = 0) ∧
    (∃ (fn : Fn) (p : HP) (s : State), ((func fn.val s).flrBusy = true ∨ instAt fn.val p.val s = false ∨ linkUp p.val s =
    false ∨ s.spl.ended.contains 5 = false)) ∧
    (∃ (fn : Fn) (s : State), (func fn.val s).flrBusy = true ∧ ctxsOfFn fn.val s = []) ∧
    (∃ (fn : Fn) (s : State), ((func fn.val s).flrBusy = false ∨ ctxsOfFn fn.val s ≠ [])) ∧
    (∃ (p : HP) (fn : Fn) (s : State), (fnOpen p.val fn.val s = false ∨ bit (regRaw (fnKey fn.val fQUE_ADMIN_CTRL) s) 0 =
    true)) ∧
    (∃ (p : HP) (fn : Fn) (s : State),
    let t := each ((s.que.queues.filter fun e => e.2.ctx.isNone && e.2.fn == fn.val).map (·.1)) dropQueue s; fnOpen p.val
    fn.val s = true ∧ bit (regRaw (fnKey fn.val fQUE_ADMIN_CTRL) s) 0 = false ∧ fld (regRaw (fnKey fn.val fQUE_ADMIN_RING) s)
    0 12 = 0 ∧ fld (regRaw (fnKey fn.val fQUE_ADMIN_CPL) s) 0 12 = 0 ∧ 4 ≤ regFld (fnKey fn.val fQUE_ADMIN_CFG) 0 5 s ∧ regFld
    (fnKey fn.val fQUE_ADMIN_CFG) 0 5 s ≤ 12 ∧ takeSlot 65536 t.que.queSlots = none) ∧
    (∃ (p : HP) (fn : Fn) (s : State) (i : Nat) (sl : Slots),
    let t := each ((s.que.queues.filter fun e => e.2.ctx.isNone && e.2.fn == fn.val).map (·.1)) dropQueue s; fnOpen p.val
    fn.val s = true ∧ bit (regRaw (fnKey fn.val fQUE_ADMIN_CTRL) s) 0 = false ∧ fld (regRaw (fnKey fn.val fQUE_ADMIN_RING) s)
    0 12 = 0 ∧ fld (regRaw (fnKey fn.val fQUE_ADMIN_CPL) s) 0 12 = 0 ∧ 4 ≤ regFld (fnKey fn.val fQUE_ADMIN_CFG) 0 5 s ∧ regFld
    (fnKey fn.val fQUE_ADMIN_CFG) 0 5 s ≤ 12 ∧ takeSlot 65536 t.que.queSlots = some (i, sl)) ∧
    (∃ (p : HP) (fn : Fn) (s : State), fnOpen p.val fn.val s = true ∧ bit (regRaw (fnKey fn.val fQUE_ADMIN_CTRL) s) 0 = false
    ∧ (fld (regRaw (fnKey fn.val fQUE_ADMIN_RING) s) 0 12 ≠ 0 ∨ fld (regRaw (fnKey fn.val fQUE_ADMIN_CPL) s) 0 12 ≠ 0 ∨ regFld
    (fnKey fn.val fQUE_ADMIN_CFG) 0 5 s < 4 ∨ 12 < regFld (fnKey fn.val fQUE_ADMIN_CFG) 0 5 s)) :=
  ⟨⟨1, 0, { S0 with que := {} }, by decide⟩,
   ⟨1, 0, S0, by decide⟩,
   ⟨0, 0, S0, by decide⟩,
   ⟨3, 1, S0, by decide⟩,
   ⟨1, w42, by decide⟩,
   ⟨1, S0, by decide⟩,
   ⟨0, 3, S0, by decide⟩,
   ⟨0, 1, w43, by decide⟩,
   ⟨0, 1, w44, 0, { fresh := 1 }, by decide⟩,
   ⟨0, 1, w45, by decide⟩⟩

theorem witness_DoeAndPools :
    (∃ (p : HP) (i : Nat) (s : State), (hport p.val s).link = 2 ∧ instAt 0 p.val s = true ∧ i < 2) ∧
    (∃ (p : HP) (s : State), (hport p.val s).link = 2 ∧ instAt 0 p.val s = true) ∧
    (∃ (p : HP) (s : State), (hport p.val s).link = 2 ∧ instAt 0 p.val s = true ∧ (hport p.val s).spdm = true) ∧
    (∃ (p : HP) (s : State), (hport p.val s).spdm = false) ∧
    (∃ (p : HP) (st : Fin 9) (s : State), (hport p.val s).link = 2 ∧ instAt 0 p.val s = true ∧ (hport p.val s).spdm = true ∧
    (mget (hport p.val s).ideKeys st.val).isSome = true ∧ (hport p.val s).st = .up) ∧
    (∃ (p : HP) (s : State), ideUp p.val s = true ∧ s.spl.recovery = false) ∧
    (∃ (p : HP) (s : State), mgrOpen p.val rEPT_VEC_ALLOC s = false) ∧
    (∃ (p : HP) (s : State), mgrOpen p.val rEPT_VEC_ALLOC s = true ∧ mayClassC s = true) ∧
    (∃ (p : HP) (v : W32) (s : State), let fn := (selGet p.val rEPT_FUNC_SEL s).toNat; let n := v.toNat % 4096;
    let own := if (func fn s).env.isSome ∨ (func fn s).vectors ≠ 1 then (func fn s).vectors else 0; (fn = 0 ∨ 256 < fn ∨ n = 0
    ∨ 2048 < n ∨ (∃ q : HP, instAt fn q.val s = true ∧ instMsixEn fn q.val s = true) ∨ 65536 < 2048 + (vecUsed s - own) + n))
    ∧
    (∃ (p : HP) (v : W32) (s : State), let fn := (selGet p.val rEPT_FUNC_SEL s).toNat; let n := v.toNat % 4096;
    let own := if (func fn s).env.isSome ∨ (func fn s).vectors ≠ 1 then (func fn s).vectors else 0; 0 < fn ∧ fn ≤ 256 ∧ 0 < n
    ∧ n ≤ 2048 ∧ (∀ q : HP, instAt fn q.val s = false ∨ instMsixEn fn q.val s = false) ∧ 2048 + (vecUsed s - own) + n ≤ 65536)
    ∧
    (∃ (p : HP) (v : W32) (s : State) (g : Nat), let fn := (selGet p.val rEPT_FUNC_SEL s).toNat; let n := v.toNat % 4096;
    let own := if (func fn s).env.isSome ∨ (func fn s).vectors ≠ 1 then (func fn s).vectors else 0; 0 < fn ∧ fn ≤ 256 ∧ 0 < n
    ∧ n ≤ 2048 ∧ (∀ q : HP, instAt fn q.val s = false ∨ instMsixEn fn q.val s = false) ∧ 2048 + (vecUsed s - own) + n ≤ 65536
    ∧ g ≠ fn) ∧
    (∃ (p : HP) (v : W32) (s : State), let fn := (selGet p.val rEPT_FUNC_SEL s).toNat; let n := v.toNat % 4096;
    let own := if (func fn s).env.isSome ∨ (func fn s).vectors ≠ 1 then (func fn s).vectors else 0; 0 < fn ∧ fn ≤ 256 ∧ 0 < n
    ∧ n ≤ 2048 ∧ (∀ q : HP, instAt fn q.val s = false ∨ instMsixEn fn q.val s = false) ∧ 2048 + (vecUsed s - own) + n ≤ 65536)
    ∧
    (∃ (p : HP) (n : Fin 16) (w : RegW) (v : W64) (s : State) (s' : State), mgrOffer p.val (rEPT_HDM_MAP + 8 * n.val) w s =
    (some v, s') ∧ mayClassC s' = true) ∧
    (∃ (p : HP) (n : Fin 16) (w : RegW) (s : State) (s' : State), mgrOffer p.val (rEPT_HDM_MAP + 8 * n.val) w s = (none, s'))
    ∧
    (∃ (n : Fin 16) (v : W64) (s : State), let k := rEPT_HDM_MAP + 8 * n.val; (mget s.ep.hdm n.val = none ∨ bit (regRaw k s) 0
    = false ∨ (fld (regRaw k s) 1 8 = fld v 1 8 ∧ fld (regRaw k s) 32 13 = fld v 32 13))) ∧
    (∃ (n : Fin 16) (v : W64) (s : State), let k := rEPT_HDM_MAP + 8 * n.val; (mget s.ep.hdm n.val).isSome = true ∧ bit
    (regRaw k s) 0 = true ∧ (fld (regRaw k s) 1 8 ≠ fld v 1 8 ∨ fld (regRaw k s) 32 13 ≠ fld v 32 13)) :=
  ⟨⟨0, 1, S0, by decide⟩,
   ⟨0, S0, by decide⟩,
   ⟨0, w46, by decide⟩,
   ⟨0, S0, by decide⟩,
   ⟨0, 3, w47, by decide⟩,
   ⟨0, w48, by decide⟩,
   ⟨1, S0, by decide⟩,
   ⟨0, S0, by decide⟩,
   ⟨0, 0, w49, by decide⟩,
   ⟨0, 16, w49, by decide⟩,
   ⟨0, 16, w49, 1, by decide⟩,
   ⟨0, 16, w49, by decide⟩,
   ⟨0, 2, .full 0x1111222233334444, 0x1111222233334444, S0, w50, by decide⟩,
   ⟨1, 2, .full 0x1111222233334444, S0, S0, by decide⟩,
   ⟨2, 0x1111222233334444, S0, by decide⟩,
   ⟨2, 0x0000000100000005, w51, by decide⟩⟩

theorem witness_TetherClock :
    (∃ (cycles : BitVec 16) (ref10m : Bool) (s : State) (e : State) (m : State), e = (if frozen s then edgeFirst cycles.toNat
    ref10m s else parkPieces (edgeFirst cycles.toNat ref10m s)) ∧ m = each (List.range 4) portTick (syncSend (if frozen e then
    e else bindingEdge (guaranteeEdge e)))) ∧
    (∃ (s : State), s.time.stepGo = false) ∧
    (∃ (s : State), s.time.stepGo = false ∧ s.time.st = .holdover ∧ s.time.slewTicks = none) ∧
    (∃ (s : State), s.time.stepGo = false ∧ s.time.st = .freeRun ∧ s.time.slewTicks = none) ∧
    (∃ (s : State), s.time.stepGo = true ∧ s.time.st = .stepPending) ∧
    (∃ (l : FL) (s : State) (t1 : Stamp), mget s.time.exchange l.val = some t1) ∧
    (∃ (l : FL) (s : State), mget s.time.exchange l.val = none) ∧
    (∃ (t1 : Stamp) (t2 : Stamp) (t3 : Stamp) (t4 : Stamp) (d : Nat), d < 2 ^ 24 ∧ t3.toNat - t2.toNat + 2 * d < 2 ^ 67 ∧
    t2.toNat ≤ t3.toNat ∧ t4 = t1 + (t3 - t2) + BitVec.ofNat 68 (2 * d)) ∧
    (∃ (l : FL) (m : SyncMsg) (s : State), s.time.isRoot = false ∧ (linksUp s).contains l.val = true ∧ m.domain =
    s.spl.img.domainId ∧ s.time.excluded.contains l.val = false) ∧
    (∃ (l : FL) (m : SyncMsg) (s : State), s.time.isRoot = false ∧ (linksUp s).contains l.val = true ∧ m.domain =
    s.spl.img.domainId ∧ s.time.excluded.contains l.val = false ∧ s.time.heard = []) ∧
    (∃ (l : FL) (m : SyncMsg) (s : State), s.time.isRoot = false ∧ (linksUp s).contains l.val = true ∧ m.domain =
    s.spl.img.domainId ∧ s.time.excluded.contains l.val = true) ∧
    (∃ (a : Nat) (b : Nat) (x : Int × SyncMsg) (y : Int × SyncMsg) (s : State), s.time.heard = [(a, x), (b, y)] ∧ a < b ∧
    s.time.excluded = [] ∧ (linksUp s).contains a = true ∧ (linksUp s).contains b = true ∧ x.2.hops ≤ y.2.hops ∧ disagree y.1
    x.1 = true) ∧
    (∃ (a : Nat) (b : Nat) (x : Int × SyncMsg) (y : Int × SyncMsg) (s : State), s.time.heard = [(a, x), (b, y)] ∧ a < b ∧
    s.time.excluded = [] ∧ (linksUp s).contains a = true ∧ (linksUp s).contains b = true ∧ x.2.hops ≤ y.2.hops ∧ disagree y.1
    x.1 = false) :=
  ⟨⟨16000, true, S0, parkPieces (edgeFirst 16000 true S0), w52, by decide +kernel⟩,
   ⟨S0, by decide⟩,
   ⟨w53, by decide⟩,
   ⟨w54, by decide⟩,
   ⟨w55, by decide⟩,
   ⟨0, w56, 900, by decide⟩,
   ⟨1, w56, by decide⟩,
   ⟨100, (2^68 - 50), (2^68 - 20), 200, 35, by decide +kernel⟩,
   ⟨0, ⟨15999900, 0, 15999990, 0, 0, 2⟩, S0, by decide⟩,
   ⟨0, ⟨15999900, 0, 15999990, 0, 0, 2⟩, S0, by decide⟩,
   ⟨0, ⟨15999900, 0, 15999990, 0, 0, 2⟩, w57, by decide⟩,
   ⟨0, 1, (100, ⟨15999900, 0, 15999990, 0, 0, 2⟩), (-90000, ⟨15999900, 0, 15999990, 0, 0, 2⟩), w58, by decide⟩,
   ⟨0, 1, (100, ⟨15999900, 0, 15999990, 0, 0, 2⟩), (101, ⟨15999900, 0, 15999990, 0, 0, 2⟩), w59, by decide⟩⟩

theorem witness_Elections :
    (∃ (p : HP) (s : State), mgrOpen p.val rTTH_CTRL s = true ∧ mayClassC s = true) ∧
    (∃ (n : Nat) (c : RootClaim) (s : State), s.time.election = some n ∧ winner s = some c) ∧
    (∃ (n : Nat) (s : State), s.time.election = some n ∧ winner s = none) ∧
    (∃ (s : State), s.time.isRoot = true ∧ s.time.awaitPps = true) ∧
    (∃ (s : State), (s.time.isRoot = false ∨ s.time.awaitPps = false)) ∧
    (∃ (s : State), s.time.isRoot = true ∧ s.port.refPps = true ∧ s.spl.recovery = false) ∧
    (∃ (s : State), s.time.isRoot = false) :=
  ⟨⟨0, S0, by decide⟩,
   ⟨40, ({ quality := 1, priority := 3, chip := 2 } : RootClaim), w60, by decide⟩,
   ⟨3, w61, by decide⟩,
   ⟨w62, by decide⟩,
   ⟨S0, by decide⟩,
   ⟨w63, by decide⟩,
   ⟨S0, by decide⟩⟩

theorem witness_LosingTheTether :
    (∃ (s : State), s.time.st = .locked ∧ s.time.isRoot = false ∧ 4 ≤ s.time.noSync ∧ s.spl.recovery = false) ∧
    (∃ (s : State), (s.time.st ≠ .locked ∨ s.time.isRoot = true ∨ s.time.noSync < 4)) ∧
    (∃ (s : State), s.time.st = .holdover ∧ (s.spl.img.holdoverTicks ≤ s.time.holdTicks ∨ 20000 < s.time.errBound20) ∧
    s.spl.recovery = false) ∧
    (∃ (s : State), (s.time.st ≠ .holdover ∨ (s.time.holdTicks < s.spl.img.holdoverTicks ∧ s.time.errBound20 ≤ 20000))) ∧
    (∃ (s : State), (s.time.st = .holdover ∨ s.time.st = .freeRun) ∧ 16 ≤ s.time.syncRun ∧ s.time.slewTicks = none ∧
    s.time.isRoot = false ∧ s.time.offset.natAbs ≤ 25600) ∧
    (∃ (s : State), (s.time.st = .holdover ∨ s.time.st = .freeRun) ∧ 16 ≤ s.time.syncRun ∧ s.time.slewTicks = none ∧
    s.time.isRoot = false ∧ 25600 < s.time.offset.natAbs) ∧
    (∃ (p : HP) (s : State), mgrOpen p.val rTTH_CTRL s = true ∧ s.time.st = .stepPending ∧ mayClassC s = true) ∧
    (∃ (s : State), s.time.st ≠ .stepPending) :=
  ⟨⟨w64, by decide⟩,
   ⟨S0, by decide⟩,
   ⟨w65, by decide⟩,
   ⟨S0, by decide⟩,
   ⟨w66, by decide⟩,
   ⟨w67, by decide⟩,
   ⟨0, w68, by decide⟩,
   ⟨S0, by decide⟩⟩

theorem witness_PlainRegisters :
    (∃ (t : Tlp) (p : HP) (s : State), outsideIde t p.val s = false ∧ mgrOpen p.val rTRN_PRI_TIMEOUT s = true ∧ (regRaw
    rTRN_PRI_TIMEOUT s).toNat < 2 ^ 32) ∧
    (∃ (t : Tlp) (p : HP) (s : State), outsideIde t p.val s = false ∧ mgrOpen p.val rTTH_EVENT s = true) ∧
    (∃ (t : Tlp) (p : HP) (s : State), outsideIde t p.val s = false ∧ mgrOpen p.val rCOH_CTRL s = true) ∧
    (∃ (t : Tlp) (p : HP) (lo : W32) (s : State), outsideIde t p.val s = false ∧ regRaw rSYN_MGR_VEC s &&& ~~~0x7FF07FF07FF =
    0 ∧ mget s.reg.half (4 * rSYN_MGR_VEC + p.val) = some lo ∧ mgrOpen p.val rSYN_MGR_VEC s = true) ∧
    (∃ (t : Tlp) (p : HP) (s : State), outsideIde t p.val s = false ∧ mgrOpen p.val rQUE_CTX_SEL s = true) ∧
    (∃ (t : Tlp) (p : HP) (s : State), outsideIde t p.val s = true) ∧
    (∃ (t : Tlp) (p : HP) (s : State), outsideIde t p.val s = false) ∧
    (∃ (t : Tlp) (p : HP) (fn : Fn) (off : BitVec 24) (s : State), outsideIde t p.val s = false ∧ (off.toNat < 0x10000 →
    fnOpen p.val fn.val s = false) ∧ (0x10000 ≤ off.toNat → mgrOpen p.val off.toNat s = false)) :=
  ⟨⟨{}, 0, S0, by decide⟩,
   ⟨{}, 0, setRaw rTTH_EVENT 7 S0, by decide⟩,
   ⟨{}, 0, setRaw rTTH_EVENT 7 S0, by decide⟩,
   ⟨{}, 0, 0xFFFFFFFF, w69, by decide⟩,
   ⟨{}, 0, S0, by decide⟩,
   ⟨{ outside := true }, 0, w70, by decide⟩,
   ⟨{}, 0, S0, by decide⟩,
   ⟨{}, 0, 9, 0x2000, S0, by decide⟩⟩

theorem witness_ReadsThatClear :
    (∃ (t : Tlp) (p : HP) (s : State), outsideIde t p.val s = false ∧ mgrOpen p.val 0x13000 s = true ∧ readArrives p.val 0 s =
    true ∧ instMse 0 p.val s = true ∧ instD0 0 p.val s = true ∧ ideOk p.val s = true) ∧
    (∃ (t : Tlp) (p : HP) (fn : Fn) (s : State), outsideIde t p.val s = true ∧ readArrives p.val fn.val s = true) ∧
    (∃ (t : Tlp) (p : HP) (fn : Fn) (s : State), outsideIde t p.val s = false ∧ fnOpen p.val fn.val s = true ∧ readArrives
    p.val fn.val s = true ∧ instMse fn.val p.val s = true ∧ instD0 fn.val p.val s = true ∧ ideOk p.val s = true) ∧
    (∃ (t : Tlp) (p : HP) (c : Ctx) (s : State), outsideIde t p.val s = false ∧ mgrOpen p.val rQUE_CTX_SEL s = true ∧
    readArrives p.val 0 s = true ∧ instMse 0 p.val s = true ∧ instD0 0 p.val s = true ∧ ideOk p.val s = true ∧ mget s.que.ctxs
    ((selGet p.val rQUE_CTX_SEL s).toNat % 4096) = some c) ∧
    (∃ (p : Nat) (fn : Nat) (s : State), readArrives p fn s = false) ∧
    (∃ (p : Nat) (fn : Nat) (s : State), readArrives p fn s = true ∧ (instMse fn p s = false ∨ instD0 fn p s = false ∨ ideOk p
    s = false)) ∧
    (∃ (p : Nat) (fn : Nat) (s : State), readArrives p fn s = true ∧ instMse fn p s = true ∧ instD0 fn p s = true ∧ ideOk p s
    = true) ∧
    (∃ (t : Tlp) (p : HP) (fn : Fn) (off : BitVec 24) (wide : Bool) (s : State) (key : Nat) (o : Nat),
    let n := if wide then 4 else 2;
    let ok := if off.toNat < 0x10000 then fnOpen p.val fn.val s else mgrOpen p.val off.toNat s; outsideIde t p.val s = false ∧
    countBlock fn.val off.toNat = some (key, o) ∧ ok = true ∧ o % (2 * n) = 0) ∧
    (∃ (t : Tlp) (p : HP) (fn : Fn) (off : BitVec 24) (wide : Bool) (s : State) (key : Nat) (o : Nat),
    let n := if wide then 4 else 2;
    let ok := if off.toNat < 0x10000 then fnOpen p.val fn.val s else mgrOpen p.val off.toNat s; outsideIde t p.val s = false ∧
    countBlock fn.val off.toNat = some (key, o) ∧ (ok = false ∨ o % (2 * n) ≠ 0)) ∧
    (∃ (t : Tlp) (p : HP) (fn : Fn) (off : BitVec 24) (s : State), outsideIde t p.val s = false ∧ countBlock fn.val off.toNat
    = none) ∧
    (∃ (t : Tlp) (p : HP) (fn : Fn) (word : Fin 4) (wide : Bool) (s : State), outsideIde t p.val s = false ∧ fnOpen p.val
    fn.val s = true ∧ (wide = false ∨ word.val % 2 = 0)) ∧
    (∃ (t : Tlp) (p : HP) (fn : Fn) (word : Fin 4) (wide : Bool) (s : State), outsideIde t p.val s = false ∧ (fnOpen p.val
    fn.val s = false ∨ (wide = true ∧ word.val % 2 = 1))) ∧
    (∃ (t : Tlp) (p : HP) (s : State) (hi : Bool) (wide : Bool), let i := (selGet p.val rQUE_CTX_SEL s).toNat % 4096;
    outsideIde t p.val s = false ∧ (mgrOpen p.val rQUE_CTX_SEL s = false ∨ (wide = true ∧ hi = true) ∨ mget s.que.ctxs i =
    none)) ∧
    (∃ (t : Tlp) (p : HP) (s : State) (c : Ctx), let i := (selGet p.val rQUE_CTX_SEL s).toNat % 4096; outsideIde t p.val s =
    false ∧ mgrOpen p.val rQUE_CTX_SEL s = true ∧ mget s.que.ctxs i = some c) ∧
    (∃ (s : State), regFld rOBS_SNAP 0 1 s = 1 ∧ 1000 ≤ s.obs.holdTicks) ∧
    (∃ (s : State), s.obs.holdTicks < 1000) :=
  ⟨⟨{}, 0, w71, by decide⟩,
   ⟨{ outside := true }, 0, 0, w70, by decide⟩,
   ⟨{}, 0, 1, S0, by decide⟩,
   ⟨{}, 0, { wCtx with fault := 9 }, w72, by decide⟩,
   ⟨1, 0, S0, by decide⟩,
   ⟨0, 0, (eS fun e => { e with insts := [(0, {})] }), by decide⟩,
   ⟨0, 0, S0, by decide⟩,
   ⟨{}, 0, 0, 0x13000, false, w73, rTTH_EVENT, 0, by decide⟩,
   ⟨{}, 0, 0, 0x13002, false, w73, rTTH_EVENT, 2, by decide⟩,
   ⟨{}, 0, 0, 0x13800, w73, by decide⟩,
   ⟨{}, 0, 1, 3, false, w74, by decide⟩,
   ⟨{}, 0, 1, 1, true, w74, by decide⟩,
   ⟨{}, 0, S0, true, true, by decide⟩,
   ⟨{}, 0, w75, { wCtx with fault := 0x500000009 }, by decide⟩,
   ⟨w76, by decide⟩,
   ⟨S0, by decide⟩⟩

theorem witness_TraceAndAudit :
    (∃ (p : HP) (s : State), mgrOpen p.val rOBS_TRACE_MARK s = true ∧ regRaw rOBS_TRACE_CTL s = 1 ∧ bit (regRaw
    rOBS_TRACE_FILTER s) 16 = true ∧ regRaw rOBS_TRACE_MATCH s = 0x201000 ∧ s.obs.traceDest = 0 ∧ s.obs.gap = none ∧
    s.obs.tail.length < 262144) ∧
    (∃ (p : HP) (s : State), mgrOpen p.val rOBS_TRACE_MARK s = true ∧ regFld rOBS_TRACE_CTL 0 1 s = 0) ∧
    (∃ (p : HP) (lo : W32) (s : State) (t : State), mgrOpen p.val rOBS_TRACE_MARK s = true ∧ t =
    { s with reg := { s.reg with half := mset s.reg.half (4 * rOBS_TRACE_MARK + p.val) lo } }) ∧
    (∃ (p : HP) (s : State), mgrOpen p.val rOBS_TRACE_CTL s = true ∧ s.obs.gap = none) ∧
    (∃ (p : HP) (s : State), mgrOpen p.val rOBS_AUDIT_HEAD s = true) :=
  ⟨⟨0, w77, by decide⟩,
   ⟨0, w78, by decide⟩,
   ⟨0, 7, S0, w79, by decide⟩,
   ⟨0, setRaw rOBS_TRACE_RING 0x100000 S0, by decide⟩,
   ⟨0, S0, by decide⟩⟩

theorem witness_MemoryPortTraffic :
    (∃ (p : MP) (tag : BitVec 9) (o : MpOpen) (s : State), (mport p.val s).opened.find? (fun o => o.tag == tag.toNat) = some o
    ∧ o.req.write = true) ∧
    (∃ (p : MP) (tag : BitVec 9) (sec : Fin 4) (o : MpOpen) (s : State), (mport p.val s).opened.find? (fun o => o.tag ==
    tag.toNat) = some o ∧ o.req.write = false ∧ o.left = [sec.val]) ∧
    (∃ (p : MP) (tag : BitVec 9) (sec : Fin 4) (o : MpOpen) (s : State), (mport p.val s).opened.find? (fun o => o.tag ==
    tag.toNat) = some o ∧ o.left.head? ≠ some sec.val) ∧
    (∃ (a : Nat) (s : State), s.rsvr.poison.contains (a / 8) = false) ∧
    (∃ (p : MP) (tag : BitVec 9) (s : State), (∀ o ∈ (mport p.val s).opened, o.tag ≠ tag.toNat)) ∧
    (∃ (p : MP) (tag : BitVec 9) (o : MpOpen) (s : State), o ∈ (mport p.val s).opened ∧ o.tag = tag.toNat ∧ s.spl.recovery =
    false) ∧
    (∃ (p : MP) (tag : BitVec 9) (r : NrReq) (s : State), r ∈ (mport p.val s).narrow ∧ r.tag = tag.toNat ∧ s.spl.recovery =
    false) :=
  ⟨⟨0, 3, ({ tag := 3, req := { write := true, gran := 5, smask := 1, kslot := 0 }, left := [0] } : MpOpen), w80, by decide⟩,
   ⟨0, 3, 0, ({ tag := 3, req := { write := false, gran := 5, smask := 1, kslot := 0 }, left := [0] } : MpOpen), w81, by
   decide⟩,
   ⟨0, 3, 1, ({ tag := 3, req := { write := false, gran := 5, smask := 1, kslot := 0 }, left := [0] } : MpOpen), w81, by
   decide⟩,
   ⟨4096, w81, by decide⟩,
   ⟨0, 4, w81, by decide⟩,
   ⟨0, 3, ({ tag := 3, req := { write := false, gran := 5, smask := 1, kslot := 0 }, left := [0] } : MpOpen), w81, by decide⟩,
   ⟨0, 2, ({ tag := 2, write := false, word := 3, kslot := 0, data := 0, who := true } : NrReq), w82, by decide⟩⟩

theorem witness_MemoryPortTraining :
    (∃ (p : MP) (g : BitVec 11) (s : State), (mport p.val s).st = .training ∧ g ≠ 0) ∧
    (∃ (p : MP) (n : BitVec 12) (s : State), (mport p.val s).st = .training ∧ n ≠ 0) ∧
    (∃ (p : MP) (s : State), (mport p.val s).st = .training) ∧
    (∃ (p : MP) (s : State), (mport p.val s).st ≠ .training) ∧
    (∃ (p : MP) (s : State), (mport p.val s).st = .inService) ∧
    (∃ (p : MP) (s : State), (mport p.val s).st = .training) ∧
    (∃ (p : MP) (s : State), (mport p.val s).leaving = true ∧ (mport p.val s).mapOut = false) ∧
    (∃ (p : MP) (s : State), (mport p.val s).leaving = true ∧ (mport p.val s).mapOut = true) ∧
    (∃ (p : MP) (op : UnitOp) (s : State), (mport p.val s).leaving = false ∧ (mport p.val s).st = .quiescing ∧ s.weir.unitBusy
    = some (5, p.val, op)) ∧
    (∃ (p : MP) (s : State), (mport p.val s).leaving = false ∧ (mport p.val s).st = .quiescing ∧ s.weir.unitBusy = none) ∧
    (∃ (p : MP) (s : State), (mport p.val s).st = .bist ∧ s.weir.unitBusy = none) ∧
    (∃ (p : MP) (s : State), (mport p.val s).st = .bist ∧ s.weir.unitBusy = none ∧ s.spl.recovery = false) ∧
    (∃ (s : State), s.spl.recovery = false) :=
  ⟨⟨0, 64, w83, by decide⟩,
   ⟨0, 1, w83, by decide⟩,
   ⟨0, w83, by decide⟩,
   ⟨0, w84, by decide⟩,
   ⟨0, w84, by decide⟩,
   ⟨0, w83, by decide⟩,
   ⟨0, w85, by decide⟩,
   ⟨0, w86, by decide⟩,
   ⟨0, .test, w87, by decide⟩,
   ⟨0, w88, by decide⟩,
   ⟨0, w89, by decide⟩,
   ⟨0, w89, by decide⟩,
   ⟨w89, by decide⟩⟩

theorem witness_FailingPorts :
    (∃ (n : Nat) (s : State), (mport n s).st = .inService ∧ s.spl.recovery = false) ∧
    (∃ (n : Nat) (s : State), (mport n s).st = .failing) ∧
    (∃ (p : HP) (s : State), mgrOpen p.val rMPT_CTRL s = true ∧ mayClassC s = true) ∧
    (∃ (v : BMove) (r : List BMove) (s : State), s.rsvr.moves = v :: r ∧ policyBucket v s = true) ∧
    (∃ (v : BMove) (r : List BMove) (s : State), s.rsvr.moves = v :: r ∧ policyBucket v s = false) ∧
    (∃ (s : State), s.rsvr.moves = []) ∧
    (∃ (s : State), 1024 ≤ s.port.ilvTicks ∧ s.spl.ended.contains 3 = true) ∧
    (∃ (s : State), s.port.ilvTicks < 1024) :=
  ⟨⟨0, S0, by decide⟩,
   ⟨0, w90, by decide⟩,
   ⟨0, S0, by decide⟩,
   ⟨{ bucket := 3, port := 0, base := 9 }, [], w91, by decide⟩,
   ⟨{ bucket := 3, port := 5, base := 9 }, [], w92, by decide⟩,
   ⟨S0, by decide⟩,
   ⟨w93, by decide⟩,
   ⟨S0, by decide⟩⟩

theorem witness_NarrowPathAndKeys :
    (∃ (p : HP) (l : Nat) (e : Nat) (s : State), mgrOpen p.val rMPT_NR_CTL s = true ∧ s.rsvr.nrBusy = false ∧ granLocal
    (selGet p.val rMPT_SEL s).toNat ((regRaw rMPT_NR_ADDR s).toNat / 32) s = some l ∧ ownerEnv l s = some e ∧ (selGet p.val
    rMPT_SEL s).toNat < 72) ∧
    (∃ (p : HP) (s : State), mgrOpen p.val rMPT_NR_CTL s = true ∧ (s.rsvr.nrBusy = true ∨ 72 ≤ (selGet p.val rMPT_SEL
    s).toNat)) ∧
    (∃ (p : HP) (s : State), mgrOpen p.val rMPT_NR_CTL s = true ∧ s.rsvr.nrBusy = false ∧ (selGet p.val rMPT_SEL s).toNat < 72
    ∧ (∀ l : Nat, granLocal (selGet p.val rMPT_SEL s).toNat ((regRaw rMPT_NR_ADDR s).toNat / 32) s = some l → ownerEnv l s =
    none)) ∧
    (∃ (p : HP) (l : Nat) (s : State), mgrOpen p.val rMPT_NR_CTL s = true ∧ s.rsvr.nrBusy = false ∧ granLocal (selGet p.val
    rMPT_SEL s).toNat ((regRaw rMPT_NR_ADDR s).toNat / 32) s = some l ∧ ownerEnv l s = none ∧ (selGet p.val rMPT_SEL s).toNat
    < 72 ∧ (mport (selGet p.val rMPT_SEL s).toNat s).narrow = [] ∧ (mport (selGet p.val rMPT_SEL s).toNat s).narrowWait = [] ∧
    granDirty (l / 64) s = false ∧ (∀ o ∈ (mport (selGet p.val rMPT_SEL s).toNat s).opened, o.req.gran ≠ (regRaw rMPT_NR_ADDR
    s).toNat / 32) ∧ (∀ q ∈ (mport (selGet p.val rMPT_SEL s).toNat s).waiting, q.gran ≠ (regRaw rMPT_NR_ADDR s).toNat / 32)) ∧
    (∃ (p : MP) (tag : Fin 16) (w : CodeWord) (d : W64) (r : NrReq) (s : State), codeIn w false = .good d ∧ (mport p.val
    s).narrow.find? (fun r => r.tag == tag.val) = some r ∧ r.who = true ∧ r.write = false) ∧
    (∃ (p : MP) (tag : Fin 16) (r : NrReq) (s : State), (mport p.val s).narrow.find? (fun r => r.tag == tag.val) = some r ∧
    r.who = true) ∧
    (∃ (p : MP) (s : State), (mport p.val s).keyBusy = none) ∧
    (∃ (p : MP) (k : KeyOp) (s : State), (mport p.val s).keyBusy = some k) ∧
    (∃ (p : MP) (k : KeyOp) (s : State), (mport p.val s).keyBusy = some k ∧ k.op = 0 ∧ keyLeft k (keyIssue p.val (modMp p.val
    (fun m => { m with keyBusy := none }) s)) = false ∧ AuditRoom s) ∧
    (∃ (p : MP) (k : KeyOp) (s : State), (mport p.val s).keyBusy = some k ∧ k.op = 1 ∧ keyLeft k (keyIssue p.val (modMp p.val
    (fun m => { m with keyBusy := none }) s)) = false ∧ AuditRoom s) ∧
    (∃ (p : MP) (k : KeyOp) (s : State), (mport p.val s).keyBusy = some k ∧ (mport p.val s).keyWait = [] ∧ keyLeft k (keyIssue
    p.val (modMp p.val (fun m => { m with keyBusy := none }) s)) = true) :=
  ⟨⟨0, 16 * 2^30 + 5120, 1, w94, by decide⟩,
   ⟨0, w95, by decide⟩,
   ⟨0, S0, ⟨by decide, by decide, by decide, (by intro l h; cases (show (none : Option Nat) = some l from h))⟩⟩,
   ⟨0, 4096, w96, by decide⟩,
   ⟨0, 2, ⟨99, chkOf 99 false⟩, 99, ({ tag := 2, write := false, word := 3, kslot := 0, data := 0, who := true } : NrReq),
   w82, by decide +kernel⟩,
   ⟨0, 2, ({ tag := 2, write := false, word := 3, kslot := 0, data := 0, who := true } : NrReq), w82, by decide⟩,
   ⟨0, S0, by decide⟩,
   ⟨0, ({ op := 0, slot := 2, env := some 1 } : KeyOp), w97, by decide⟩,
   ⟨0, ({ op := 0, slot := 2, env := some 1 } : KeyOp), w97, by decide⟩,
   ⟨0, ({ op := 1, slot := 2, env := some 1 } : KeyOp), w98, by decide⟩,
   ⟨0, ({ op := 0, slot := 2, env := some 1 } : KeyOp), w99, by decide⟩⟩

theorem witness_BucketsOfABlock :
    (∃ (l : Nat), l < 2 ^ 44) ∧
    (∃ (blk : Nat) (b : Nat), blk < 2 ^ 28 ∧ b < 256) :=
  ⟨⟨0x123456789AB, by decide⟩,
   ⟨268435455, 255, by decide⟩⟩

theorem witness_WordCode :
    (∃ (e : W64) (f : BitVec 16), e.cpop.toNat + f.cpop.toNat ∈ [1, 2]) ∧
    (∃ (e : W64) (f : BitVec 16), e.cpop.toNat + f.cpop.toNat = 3) :=
  ⟨⟨0x10, 0x8000, by decide⟩,
   ⟨0x11, 1, by decide⟩⟩

theorem witness_CoreRequests :
    (∃ (p : CF) (h : Vc0Hdr) (t : Token) (s : State), frozen s = false ∧ h.badOp = none ∧ h.rsvd = 0 ∧ vc0Token p h s = some t
    ∧ listFull (vc0Core p h) s = false) ∧
    (∃ (p : CF) (h : Vc0Hdr) (t : Token) (s : State), frozen s = false ∧ h.badOp = none ∧ h.rsvd = 0 ∧ vc0Token p h s = some t
    ∧ listFull (vc0Core p h) s = false) ∧
    (∃ (p : CF) (h : Vc0Hdr) (t : Token) (s : State) (tl : Tile), frozen s = false ∧ h.badOp = none ∧ h.rsvd = 0 ∧ vc0Token p
    h s = some t ∧ listFull (vc0Core p h) s = false ∧ tl.rsvdZero = true ∧ tileOk p.val tl s = true) ∧
    (∃ (p : CF) (h : Vc0Hdr) (t : Token) (s : State) (op : BitVec 6) (noret : Bool) (x : BitVec 128) (y : BitVec 128), frozen
    s = false ∧ h.badOp = none ∧ h.rsvd = 0 ∧ vc0Token p h s = some t ∧ listFull (vc0Core p h) s = false ∧ atomOk (vc0Atom h
    op noret x y) h.addr.toNat = true) ∧
    (∃ (p : CF) (h : Vc0Hdr) (t : Token) (s : State), frozen s = false ∧ h.badOp = none ∧ h.rsvd = 0 ∧ vc0Token p h s = some t
    ∧ listFull (vc0Core p h) s = false ∧ h.scope.val ≤ 4) ∧
    (∃ (p : CF) (h : Vc0Hdr) (t : Token) (s : State) (d : FenceData), frozen s = false ∧ h.badOp = none ∧ h.rsvd = 0 ∧
    vc0Token p h s = some t ∧ listFull (vc0Core p h) s = false ∧ h.scope.val ≤ 4 ∧ d.rsvdZero = true ∧ (∀ o, ownFence d s =
    some o → vc0Handle o.1 o.2 t s = none)) ∧
    (∃ (p : CF) (h : Vc0Hdr) (t : Token) (s : State), frozen s = false ∧ h.badOp = none ∧ h.rsvd = 0 ∧ vc0Token p h s = some t
    ∧ listFull (vc0Core p h) s = true) ∧
    (∃ (r : Req), r.listed = true) ∧
    (∃ (p : CF) (core : Fin 8) (engine : Fin 4) (tag : BitVec 9) (id : Nat) (r : Req) (t : Tile) (s : State), frozen s = false
    ∧ tileOf p.val core.val engine.val tag.toNat s = some (id, r) ∧ r.op = .tileWrite t ∧ 64 < r.expect ∧ mget s.que.reqs id =
    some r) ∧
    (∃ (s : State), frozen s = true) :=
  ⟨⟨1, ⟨0, 1, 5, 3, 16 * 2^30, 0, 0, 1, 1, 0, 0, none⟩,
    ({ core := 8, cmd := 0, ctx := 0, ctxGen := 0, ident := { ctx := some 0, cls := 2 }, relaxed := false } : Token), w100, by
    decide⟩,
   ⟨1, ⟨0, 1, 5, 3, 16 * 2^30, 0, 0, 1, 1, 0, 0, none⟩,
   ({ core := 8, cmd := 0, ctx := 0, ctxGen := 0, ident := { ctx := some 0, cls := 2 }, relaxed := false } : Token), w100, by
   decide⟩,
   ⟨1, ⟨0, 1, 5, 3, 16 * 2^30, 0, 0, 1, 1, 0, 0, none⟩,
   ({ core := 8, cmd := 0, ctx := 0, ctxGen := 0, ident := { ctx := some 0, cls := 2 }, relaxed := false } : Token), w100,
   ({ base := 4096, pitch := 256, rows := 2, rowBytes := 64 } : Tile), by decide⟩,
   ⟨1, ⟨0, 1, 5, 3, 16 * 2^30, 3, 0, 1, 1, 0, 0, none⟩,
   ({ core := 8, cmd := 0, ctx := 0, ctxGen := 0, ident := { ctx := some 0, cls := 2 }, relaxed := false } : Token), w100, 2,
   false, 1, 0, by decide⟩,
   ⟨1, ⟨0, 1, 5, 3, 16 * 2^30, 3, 0, 1, 1, 0, 0, none⟩,
   ({ core := 8, cmd := 0, ctx := 0, ctxGen := 0, ident := { ctx := some 0, cls := 2 }, relaxed := false } : Token), w100, by
   decide⟩,
   ⟨1, ⟨0, 1, 5, 3, 16 * 2^30, 3, 0, 1, 1, 0, 0, none⟩,
   ({ core := 8, cmd := 0, ctx := 0, ctxGen := 0, ident := { ctx := some 0, cls := 2 }, relaxed := false } : Token), w100,
   ⟨mkHandle 4 0 0, 9, 1, 7, true⟩, by decide⟩,
   ⟨1, ⟨0, 1, 5, 3, 16 * 2^30, 3, 0, 1, 1, 0, 0, none⟩,
   ({ core := 8, cmd := 0, ctx := 0, ctxGen := 0, ident := { ctx := some 0, cls := 2 }, relaxed := false } : Token), w101, by
   decide⟩,
   ⟨{ wReq with listed := true }, by decide⟩,
   ⟨1, 0, 1, 3, 4, { wReq with who := .core 1 0 1 3 5, op := .tileWrite ({ base := 4096, pitch := 256, rows := 2, rowBytes := 64 } : Tile), expect := 128, st := .reading },
   ({ base := 4096, pitch := 256, rows := 2, rowBytes := 64 } : Tile), w102, by decide⟩,
   ⟨w103, by decide⟩⟩

theorem witness_CoreRefusals :
    (∃ (h : Vc0Hdr) (s : State), frozen s = false ∧ h.rsvd ≠ 0) ∧
    (∃ (h : Vc0Hdr) (s : State), frozen s = false ∧ h.badOp.isSome = true) ∧
    (∃ (h : Vc0Hdr) (s : State), frozen s = false ∧ h.badOp = none ∧ 4 < h.scope.val) ∧
    (∃ (h : Vc0Hdr) (s : State), frozen s = false ∧ h.badOp = none ∧ 4 < h.scope.val) ∧
    (∃ (p : CF) (h : Vc0Hdr) (s : State), frozen s = false ∧ h.badOp = none ∧ h.rsvd = 0 ∧ vc0Token p h s = none) ∧
    (∃ (h : Vc0Hdr) (t : Token) (s : State), mget s.que.tokens h.token.toNat = some t ∧ t.aborted = true) ∧
    (∃ (p : CF) (h : Vc0Hdr) (t : Token) (st : Status) (s : State) (object : W64), frozen s = false ∧ h.badOp = none ∧ h.rsvd
    = 0 ∧ vc0Token p h s = some t ∧ listFull (vc0Core p h) s = false ∧ vc0Handle object 3 t s = some st) ∧
    (∃ (p : CF) (h : Vc0Hdr) (t : Token) (st : Status) (s : State) (d : FenceData), frozen s = false ∧ h.badOp = none ∧ h.rsvd
    = 0 ∧ vc0Token p h s = some t ∧ listFull (vc0Core p h) s = false ∧ d.chip.val = s.spl.chip ∧ d.rsvdZero = true ∧
    h.scope.val ≤ 4 ∧ vc0Handle d.handle 4 t s = some st) ∧
    (∃ (n : Nat) (st : Status) (s : State), st ≠ .ok ∧ (cfport n s).waiting = [] ∧ 0 < mgetD (cfport n s).dn 1 0) ∧
    (∃ (st : Status), (st = .noMemory ∨ st = .fenceError ∨ st = .fenceTimeout)) ∧
    (∃ (st : Status), (st = .invalid ∨ st = .invalidFormat ∨ st = .invalidOp ∨ st = .staleHandle ∨ st = .noSlot ∨ st = .busy))
    :=
  ⟨⟨⟨0, 1, 5, 3, 16 * 2^30, 0, 0, 1, 1, 0, 1, none⟩, w100, by decide⟩,
   ⟨⟨0, 1, 5, 3, 16 * 2^30, 0, 0, 1, 1, 0, 0, some 3⟩, w100, by decide⟩,
   ⟨⟨0, 1, 5, 3, 16 * 2^30, 0, 0, 1, 5, 0, 0, none⟩, w100, by decide⟩,
   ⟨⟨0, 1, 5, 3, 16 * 2^30, 0, 0, 1, 5, 0, 0, none⟩, w100, by decide⟩,
   ⟨1, ⟨0, 1, 6, 3, 16 * 2^30, 0, 0, 1, 1, 0, 0, none⟩, w100, by decide⟩,
   ⟨⟨0, 1, 5, 3, 16 * 2^30, 0, 0, 1, 1, 0, 0, none⟩,
   ({ core := 8, cmd := 0, ctx := 0, ctxGen := 0, ident := { ctx := some 0, cls := 2 }, relaxed := false , aborted := true, abortTicks := 150 }
   : Token), w104, by decide⟩,
   ⟨1, ⟨0, 1, 5, 3, 16 * 2^30, 0, 0, 1, 1, 0, 0, none⟩,
   ({ core := 8, cmd := 0, ctx := 0, ctxGen := 0, ident := { ctx := some 0, cls := 2 }, relaxed := false } : Token),
   (vc0Handle (mkHandle 4 0 0) 3
   ({ core := 8, cmd := 0, ctx := 0, ctxGen := 0, ident := { ctx := some 0, cls := 2 }, relaxed := false } : Token) (qS fun q
   => { q with tokens := [(5, ({ core := 8, cmd := 0, ctx := 0, ctxGen := 0, ident := { ctx := some 0, cls := 2 }, relaxed := false } : Token))], cmds := [(0, { wCmd with tokens := [5] })], nextCmd := 1 })).getD
   .ok, w100, mkHandle 4 0 0, by decide⟩,
   ⟨1, ⟨0, 1, 5, 3, 16 * 2^30, 0, 0, 1, 1, 0, 0, none⟩,
   ({ core := 8, cmd := 0, ctx := 0, ctxGen := 0, ident := { ctx := some 0, cls := 2 }, relaxed := false } : Token),
   (vc0Handle (mkHandle 3 0 0) 4
   ({ core := 8, cmd := 0, ctx := 0, ctxGen := 0, ident := { ctx := some 0, cls := 2 }, relaxed := false } : Token) (qS fun q
   => { q with tokens := [(5, ({ core := 8, cmd := 0, ctx := 0, ctxGen := 0, ident := { ctx := some 0, cls := 2 }, relaxed := false } : Token))], cmds := [(0, { wCmd with tokens := [5] })], nextCmd := 1 })).getD
   .ok, w100, ⟨mkHandle 3 0 0, 9, 1, 7, true⟩, by decide⟩,
   ⟨1, .rights, w105, by decide⟩,
   ⟨.noMemory, by decide⟩,
   ⟨.invalid, by decide⟩⟩

theorem witness_CoreCalls :
    (∃ (p : CF) (h : Vc0Hdr) (t : Token) (s : State) (fl : Byte), frozen s = false ∧ h.badOp = none ∧ h.rsvd = 0 ∧ vc0Token p
    h s = some t ∧ listFull (vc0Core p h) s = false ∧ fl.toNat < 32) ∧
    (∃ (p : CF) (h : Vc0Hdr) (t : Token) (s : State) (object : W64), frozen s = false ∧ h.badOp = none ∧ h.rsvd = 0 ∧ vc0Token
    p h s = some t ∧ listFull (vc0Core p h) s = false ∧ vc0Handle object 3 t s = none) ∧
    (∃ (p : CF) (h : Vc0Hdr) (t : Token) (s : State), frozen s = false ∧ h.badOp = none ∧ h.rsvd = 0 ∧ vc0Token p h s = some t
    ∧ listFull (vc0Core p h) s = false) ∧
    (∃ (r : Req) (cf : Nat) (core : Nat) (engine : Nat) (tag : Nat) (token : Nat) (s : State) (size : Nat) (al : Nat) (fl :
    Nat) (i : Nat) (o : Obj) (x : State), r.who = .core cf core engine tag token ∧ r.op = .alloc size al fl ∧ fl % 2 = 0 ∧
    allocObj r.ident.ctx r.env size al fl false s = ((.ok, i), x) ∧ mget x.que.objs i = some o) ∧
    (∃ (r : Req) (cf : Nat) (core : Nat) (engine : Nat) (tag : Nat) (token : Nat) (s : State) (size : Nat) (al : Nat) (fl :
    Nat) (i : Nat) (op : ReqOp) (x : State), r.who = .core cf core engine tag token ∧ r.op = .alloc size al fl ∧ fl % 2 = 1 ∧
    allocObj r.ident.ctx r.env size al fl false s = ((.ok, i), x) ∧ zeroPiece r.ident.cls i 0 x = some op) ∧
    (∃ (r : Req) (cf : Nat) (core : Nat) (engine : Nat) (tag : Nat) (token : Nat) (s : State) (i : Nat) (object : W64) (o :
    Obj), r.who = .core cf core engine tag token ∧ r.op = .free object ∧ checkHandle object 3 r.fn r.env s = .slot i ∧ mget
    s.que.objs i = some o ∧ o.isPt = false) ∧
    (∃ (r : Req) (cf : Nat) (core : Nat) (engine : Nat) (tag : Nat) (token : Nat) (s : State) (k : Nat) (chunk : Nat) (first :
    Nat) (n : Nat) (fmt : Nat) (e : BitVec 384) (f : Fmt) (st : Status) (x : State), r.who = .core cf core engine tag token ∧
    r.op = .reduce k chunk first n fmt e ∧ fmtOf fmt = some f ∧ 0 < fmtWidth f ∧ n * fmtWidth f ≤ 384 ∧ coreContribute r.env k
    chunk first fmt (packedElems (fmtWidth f) n e) s = (st, x)) ∧
    (∃ (p : CF) (core : Fin 8) (token : BitVec 16) (t : Token) (c : Cmd) (s : State), mget s.que.tokens token.toNat = some t ∧
    t.core = 8 * p.val + core.val ∧ t.aborted = false ∧ mget s.que.cmds t.cmd = some c ∧ c.tokens = [token.toNat]) ∧
    (∃ (p : CF) (core : Fin 8) (token : BitVec 16) (t : Token) (s : State), mget s.que.tokens token.toNat = some t ∧ t.core =
    8 * p.val + core.val ∧ t.aborted = true) ∧
    (∃ (p : CF) (core : Fin 8) (token : BitVec 16) (t : Token) (c : Cmd) (s : State), mget s.que.tokens token.toNat = some t ∧
    t.core = 8 * p.val + core.val ∧ t.aborted = false ∧ mget s.que.cmds t.cmd = some c ∧ token.toNat ∈ c.tokens ∧ (∃ k ∈
    c.tokens, k ≠ token.toNat)) ∧
    (∃ (p : CF) (core : Fin 8) (token : BitVec 16) (t : Token) (s : State), mget s.que.tokens token.toNat = some t ∧ t.core =
    8 * p.val + core.val ∧ t.aborted = false) ∧
    (∃ (p : CF) (core : Fin 8) (token : BitVec 16) (s : State), (∀ t, mget s.que.tokens token.toNat = some t → t.core ≠ 8 *
    p.val + core.val)) ∧
    (∃ (token : BitVec 16) (t : Token) (s : State), mget s.que.tokens token.toNat = some t ∧ t.aborted = true ∧ 150 ≤
    t.abortTicks) ∧
    (∃ (token : BitVec 16) (t : Token) (s : State), mget s.que.tokens token.toNat = some t ∧ (t.aborted = false ∨ t.abortTicks
    < 150)) ∧
    (∃ (token : BitVec 16) (s : State), mget s.que.tokens token.toNat = none) :=
  ⟨⟨1, ⟨0, 1, 5, 3, 16 * 2^30, 0, 0, 1, 1, 0, 0, none⟩,
    ({ core := 8, cmd := 0, ctx := 0, ctxGen := 0, ident := { ctx := some 0, cls := 2 }, relaxed := false } : Token), w100, 4,
    by decide⟩,
   ⟨1, ⟨0, 1, 5, 3, 16 * 2^30, 0, 0, 1, 1, 0, 0, none⟩,
   ({ core := 8, cmd := 0, ctx := 0, ctxGen := 0, ident := { ctx := some 0, cls := 2 }, relaxed := false } : Token), w100,
   mkHandle 3 0 0, by decide⟩,
   ⟨1, ⟨0, 1, 5, 3, 16 * 2^30, 0, 0, 1, 1, 0, 0, none⟩,
   ({ core := 8, cmd := 0, ctx := 0, ctxGen := 0, ident := { ctx := some 0, cls := 2 }, relaxed := false } : Token), w100, by
   decide⟩,
   ⟨{ wReq with who := .core 1 0 1 3 5, op := .alloc 4096 12 4 }, 1, 0, 1, 3, 5, w100, 4096, 12, 4, (allocObj (some 0) (some
   1) 4096 12 4 false ((qS fun q =>
   { q with tokens := [(5, ({ core := 8, cmd := 0, ctx := 0, ctxGen := 0, ident := { ctx := some 0, cls := 2 }, relaxed := false } : Token))], cmds := [(0, { wCmd with tokens := [5] })], nextCmd := 1 }))).1.2,
   (mgetD (allocObj (some 0) (some 1) 4096 12 4 false ((qS fun q =>
   { q with tokens := [(5, ({ core := 8, cmd := 0, ctx := 0, ctxGen := 0, ident := { ctx := some 0, cls := 2 }, relaxed := false } : Token))], cmds := [(0, { wCmd with tokens := [5] })], nextCmd := 1 }))).2.que.objs
   (allocObj (some 0) (some 1) 4096 12 4 false ((qS fun q =>
   { q with tokens := [(5, ({ core := 8, cmd := 0, ctx := 0, ctxGen := 0, ident := { ctx := some 0, cls := 2 }, relaxed := false } : Token))], cmds := [(0, { wCmd with tokens := [5] })], nextCmd := 1 }))).1.2
   wObj), w106, ⟨by decide, by decide, rfl, rfl, by decide⟩⟩,
   ⟨{ wReq with who := .core 1 0 1 3 5, op := .alloc 4096 12 1 }, 1, 0, 1, 3, 5, w100, 4096, 12, 1, (allocObj (some 0) (some
   1) 4096 12 1 false (qS fun q =>
   { q with tokens := [(5, ({ core := 8, cmd := 0, ctx := 0, ctxGen := 0, ident := { ctx := some 0, cls := 2 }, relaxed := false } : Token))], cmds := [(0, { wCmd with tokens := [5] })], nextCmd := 1 })).1.2,
   (zeroPiece 2 (allocObj (some 0) (some 1) 4096 12 1 false (qS fun q =>
   { q with tokens := [(5, ({ core := 8, cmd := 0, ctx := 0, ctxGen := 0, ident := { ctx := some 0, cls := 2 }, relaxed := false } : Token))], cmds := [(0, { wCmd with tokens := [5] })], nextCmd := 1 })).1.2
   0 (allocObj (some 0) (some 1) 4096 12 1 false (qS fun q =>
   { q with tokens := [(5, ({ core := 8, cmd := 0, ctx := 0, ctxGen := 0, ident := { ctx := some 0, cls := 2 }, relaxed := false } : Token))], cmds := [(0, { wCmd with tokens := [5] })], nextCmd := 1 })).2).getD
   (.load 0 0), w107, by decide⟩,
   ⟨{ wReq with who := .core 1 0 1 3 5, op := .free (mkHandle 3 0 0) }, 1, 0, 1, 3, 5, S0, 0, mkHandle 3 0 0, wObj, by
   decide⟩,
   ⟨{ wReq with who := .core 1 0 1 3 5, op := .reduce 7 0 0 2 1 (8589934597) }, 1, 0, 1, 3, 5, w108, 7, 0, 0, 2, 1,
   8589934597, .fp32, (coreContribute (some 1) 7 0 0 1 (packedElems 32 2 (8589934597))
   ({ (qS fun q => { q with tokens := [(5, ({ core := 8, cmd := 0, ctx := 0, ctxGen := 0, ident := { ctx := some 0, cls := 2 }, relaxed := false } : Token))], cmds := [(0, { wCmd with tokens := [5] })], nextCmd := 1 }) with cis := { reds := [(4, ({ plan := ({ id := 7, parent := 5, outFmt := 1, firstSlot := 993, stride := 4, perSlot := 1, leaf := 0, leaves := 2, round := 0, all := true, sat := false, loc := 2, lateTicks := 0, srKey := 0, children := [2], rsvdZero := true } : Plan), fmt := 1, op := 1, ordered := false, count := 2, src := 0, dst := 0, ctx := 0, env := 1, cls := 2, chunks := [(0, { })] } : Reduction))] } })).1,
   w109, ⟨by decide, rfl, by decide, by decide, by decide, rfl⟩⟩,
   ⟨1, 0, 5, ({ core := 8, cmd := 0, ctx := 0, ctxGen := 0, ident := { ctx := some 0, cls := 2 }, relaxed := false } : Token),
   { wCmd with tokens := [5] }, w100, by decide⟩,
   ⟨1, 0, 5, ({ core := 8, cmd := 0, ctx := 0, ctxGen := 0, ident := { ctx := some 0, cls := 2 }, relaxed := false , aborted := true, abortTicks := 150 }
   : Token), w104, by decide⟩,
   ⟨1, 0, 5, ({ core := 8, cmd := 0, ctx := 0, ctxGen := 0, ident := { ctx := some 0, cls := 2 }, relaxed := false } : Token),
   { wCmd with tokens := [5, 6] }, w110, by decide⟩,
   ⟨1, 0, 5, ({ core := 8, cmd := 0, ctx := 0, ctxGen := 0, ident := { ctx := some 0, cls := 2 }, relaxed := false } : Token),
   w110, by decide⟩,
   ⟨1, 0, 5, S0, (by intro t h; cases h)⟩,
   ⟨5, ({ core := 8, cmd := 0, ctx := 0, ctxGen := 0, ident := { ctx := some 0, cls := 2 }, relaxed := false , aborted := true, abortTicks := 150 }
   : Token), w104, by decide⟩,
   ⟨5, ({ core := 8, cmd := 0, ctx := 0, ctxGen := 0, ident := { ctx := some 0, cls := 2 }, relaxed := false } : Token), w100,
   by decide⟩,
   ⟨5, S0, by decide⟩⟩

theorem witness_CoresLeaving :
    (∃ (vc : Fin 8), (vc = 5 ∨ vc = 6)) ∧
    (∃ (vc : Fin 8), vc ≠ 1 ∧ vc ≠ 5 ∧ vc ≠ 6) ∧
    (∃ (c : CoreIx) (s : State), s.port.coreOut.contains c.val = true) ∧
    (∃ (c : CoreIx) (s : State), s.port.coreOut.contains c.val = false) ∧
    (∃ (c : CoreIx) (e : Nat × Nat) (s : State), mget s.env.leaving c.val = some (.quiescing, e) ∧ agentSt c.val s = .active)
    ∧
    (∃ (c : CoreIx) (e : Nat × Nat) (s : State), mget s.env.leaving c.val = some (.quiescing, e) ∧ agentSt c.val s ≠ .active)
    ∧
    (∃ (c : CoreIx) (s : State), (∀ e, mget s.env.leaving c.val ≠ some (.quiescing, e))) ∧
    (∃ (c : CoreIx) (s : State), (∀ n e, mget s.env.leaving c.val ≠ some (.resetting n, e))) ∧
    (∃ (c : CoreIx) (n : Nat) (e : Nat × Nat) (s : State), mget s.env.leaving c.val = some (.resetting n, e)) ∧
    (∃ (c : CoreIx) (e : Nat × Nat) (s : State), mget s.env.leaving c.val = some (.quiescing, e) ∧ agentSt c.val s = .absent)
    ∧
    (∃ (c : CoreIx) (n : Nat) (e : Nat × Nat) (s : State), mget s.env.leaving c.val = some (.resetting n, e)) ∧
    (∃ (s : State), s.spl.recovery = false) ∧
    (∃ (s : State), s.spl.recovery = true) ∧
    (∃ (c : CoreIx) (n : Nat) (e : Nat × Nat) (s : State), mget s.env.leaving c.val = some (.flushing n, e) ∧ 120 ≤ n) ∧
    (∃ (c : CoreIx) (n : Nat) (e : Nat × Nat) (s : State), mget s.env.leaving c.val = some (.resetting n, e) ∧ 100 ≤ n) ∧
    (∃ (c : CoreIx) (n : Nat) (e : Nat × Nat) (s : State), mget s.env.leaving c.val = some (.resetting n, e) ∧ n < 100) ∧
    (∃ (c : CoreIx) (n : Nat) (e : Nat × Nat) (s : State), mget s.env.leaving c.val = some (.flushing n, e) ∧ n < 120) ∧
    (∃ (c : CoreIx) (e : Nat × Nat) (s : State), (mget s.env.leaving c.val = none ∨ mget s.env.leaving c.val = some
    (.quiescing, e) ∨ mget s.env.leaving c.val = some (.returning, e))) :=
  ⟨⟨5, by decide⟩,
   ⟨3, by decide⟩,
   ⟨8, w111, by decide⟩,
   ⟨8, w100, by decide⟩,
   ⟨8, (1, 0), w112, by decide⟩,
   ⟨8, (1, 0), w113, by decide⟩,
   ⟨8, S0, (by intro e; show (none : Option _) ≠ _; exact nofun)⟩,
   ⟨8, S0, (by intro n e; show (none : Option _) ≠ _; exact nofun)⟩,
   ⟨8, 3, (1, 0), w114, by decide⟩,
   ⟨8, (1, 0), w113, by decide⟩,
   ⟨8, 3, (1, 0), w114, by decide⟩,
   ⟨S0, by decide⟩,
   ⟨w115, by decide⟩,
   ⟨8, 120, (1, 0), w116, by decide⟩,
   ⟨8, 100, (1, 0), w117, by decide⟩,
   ⟨8, 99, (1, 0), w118, by decide⟩,
   ⟨8, 119, (1, 0), w119, by decide⟩,
   ⟨8, (1, 0), w120, by decide⟩⟩

theorem witness_ManagementPorts :
    (∃ (v : MgmtVia) (n : Nat) (s : State) (l : List W64), mgmtReaches v s = true ∧ sensorRead n s = some l) ∧
    (∃ (v : MgmtVia) (n : Nat) (s : State), mgmtReaches v s = true ∧ sensorRead n s = none) ∧
    (∃ (v : MgmtVia) (n : Nat) (s : State) (m : MgmtReq), mgmtReaches v s = true ∧ (m = .pldmBase n ∨ m = .mctpControl n)) ∧
    (∃ (v : MgmtVia) (s : State), mgmtReaches v s = true) ∧
    (∃ (p : Nat) (s : State), linkUp p s = false) ∧
    (∃ (v : MgmtVia) (s : State), mgmtReaches v s = true ∧ s.spl.ended.contains 3 = true) ∧
    (∃ (s : State), s.spl.ended.contains 3 = false) ∧
    (∃ (n : Fin 16) (s : State), sensorOn false n.val s = true) ∧
    (∃ (n : Fin 16) (s : State), sensorOn true n.val s = true) ∧
    (∃ (n : Fin 16) (s : State), sensorOn false n.val s = true ∧ (mgetD s.port.temp n.val {}).stale = false ∧ (mgetD
    s.port.temp n.val {}).tick + 10000 ≤ tick s) ∧
    (∃ (n : Fin 16) (s : State), sensorOn true n.val s = true ∧ (mgetD s.port.power n.val {}).stale = false ∧ (mgetD
    s.port.power n.val {}).tick + 10000 ≤ tick s) ∧
    (∃ (b : Bool) (n : Fin 16) (s : State), sensorOn b n.val s = false) ∧
    (∃ (b : Bool) (n : Fin 16) (s : State), ((sensorRec b n.val s).stale = true ∨ tick s < (sensorRec b n.val s).tick +
    10000)) ∧
    (∃ (t : TapOp), (t = .idcode ∨ t = .bypass ∨ t = .bistMonitor)) ∧
    (∃ (s : State), (s.spl.phase = 1 ∨ keyHeld s = false)) ∧
    (∃ (s : State), s.spl.phase ≠ 1 ∧ keyHeld s = true) ∧
    (∃ (s : State), s.spl.phase ≠ 1 ∧ keyHeld s = true ∧ AuditRoom s) :=
  ⟨⟨.i3c, 2, w121, (sensorRead 2
    ({ S0 with spl := { S0.spl with img := { S0.spl.img with sensorMapT := 5, sensorMapP := 3 } } })).getD [], by decide⟩,
   ⟨.vdm 0, 3, w121, by decide⟩,
   ⟨.vdm 0, 3, w121, .pldmBase 3, by decide⟩,
   ⟨.i3c, w121, by decide⟩,
   ⟨1, w121, by decide⟩,
   ⟨.i3c, w121, by decide⟩,
   ⟨w122, by decide⟩,
   ⟨2, w121, by decide⟩,
   ⟨1, w121, by decide⟩,
   ⟨2, w123, by decide⟩,
   ⟨1, w123, by decide⟩,
   ⟨true, 2, S0, by decide⟩,
   ⟨false, 2, w121, by decide⟩,
   ⟨.idcode, by decide⟩,
   ⟨w124, by decide⟩,
   ⟨w125, by decide⟩,
   ⟨w125, by decide⟩⟩

theorem witness_CommandsStart :
    (∃ (i : Instr) (q : Nat) (k : Queue) (h : CmdHdr) (b : CmdBody) (s : State), commandOf i = some (q, h, b) ∧ startsAtOnce q
    k h b s) ∧
    (∃ (i : Instr) (q : Nat) (k : Queue) (h : CmdHdr) (b : CmdBody) (s : State), commandOf i = some (q, h, b) ∧ mget
    s.que.queues q = some k ∧ arrived 1 k = true ∧ arrived (entriesOf h b) k = true ∧ (k.entries.take 1).any (·.badHdr) =
    false) ∧
    (∃ (i : Instr) (q : Nat) (k : Queue) (h : CmdHdr) (b : CmdBody) (s : State), commandOf i = some (q, h, b) ∧ mget
    s.que.queues q = some k ∧ arrived 1 k = true ∧ arrived (entriesOf h b) k = true ∧ (k.entries.take 1).any (·.badHdr) =
    false ∧ queueRuns k s = false ∧ k.entries.length = entriesOf h b ∧ s.que.rung.contains q = false) ∧
    (∃ (i : Instr) (q : Nat) (h : CmdHdr) (b : CmdBody) (s : State), commandOf i = some (q, h, b) ∧ mget s.que.queues q =
    none) ∧
    (∃ (q : BitVec 16) (h : CmdHdr) (op : Byte), commandOf (.nop q h op) = none) ∧
    (∃ (q : BitVec 16) (h : CmdHdr) (k : Queue) (s : State), mget s.que.queues q.toNat = some k ∧ arrived 1 k = true ∧
    (k.entries.take 1).any (·.badHdr) = false ∧ arrived (1 + h.ext.val) k = false ∧ dist32 k.upTo k.head < 1 + h.ext.val) :=
  ⟨⟨.nop 1 wHdr 0, 1, wQ, wHdr, .nop, S0, by decide⟩,
   ⟨.nop 1 wHdr 0, 1, wQ, wHdr, .nop, w126, by decide⟩,
   ⟨.nop 1 wHdr 0, 1, wQ, wHdr, .nop, w126, by decide⟩,
   ⟨.nop 9 wHdr 0, 9, wHdr, .nop, S0, by decide⟩,
   ⟨9, wHdr, 5, by decide⟩,
   ⟨1, { wHdr with ext := 1 }, wQ, S0, by decide⟩⟩

theorem witness_DataCommands :
    (∃ (q : BitVec 16) (h : CmdHdr) (k : Queue) (s : State), startsAtOnce q.toNat k h .nop s) ∧
    (∃ (q : BitVec 16) (h : CmdHdr) (k : Queue) (s : State) (en : W64) (ar : W64) (first : BitVec 16) (items : W32) (a : W64)
    (x : Nat) (e : Nat) (i : Nat) (cx : Ctx) (v : Env) (sl : Slots), startsAtOnce q.toNat k h (.dispatch en ar 1 first items
    a) s ∧ k.ctx = some x ∧ mget s.que.ctxs x = some cx ∧ cx.env = some e ∧ mget s.env.envs e = some v ∧ first.toNat <
    v.cores.length ∧ first ≠ 0xFFFF ∧ s.que.tokens.length < 65536 ∧ takeSlot 65536 s.que.tokSlots = some (i, sl)) ∧
    (∃ (q : BitVec 16) (h : CmdHdr) (k : Queue) (s : State) (en : W64) (ar : W64) (n : BitVec 16) (first : BitVec 16) (items :
    W32) (a : W64) (x : Nat) (e : Nat) (cx : Ctx) (v : Env), startsAtOnce q.toNat k h (.dispatch en ar n first items a) s ∧
    k.ctx = some x ∧ mget s.que.ctxs x = some cx ∧ cx.env = some e ∧ mget s.env.envs e = some v ∧ s.que.tokens.length +
    n.toNat ≤ 65536 ∧ n.toNat ≤ freeSlots 65536 s.que.tokSlots) ∧
    (∃ (q : BitVec 16) (h : CmdHdr) (k : Queue) (s : State) (src : W64) (dst : W64) (len : W64) (sh : Byte) (dh : Byte),
    startsAtOnce q.toNat k h (.copy src dst len sh dh) s ∧ len = 0) ∧
    (∃ (q : BitVec 16) (h : CmdHdr) (k : Queue) (s : State) (src : W64) (dst : W64) (len : W64) (sh : Byte) (dh : Byte) (n :
    Nat) (sv : Nat) (dv : Nat) (m : Nat) (off : Nat), startsAtOnce q.toNat k h (.copy src dst len sh dh) s ∧ n = len.toNat ∧
    sv = src.toNat % 2 ^ 57 ∧ dv = dst.toNat % 2 ^ 57 ∧ 0 < n ∧ m = min (pieceMax h.cls.val (hostHalf sv || hostHalf dv)
    (offChip sv s || offChip dv s) s) n ∧ (off = (if sv < dv ∧ dv < sv + n then n - m else 0))) ∧
    (∃ (q : BitVec 16) (h : CmdHdr) (k : Queue) (s : State) (dst : W64) (len : W64) (pat : W64) (a : Byte), startsAtOnce
    q.toNat k h (.fill dst len pat a) s ∧ len = 0) ∧
    (∃ (q : BitVec 16) (h : CmdHdr) (k : Queue) (s : State) (dst : W64) (len : W64) (pat : W64) (a : Byte) (m : Nat),
    startsAtOnce q.toNat k h (.fill dst len pat a) s ∧ 0 < len.toNat ∧ m = min (pieceMax h.cls.val (hostHalf (dst.toNat % 2 ^
    57)) (offChip (dst.toNat % 2 ^ 57) s) s) len.toNat) ∧
    (∃ (q : BitVec 16) (h : CmdHdr) (k : Queue) (s : State) (dst : W64) (n : BitVec 16) (a : Byte) (d : List Byte),
    startsAtOnce q.toNat k h (.inlineWrite dst n a d) s) ∧
    (∃ (q : BitVec 16) (h : CmdHdr) (k : Queue) (s : State) (src : W64) (dst : W64) (n : W32) (a : Byte) (b : Byte) (r : Byte)
    (f : Byte) (key : W64), startsAtOnce q.toNat k h (.convert src dst n a b r f key) s) ∧
    (∃ (q : BitVec 16) (h : CmdHdr) (k : Queue) (s : State) (src : W64) (dst : W64) (n : W32) (a : Byte) (b : Byte) (r : Byte)
    (f : Byte) (key : W64), startsAtOnce q.toNat k h (.convert src dst n a b r f key) s ∧ n = 0) ∧
    (∃ (q : BitVec 16) (h : CmdHdr) (k : Queue) (s : State) (src : W64) (dst : W64) (n : W32) (a : Byte) (b : Byte) (r : Byte)
    (f : Byte) (key : W64) (g : Fmt) (u : Nat × Nat), startsAtOnce q.toNat k h (.convert src dst n a b r f key) s ∧ fmtOf
    (a.toNat % 16) = some g ∧ 0 < n.toNat ∧ u = (if g = .cxp then (src.toNat % 2 ^ 57, if f.toNat / 4 % 2 = 1 then 64 * min
    1024 n.toNat else 32) else (src.toNat % 2 ^ 57 + groupOffset g (f.toNat % 2 = 1) 0, arrayBytes g (f.toNat % 2 = 1) (min
    1024 n.toNat)))) ∧
    (∃ (q : BitVec 16) (h : CmdHdr) (k : Queue) (s : State) (src : W64) (dst : W64) (n : W32) (f : Byte) (op : Byte) (m :
    Byte) (r : Byte) (plan : W64), startsAtOnce q.toNat k h (.reduce src dst n f op m r plan) s) ∧
    (∃ (q : BitVec 16) (h : CmdHdr) (k : Queue) (s : State) (f : W64) (v : W64) (x : Nat) (fe : Fence) (need : List (Nat ×
    Nat)) (t : State), startsAtOnce q.toNat k h (.fenceSignal f v) s ∧ k.ctx = some x ∧ mget s.que.fences (handleOf f).index =
    some fe ∧ (need, t) = (if 4 ≤ max h.scope.val fe.scope then releaseFlush x (started q.toNat k h (.fenceSignal f v) s) else
    ([], started q.toNat k h (.fenceSignal f v) s))) ∧
    (∃ (q : BitVec 16) (h : CmdHdr) (k : Queue) (s : State) (f : W64) (g : W64) (t : W32), startsAtOnce q.toNat k h
    (.fenceWait f g t) s) ∧
    (∃ (q : BitVec 16) (h : CmdHdr) (k : Queue) (s : State) (n : W64) (al : Byte) (fl : Byte) (x : Nat) (i : Nat) (cx : Ctx)
    (o : Obj) (t : State), startsAtOnce q.toNat k h (.alloc n al fl) s ∧ k.ctx = some x ∧ mget s.que.ctxs x = some cx ∧
    allocObj (some x) cx.env n.toNat al.toNat fl.toNat false (started q.toNat k h (.alloc n al fl) s) = ((.ok, i), t) ∧ mget
    t.que.objs i = some o) ∧
    (∃ (q : BitVec 16) (h : CmdHdr) (k : Queue) (s : State) (f : W64) (o : Obj), startsAtOnce q.toNat k h (.free f) s ∧ mget
    s.que.objs (handleOf f).index = some o) ∧
    (∃ (q : BitVec 16) (h : CmdHdr) (k : Queue) (s : State) (it : BitVec 16) (ix : BitVec 16) (r0 : Nat) (r1 : Nat),
    startsAtOnce q.toNat k h (.query it ix) s ∧ queryItem it.toNat ix.toNat k.fn (k.ctx.bind fun x => ctxEnv x s) (started
    q.toNat k h (.query it ix) s) = some (r0, r1)) :=
  ⟨⟨1, wHdr, wQ, S0, by decide⟩,
   ⟨1, wHdr, wQ, S0, 1, 2, 1, 3, 4, 0, 1, 0, wCtx, wEnv, { fresh := 1 }, by decide⟩,
   ⟨1, wHdr, wQ, S0, 1, 2, 2, 0xFFFF, 3, 4, 0, 1, wCtx, wEnv, by decide⟩,
   ⟨1, wHdr, wQ, S0, 4096, 8192, 0, 0, 0, by decide⟩,
   ⟨1, wHdr, wQ, S0, 2^56 + 64, 0x7000, 64, 0, 0, 64, 2^56 + 64, 0x7000, min (pieceMax 2 (hostHalf (2^56 + 64) || hostHalf
   0x7000) (offChip (2^56 + 64) S0 || offChip 0x7000 S0) S0) 64, 0, by decide⟩,
   ⟨1, wHdr, wQ, S0, 4096, 0, 9, 0, by decide⟩,
   ⟨1, wHdr, wQ, S0, 4096, 100, 9, 0, min (pieceMax 2 (hostHalf 4096) (offChip 4096 S0) S0) 100, by decide⟩,
   ⟨1, { wHdr with ext := 1 }, { wQ with tail := 2, upTo := 2, entries := [{ pos := 0, num := 0, paid := true, here := true }, { pos := 1, num := 1, paid := true, here := true }] },
   w127, 4096, 3, 0, [1, 2, 3], by decide⟩,
   ⟨1, wHdr, wQ, S0, 4096, 8192, 5, 1, 2, 0, 0, 0, by decide⟩,
   ⟨1, wHdr, wQ, S0, 4096, 8192, 0, 1, 2, 0, 0, 0, by decide⟩,
   ⟨1, wHdr, wQ, S0, 4096, 8192, 2000, 1, 2, 0, 0, 0, .fp32, (4096 + groupOffset .fp32 (0 % 2 = 1) 0, arrayBytes .fp32 (0 % 2
   = 1) (min 1024 2000)), by decide⟩,
   ⟨1, wHdr, wQ, S0, 4096, 8192, 4, 1, 1, 0, 0, 4096, by decide⟩,
   ⟨1, wHdr, wQ, S0, mkHandle 4 0 0, 9, 0, wFence, [], w128, by decide⟩,
   ⟨1, wHdr, wQ, S0, mkHandle 4 0 0, 9, 5, by decide⟩,
   ⟨1, wHdr, wQ, S0, 4096, 12, 0, 0, (allocObj (some 0) (some 1) 4096 12 0 false (started 1 wQ wHdr (.alloc 4096 12 0)
   S0)).1.2, wCtx, (mgetD (allocObj (some 0) (some 1) 4096 12 0 false (started 1 wQ wHdr (.alloc 4096 12 0) S0)).2.que.objs
   (allocObj (some 0) (some 1) 4096 12 0 false (started 1 wQ wHdr (.alloc 4096 12 0) S0)).1.2 wObj), w129, ⟨by decide, by
   decide, by decide, rfl, rfl⟩⟩,
   ⟨1, wHdr, wQ, S0, mkHandle 3 0 0, wObj, by decide⟩,
   ⟨1, wHdr, wQ, S0, 2, 0, 1000, 1000 * 2^32, by decide +kernel⟩⟩

theorem witness_AdminCommands_1 :
    (∃ (q : BitVec 16) (h : CmdHdr) (k : Queue) (s : State) (p : W32) (d : Byte) (i : Nat) (sl : Slots), k.ctx = none ∧
    startsAtOnce q.toNat k h (.ctxCreate p 0 d) s ∧ (func k.fn s).env = none ∧ takeSlot 4096 s.que.ctxSlots = some (i, sl)) ∧
    (∃ (q : BitVec 16) (h : CmdHdr) (k : Queue) (s : State) (p : W32) (root : W64) (d : Byte) (st : Status) (i : Nat) (t :
    State), k.ctx = none ∧ startsAtOnce q.toNat k h (.ctxCreate p root d) s ∧ ctxCreate k.fn p.toNat root d.toNat (started
    q.toNat k h (.ctxCreate p root d) s) = ((st, i), t)) ∧
    (∃ (q : BitVec 16) (h : CmdHdr) (k : Queue) (s : State) (c : W64) (x : Ctx), k.ctx = none ∧ startsAtOnce q.toNat k h
    (.ctxDestroy c) s ∧ mget s.que.ctxs (handleOf c).index = some x) ∧
    (∃ (q : BitVec 16) (h : CmdHdr) (k : Queue) (s : State) (c : W64) (x : Ctx), k.ctx = none ∧ startsAtOnce q.toNat k h
    (.ctxResume c) s ∧ mget s.que.ctxs (handleOf c).index = some x) ∧
    (∃ (q : BitVec 16) (h : CmdHdr) (k : Queue) (s : State) (i : BitVec 16) (x : Ctx), k.ctx = none ∧ startsAtOnce q.toNat k h
    (.ctxReclaim i) s ∧ mget s.que.ctxs i.toNat = some x ∧ x.fn = k.fn) ∧
    (∃ (q : BitVec 16) (h : CmdHdr) (k : Queue) (s : State) (c : W64) (ring : W64) (cpl : W64) (n : Byte) (f : Byte) (v :
    BitVec 16) (p : Byte) (st : Status) (i : Nat) (d : Nat) (t : State), k.ctx = none ∧ startsAtOnce q.toNat k h (.queueCreate
    c ring cpl n f v p) s ∧ queueCreate k.fn (handleOf c).index ring cpl n.toNat f.toNat v.toNat p.toNat (started q.toNat k h
    (.queueCreate c ring cpl n f v p) s) = ((st, i, d), t)) ∧
    (∃ (q : BitVec 16) (h : CmdHdr) (k : Queue) (s : State) (x : W64), k.ctx = none ∧ startsAtOnce q.toNat k h (.queueDestroy
    x) s) ∧
    (∃ (q : BitVec 16) (h : CmdHdr) (k : Queue) (s : State) (x : W64) (u : Queue), k.ctx = none ∧ startsAtOnce q.toNat k h
    (.queueStop x) s ∧ (handleOf x).index ≠ q.toNat ∧ mget s.que.queues (handleOf x).index = some u) :=
  ⟨⟨0, wHdr, wAdmin, w130, 7, 2, 1, { fresh := 2 }, by decide⟩,
   ⟨0, wHdr, wAdmin, S0, 7, 0, 2, (ctxCreate 1 7 0 2 (started 0 wAdmin wHdr (.ctxCreate 7 0 2) S0)).1.1, (ctxCreate 1 7 0 2
   (started 0 wAdmin wHdr (.ctxCreate 7 0 2) S0)).1.2, w131, ⟨by decide, by decide, rfl⟩⟩,
   ⟨0, wHdr, wAdmin, S0, mkHandle 1 0 0, wCtx, by decide⟩,
   ⟨0, wHdr, wAdmin, w126, mkHandle 1 0 0, { wCtx with st := .faulted }, by decide⟩,
   ⟨0, wHdr, wAdmin, w132, 0, { wCtx with st := .hostPathLost }, by decide⟩,
   ⟨0, wHdr, wAdmin, S0, mkHandle 1 0 0, 2^56 + 2^20, 2^56 + 2^21, 4, 6, 2, 0, (queueCreate 1 0 (2^56 + 2^20) (2^56 + 2^21) 4
   6 2 0 (started 0 wAdmin wHdr (.queueCreate (mkHandle 1 0 0) (2^56 + 2^20) (2^56 + 2^21) 4 6 2 0) S0)).1.1, (queueCreate 1 0
   (2^56 + 2^20) (2^56 + 2^21) 4 6 2 0 (started 0 wAdmin wHdr (.queueCreate (mkHandle 1 0 0) (2^56 + 2^20) (2^56 + 2^21) 4 6 2
   0) S0)).1.2.1, (queueCreate 1 0 (2^56 + 2^20) (2^56 + 2^21) 4 6 2 0 (started 0 wAdmin wHdr (.queueCreate (mkHandle 1 0 0)
   (2^56 + 2^20) (2^56 + 2^21) 4 6 2 0) S0)).1.2.2, w133, by decide +kernel⟩,
   ⟨0, wHdr, wAdmin, S0, mkHandle 2 1 0, by decide⟩,
   ⟨0, wHdr, wAdmin, S0, mkHandle 2 1 0, wQ, by decide +kernel⟩⟩

theorem witness_AdminCommands_2 :
    (∃ (q : BitVec 16) (h : CmdHdr) (k : Queue) (s : State) (x : W64) (u : Queue), k.ctx = none ∧ startsAtOnce q.toNat k h
    (.queueStart x) s ∧ (handleOf x).index ≠ q.toNat ∧ mget s.que.queues (handleOf x).index = some u) ∧
    (∃ (q : BitVec 16) (h : CmdHdr) (k : Queue) (s : State) (c : W64) (i : W64) (sc : Byte) (m : Byte) (n : Nat) (sl : Slots),
    k.ctx = none ∧ startsAtOnce q.toNat k h (.fenceCreate c i sc m) s ∧ ctxOpen (handleOf c).index s = true ∧ quotaLeft
    (ctxEnv (handleOf c).index s) 4 s = true ∧ takeSlot 16384 s.que.fenSlots = some (n, sl)) ∧
    (∃ (q : BitVec 16) (h : CmdHdr) (k : Queue) (s : State) (f : W64), k.ctx = none ∧ startsAtOnce q.toNat k h (.fenceDestroy
    f) s) ∧
    (∃ (q : BitVec 16) (h : CmdHdr) (k : Queue) (s : State) (o : W64) (off : W64) (len : W64) (r : Byte) (st : Status) (i :
    Nat) (r1 : Nat) (t : State), k.ctx = none ∧ startsAtOnce q.toNat k h (.regionRegister o off len r) s ∧ regionRegister k.fn
    (handleOf o).index off.toNat len.toNat (started q.toNat k h (.regionRegister o off len r) s) = ((st, i, r1), t)) ∧
    (∃ (q : BitVec 16) (h : CmdHdr) (k : Queue) (s : State) (r : W64) (v : Region), k.ctx = none ∧ startsAtOnce q.toNat k h
    (.regionRevoke r) s ∧ mget s.que.regions (handleOf r).index = some v) ∧
    (∃ (q : BitVec 16) (h : CmdHdr) (k : Queue) (s : State) (sl : BitVec 16) (core : BitVec 16) (c : W64) (e : Nat) (v : Env),
    k.ctx = none ∧ startsAtOnce q.toNat k h (.rillBind sl core c) s ∧ (func k.fn s).env = some e ∧ mget s.env.envs e = some v
    ∧ sl.toNat ∈ v.rill ∧ core.toNat < v.cores.length ∧ ctxOpen (handleOf c).index s = true) ∧
    (∃ (q : BitVec 16) (h : CmdHdr) (k : Queue) (s : State) (sl : BitVec 16) (e : Nat) (v : Env) (r : Rill), k.ctx = none ∧
    startsAtOnce q.toNat k h (.rillUnbind sl) s ∧ (func k.fn s).env = some e ∧ mget s.env.envs e = some v ∧ sl.toNat ∈ v.rill
    ∧ mget s.que.rills sl.toNat = some r) :=
  ⟨⟨0, wHdr, wAdmin, w134, mkHandle 2 1 0, { wQ with st := .stopped }, by decide⟩,
   ⟨0, wHdr, wAdmin, S0, mkHandle 1 0 0, 5, 3, 0, 1, { fresh := 2 }, by decide⟩,
   ⟨0, wHdr, wAdmin, S0, mkHandle 4 0 0, by decide⟩,
   ⟨0, wHdr, wAdmin, w135, mkHandle 3 0 0, 4096, 4096, 3, ex_quad _ (by decide) (by decide +kernel)⟩,
   ⟨0, wHdr, wAdmin, S0, mkHandle 5 0 0, wRegion, by decide⟩,
   ⟨0, wHdr, wAdmin, S0, 3, 1, mkHandle 1 0 0, 1, wEnv, by decide⟩,
   ⟨0, wHdr, wAdmin, S0, 3, 1, wEnv, wRill, by decide⟩⟩

theorem witness_DoorbellsAndRill :
    (∃ (t : Tlp) (p : HP) (fn : Fn) (sl : Fin 32768) (v : W64) (s : State) (i : Nat) (q : Queue), outsideIde t p.val s = false
    ∧ fnOpen p.val fn.val s = true ∧ slotQueue fn.val sl.val s = some (i, q) ∧ inboundAhead p.val s.que.nextReq s = false ∧
    s.env.zeroising = false ∧ takesDoorbell i q (fld v 32 24) s = true ∧ dist32 (fld v 0 32) q.tail < 2 ^ 31 ∧ dist32 (fld v 0
    32) (fetchHead q) ≤ 2 ^ q.k) ∧
    (∃ (t : Tlp) (p : HP) (fn : Fn) (sl : Fin 32768) (v : W64) (s : State) (i : Nat) (q : Queue), outsideIde t p.val s = false
    ∧ fnOpen p.val fn.val s = true ∧ slotQueue fn.val sl.val s = some (i, q) ∧ inboundAhead p.val s.que.nextReq s = false ∧
    s.env.zeroising = false ∧ takesDoorbell i q (fld v 32 24) s = true ∧ 2 ^ 31 ≤ dist32 (fld v 0 32) q.tail) ∧
    (∃ (t : Tlp) (p : HP) (fn : Fn) (sl : Fin 32768) (v : W64) (s : State) (i : Nat) (q : Queue), outsideIde t p.val s = false
    ∧ fnOpen p.val fn.val s = true ∧ slotQueue fn.val sl.val s = some (i, q) ∧ inboundAhead p.val s.que.nextReq s = false ∧
    s.env.zeroising = false ∧ takesDoorbell i q (fld v 32 24) s = true ∧ dist32 (fld v 0 32) q.tail < 2 ^ 31 ∧ 2 ^ q.k <
    dist32 (fld v 0 32) (fetchHead q)) ∧
    (∃ (t : Tlp) (p : HP) (fn : Fn) (sl : Fin 32768) (v : W64) (s : State) (i : Nat) (q : Queue), outsideIde t p.val s = false
    ∧ fnOpen p.val fn.val s = true ∧ slotQueue fn.val sl.val s = some (i, q) ∧ inboundAhead p.val s.que.nextReq s = false ∧
    takesDoorbell i q (fld v 32 24) s = false) ∧
    (∃ (t : Tlp) (p : HP) (fn : Fn) (sl : Fin 32768) (v : W64) (s : State) (i : Nat) (q : Queue), outsideIde t p.val s = false
    ∧ fnOpen p.val fn.val s = true ∧ slotQueue fn.val sl.val s = some (i, q) ∧ inboundAhead p.val s.que.nextReq s = false ∧
    takesDoorbell i q (fld v 32 24) s = true ∧ dist32 (fld v 0 32) q.chead < 2 ^ 31) ∧
    (∃ (t : Tlp) (p : HP) (fn : Fn) (s : State), outsideIde t p.val s = false ∧ fnOpen p.val fn.val s = true) ∧
    (∃ (t : Tlp) (p : HP) (fn : Fn) (sl : Fin 32768) (s : State) (lo : W32), outsideIde t p.val s = false ∧ fnOpen p.val
    fn.val s = true ∧ mget s.reg.half (4 * doorbellKey fn.val sl.val 0 + p.val) = some lo) ∧
    (∃ (t : Tlp) (p : HP) (fn : Fn) (s : State), outsideIde t p.val s = false ∧ fnOpen p.val fn.val s = true ∧ inboundAhead
    p.val s.que.nextReq s = true) ∧
    (∃ (t : Tlp) (p : HP) (fn : Fn) (s : State), outsideIde t p.val s = false ∧ fnOpen p.val fn.val s = true ∧ inboundAhead
    p.val s.que.nextReq s = true ∧ frozen s = false ∧ fn ≠ 0) ∧
    (∃ (t : Tlp) (p : HP) (fn : Fn) (s : State), outsideIde t p.val s = false ∧ fnOpen p.val fn.val s = true ∧ inboundAhead
    p.val s.que.nextReq s = true) ∧
    (∃ (t : Tlp) (p : HP) (s : State), outsideIde t p.val s = true ∧ frozen s = false) ∧
    (∃ (t : Tlp) (p : HP) (fn : Fn) (sl : Fin 1024) (off : BitVec 12) (d : List Byte) (s : State) (r : Rill) (c : Nat) (x :
    Ctx), outsideIde t p.val s = false ∧ frozen s = false ∧ fn ≠ 0 ∧ fnOpen p.val fn.val s = true ∧ inboundAhead p.val
    s.que.nextReq s = false ∧ sl.val ∈ rillOf fn.val s ∧ mget s.que.rills sl.val = some r ∧ r.ctx = some c ∧ mget s.que.ctxs c
    = some x ∧ x.st = .active ∧ x.fn = fn.val ∧ off.toNat + d.length < 4096) ∧
    (∃ (t : Tlp) (p : HP) (fn : Fn) (sl : Fin 1024) (off : BitVec 12) (d : List Byte) (s : State) (r : Rill) (c : Nat) (x :
    Ctx) (e : Nat) (v : Env), outsideIde t p.val s = false ∧ frozen s = false ∧ fn ≠ 0 ∧ fnOpen p.val fn.val s = true ∧
    inboundAhead p.val s.que.nextReq s = false ∧ sl.val ∈ rillOf fn.val s ∧ mget s.que.rills sl.val = some r ∧ r.ctx = some c
    ∧ mget s.que.ctxs c = some x ∧ x.st = .active ∧ x.fn = fn.val ∧ off.toNat ≤ 4088 ∧ off.toNat + d.length = 4096 ∧ (func
    fn.val s).env = some e ∧ mget s.env.envs e = some v ∧ v.st ≠ .pausing ∧ v.st ≠ .paused) ∧
    (∃ (t : Tlp) (p : HP) (fn : Fn) (sl : Fin 1024) (s : State), outsideIde t p.val s = false ∧ frozen s = false ∧ fn ≠ 0 ∧
    fnOpen p.val fn.val s = true ∧ inboundAhead p.val s.que.nextReq s = false ∧ sl.val ∉ rillOf fn.val s) ∧
    (∃ (fn : Fn) (v : Fin 2048) (s : State) (m : ModAcc), mget s.ep.mods (vecKey fn.val v.val) = some m ∧ m.firings ≠ 0 ∧
    regFld (fnKey fn.val (fSYN_MOD + 8 * v.val)) 8 12 s ≠ 0 ∧ regFld (fnKey fn.val (fSYN_MOD + 8 * v.val)) 8 12 s ≤ m.ticks) ∧
    (∃ (fn : Fn) (v : Fin 2048) (s : State) (m : ModAcc), mget s.ep.mods (vecKey fn.val v.val) = some m ∧ (m.firings = 0 ∨
    regFld (fnKey fn.val (fSYN_MOD + 8 * v.val)) 8 12 s = 0 ∨ m.ticks < regFld (fnKey fn.val (fSYN_MOD + 8 * v.val)) 8 12 s))
    ∧
    (∃ (p : HP) (fn : Fn) (s : State), fnOpen p.val fn.val s = true) :=
  ⟨⟨{}, 0, 1, 1, 2, S0, 1, wQ, by decide⟩,
   ⟨{}, 0, 1, 1, 0, S0, 1, wQ, by decide⟩,
   ⟨{}, 0, 1, 1, 19, S0, 1, wQ, by decide⟩,
   ⟨{}, 0, 1, 1, 2 + 2^32, S0, 1, wQ, by decide⟩,
   ⟨{}, 0, 1, 1, 0, S0, 1, wQ, by decide⟩,
   ⟨{}, 0, 1, S0, by decide⟩,
   ⟨{}, 0, 1, 1, w137, 17, by decide⟩,
   ⟨{}, 0, 1, w138, by decide⟩,
   ⟨{}, 0, 1, w138, by decide⟩,
   ⟨{}, 0, 1, w138, by decide⟩,
   ⟨{ outside := true }, 0, w70, by decide⟩,
   ⟨{}, 0, 1, 3, 16, [1, 2], S0, wRill, 0, wCtx, by decide⟩,
   ⟨{}, 0, 1, 3, 4088, [1, 2, 0, 0, 8, 0, 0, 0], S0, wRill, 0, wCtx, 1, wEnv, by decide⟩,
   ⟨{}, 0, 1, 4, S0, by decide⟩,
   ⟨1, 2, w139, { firings := 3, ticks := 5 }, by decide⟩,
   ⟨1, 2, w140, { firings := 3, ticks := 4 }, by decide⟩,
   ⟨0, 1, S0, by decide⟩⟩

theorem witness_WindowAndPlacement :
    (∃ (t : Tlp) (p : HP) (fn : Fn) (off : BitVec 29) (len : Fin 4096) (s : State), outsideIde t p.val s = false ∧ fnOpen
    p.val fn.val s = true ∧ off.toNat + (len.val + 1) ≤ winSize fn.val ∧ (func fn.val s).winActive = true) ∧
    (∃ (t : Tlp) (p : HP) (fn : Fn) (off : BitVec 29) (len : Fin 4096) (s : State), outsideIde t p.val s = false ∧ fnOpen
    p.val fn.val s = true ∧ off.toNat + (len.val + 1) ≤ winSize fn.val ∧ (func fn.val s).winActive = false) ∧
    (∃ (t : Tlp) (p : HP) (fn : Fn) (s : State), outsideIde t p.val s = true ∧ frozen s = false ∧ readArrives p.val fn.val s =
    true) ∧
    (∃ (t : Tlp) (p : HP) (s : State), outsideIde t p.val s = true ∧ frozen s = false) ∧
    (∃ (t : Tlp) (p : HP) (fn : Fn) (off : BitVec 29) (d : List Byte) (s : State), outsideIde t p.val s = false ∧ frozen s =
    false ∧ fnOpen p.val fn.val s = true ∧ off.toNat + d.length ≤ winSize fn.val ∧ d ≠ [] ∧ (func fn.val s).winActive = true)
    ∧
    (∃ (t : Tlp) (p : HP) (fn : Fn) (off : BitVec 29) (d : List Byte) (s : State), outsideIde t p.val s = false ∧ frozen s =
    false ∧ fnOpen p.val fn.val s = true ∧ off.toNat + d.length ≤ winSize fn.val ∧ d ≠ [] ∧ (func fn.val s).winActive = false)
    ∧
    (∃ (t : Tlp) (p : HP) (fn : Fn) (off : BitVec 29) (kind : Fin 3) (width : Fin 3) (x : BitVec 128) (y : BitVec 128) (s :
    State), outsideIde t p.val s = false ∧ frozen s = false ∧ fnOpen p.val fn.val s = true ∧ off.toNat + (hostAtom kind.val
    width.val x y).width ≤ winSize fn.val ∧ (width.val ≠ 2 ∨ kind.val = 2) ∧ (func fn.val s).winActive = true) ∧
    (∃ (t : Tlp) (p : HP) (fn : Fn) (off : BitVec 29) (kind : Fin 3) (width : Fin 3) (x : BitVec 128) (y : BitVec 128) (s :
    State), outsideIde t p.val s = false ∧ frozen s = false ∧ fnOpen p.val fn.val s = true ∧ off.toNat + (hostAtom kind.val
    width.val x y).width ≤ winSize fn.val ∧ (width.val ≠ 2 ∨ kind.val = 2) ∧ (func fn.val s).winActive = false) ∧
    (∃ (t : Tlp) (p : HP) (fn : Fn) (off : BitVec 29) (kind : Fin 3) (width : Fin 3) (x : BitVec 128) (y : BitVec 128) (s :
    State), outsideIde t p.val s = false ∧ frozen s = false ∧ fnOpen p.val fn.val s = true ∧ off.toNat + (hostAtom kind.val
    width.val x y).width ≤ winSize fn.val ∧ width.val = 2 ∧ kind.val ≠ 2) ∧
    (∃ (p : HP) (fn : Fn) (tag : BitVec 14) (w : WinRead) (s : State), (s.ep.winReads.find? fun w => w.port == p.val && w.fn
    == fn.val && w.tag == tag.toNat) = some w) ∧
    (∃ (t : Tlp) (p : HP) (off : BitVec 36) (key : BitVec 20) (d : List Byte) (i : Nat) (r : Region) (s : State) (ob : Obj) (x
    : Ctx), outsideIde t p.val s = false ∧ frozen s = false ∧ barOpen p.val 0 s = true ∧ s.spl.recovery = false ∧ d ≠ [] ∧
    (s.que.regions.find? fun e => e.2.win ≤ off.toNat / 2 ^ 20 && off.toNat / 2 ^ 20 < e.2.win + e.2.nwin) = some (i, r) ∧
    mgrPort p.val s = true ∧ r.key = key.toNat ∧ off.toNat - r.win * 2 ^ 20 + d.length ≤ r.len ∧ mget s.que.objs r.obj = some
    ob ∧ mget s.que.ctxs r.ctx = some x) ∧
    (∃ (t : Tlp) (p : HP) (off : BitVec 36) (key : BitVec 20) (d : List Byte) (i : Nat) (r : Region) (s : State), outsideIde t
    p.val s = false ∧ frozen s = false ∧ barOpen p.val 0 s = true ∧ s.spl.recovery = false ∧ d ≠ [] ∧ (s.que.regions.find? fun
    e => e.2.win ≤ off.toNat / 2 ^ 20 && off.toNat / 2 ^ 20 < e.2.win + e.2.nwin) = some (i, r) ∧ (mgrPort p.val s = false ∨
    r.key ≠ key.toNat ∨ r.len < off.toNat - r.win * 2 ^ 20 + d.length)) ∧
    (∃ (t : Tlp) (p : HP) (off : BitVec 36) (d : List Byte) (i : Nat) (r : Region) (s : State), outsideIde t p.val s = false ∧
    frozen s = false ∧ barOpen p.val 0 s = true ∧ s.spl.recovery = false ∧ d ≠ [] ∧ (s.que.regions.find? fun e => e.2.win ≤
    off.toNat / 2 ^ 20 && off.toNat / 2 ^ 20 < e.2.win + e.2.nwin) = some (i, r)) ∧
    (∃ (t : Tlp) (p : HP) (s : State), outsideIde t p.val s = false ∧ barOpen p.val 0 s = true) :=
  ⟨⟨{}, 0, 1, 0, 63, w141, by decide⟩,
   ⟨{}, 0, 1, 0, 63, S0, by decide⟩,
   ⟨{ outside := true }, 0, 1, w70, by decide⟩,
   ⟨{ outside := true }, 0, w70, by decide⟩,
   ⟨{}, 0, 1, 2^26 - 2, [1, 2], w141, by decide⟩,
   ⟨{}, 0, 1, 2^26 - 2, [1, 2], S0, by decide⟩,
   ⟨{}, 0, 1, 8, 0, 1, 1, 0, w141, by decide⟩,
   ⟨{}, 0, 1, 8, 0, 1, 1, 0, S0, by decide⟩,
   ⟨{}, 0, 1, 8, 1, 2, 1, 0, w141, by decide⟩,
   ⟨0, 1, 1, ⟨4, 0, 1, 1, 0⟩, w142, by decide⟩,
   ⟨{}, 0, 4094, 9, [1, 2], 0, wRegion, S0, wObj, wCtx, by decide⟩,
   ⟨{}, 0, 4094, 8, [1, 2], 0, wRegion, S0, by decide⟩,
   ⟨{}, 0, 4094, [1, 2], 0, wRegion, S0, by decide⟩,
   ⟨{}, 0, S0, by decide⟩⟩

theorem witness_ClassesAndAdmission :
    (∃ (p : HP) (n : Cls) (s : State), mgrOpen p.val (rDPA_CLASS + 8 * n.val) s = true ∧ mayClassC s = true) ∧
    (∃ (res : Fin 108) (late : Bool) (s : State), (frozen s = true ∨ arbiter res.val late s = none)) ∧
    (∃ (res : Fin 108) (late : Bool) (id : Nat) (r : Req) (s : State), frozen s = false ∧ arbiter res.val late s = some id ∧
    mget s.que.reqs id = some r ∧ eligible res.val r.ident.cls r.cost s = true) ∧
    (∃ (res : Fin 108) (late : Bool) (id : Nat) (r : Req) (s : State), frozen s = false ∧ arbiter res.val late s = some id ∧
    mget s.que.reqs id = some r) ∧
    (∃ (id : Nat) (c : Cmd) (s : State), mget s.que.cmds id = some c ∧ c.hdr.deadline ≠ 0 ∧ c.dlLeft = 0 ∧ c.dlMiss = false ∧
    c.st ≠ .queued) ∧
    (∃ (id : Nat) (c : Cmd) (s : State), mget s.que.cmds id = some c ∧ c.dlMiss = true) ∧
    (∃ (id : Nat) (r : Req) (s : State), mget s.que.reqs id = some r ∧ r.ident.deadline ≠ 0 ∧ r.dlLeft = 0 ∧ r.dlMissed =
    false) ∧
    (∃ (id : Nat) (r : Req) (s : State), mget s.que.reqs id = some r ∧ r.dlMissed = true) :=
  ⟨⟨0, 3, S0, by decide⟩,
   ⟨0, false, S0, by decide⟩,
   ⟨0, false, 4, { wReq with st := .credit, res := 0, cost := 1 }, w143, by decide⟩,
   ⟨0, false, 4, { wReq with st := .credit, res := 0, cost := 1 }, w143, by decide⟩,
   ⟨0, wCmd, w144, by decide⟩,
   ⟨0, { wCmd with dlMiss := true }, w145, by decide⟩,
   ⟨4, { wReq with ident := { ctx := some 0, cls := 2, deadline := 5 }, dlLeft := 0 }, w146, by decide⟩,
   ⟨4, { wReq with dlMissed := true }, w147, by decide +kernel⟩⟩

theorem witness_TranslationTraffic :
    (∃ (s : State) (p : HP) (tag : BitVec 14) (a : Ats) (x : State), (s.tr.ats.find? fun a => a.tag == tag.toNat && a.port ==
    p.val) = some a ∧ x = { s with tr := { s.tr with ats := s.tr.ats.filter fun x => !(x.tag == tag.toNat && x.port == p.val) } }
    ∧ atsFresh a s = false) ∧
    (∃ (s : State) (p : HP) (tag : BitVec 14) (a : Ats) (x : State), (s.tr.ats.find? fun a => a.tag == tag.toNat && a.port ==
    p.val) = some a ∧ x = { s with tr := { s.tr with ats := s.tr.ats.filter fun x => !(x.tag == tag.toNat && x.port == p.val) } }
    ∧ atsFresh a s = true ∧ a.stale = true) ∧
    (∃ (s : State) (p : HP) (tag : BitVec 14) (a : Ats) (x : State), (s.tr.ats.find? fun a => a.tag == tag.toNat && a.port ==
    p.val) = some a ∧ x = { s with tr := { s.tr with ats := s.tr.ats.filter fun x => !(x.tag == tag.toNat && x.port == p.val) } }
    ∧ atsFresh a s = true ∧ a.stale = false ∧ a.waiters ≠ []) ∧
    (∃ (s : State) (p : HP) (tag : BitVec 14) (a : Ats) (x : State), (s.tr.ats.find? fun a => a.tag == tag.toNat && a.port ==
    p.val) = some a ∧ x = { s with tr := { s.tr with ats := s.tr.ats.filter fun x => !(x.tag == tag.toNat && x.port == p.val) } }
    ∧ atsFresh a s = true ∧ a.stale = false) ∧
    (∃ (s : State) (p : HP) (tag : BitVec 14) (a : Ats) (x : State) (rd : Bool) (wr : Bool), (s.tr.ats.find? fun a => a.tag ==
    tag.toNat && a.port == p.val) = some a ∧ x =
    { s with tr := { s.tr with ats := s.tr.ats.filter fun x => !(x.tag == tag.toNat && x.port == p.val) } } ∧ atsFresh a s =
    true ∧ a.stale = false ∧ (rd = true ∨ wr = true)) ∧
    (∃ (s : State) (p : HP) (tag : BitVec 14), (s.tr.ats.find? fun a => a.tag == tag.toNat && a.port == p.val) = none) ∧
    (∃ (s : State) (t : Tlp) (p : HP) (fn : Fn) (itag : Fin 32), outsideIde t p.val s = false ∧ instAt fn.val p.val s = true ∧
    linkUp p.val s = true ∧ (s.tr.invals.any fun v => v.port == p.val && v.itag == itag.val) = false) ∧
    (∃ (s : State) (t : Tlp) (p : HP) (fn : Fn) (itag : Fin 32), outsideIde t p.val s = false ∧ instAt fn.val p.val s = true ∧
    linkUp p.val s = true ∧ (s.tr.invals.any fun v => v.port == p.val && v.itag == itag.val) = false ∧ s.tr.filter.length <
    256) ∧
    (∃ (s : State) (t : Tlp) (p : HP), outsideIde t p.val s = true) ∧
    (∃ (s : State) (p : HP) (itag : Fin 32) (v : Inval), (s.tr.invals.find? fun v => v.port == p.val && v.itag == itag.val) =
    some v ∧ (v.flushed = false ∨ needMet v.fl s = false)) ∧
    (∃ (s : State) (p : HP) (itag : Fin 32) (v : Inval), (s.tr.invals.find? fun v => v.port == p.val && v.itag == itag.val) =
    some v ∧ v.flushed = true ∧ needMet v.fl s = true) ∧
    (∃ (s : State) (g : Prg), s.tr.prgs = [g] ∧ g.out = 0) ∧
    (∃ (s : State) (i : Nat) (n : Nat) (p : Nat) (g : Prg), (s.tr.prgs.find? fun g => g.index == i) = some g ∧ g.out = 0 ∧ n =
    min (priAlloc g.fn s) g.pages.length ∧ 0 < n ∧ priOut s + n ≤ 1024 ∧ priOutFn g.fn s + n ≤ priAlloc g.fn s ∧ priInst g.fn
    s = some p ∧ (usablePorts g.fn s).contains p = true) ∧
    (∃ (s : State) (t : Tlp) (p : HP) (fn : Fn) (i : BitVec 9) (g : Prg), outsideIde t p.val s = false ∧ linkUp p.val s = true
    ∧ instAt fn.val p.val s = true ∧ (s.tr.prgs.find? fun g => g.fn == fn.val && g.index % 512 == i.toNat && g.out ≠ 0) = some
    g) ∧
    (∃ (s : State) (t : Tlp) (p : HP) (fn : Fn) (i : BitVec 9) (g : Prg), outsideIde t p.val s = false ∧ linkUp p.val s = true
    ∧ instAt fn.val p.val s = true ∧ (s.tr.prgs.find? fun g => g.fn == fn.val && g.index % 512 == i.toNat && g.out ≠ 0) = some
    g ∧ g.pages.length ≤ g.out) ∧
    (∃ (s : State) (t : Tlp) (p : HP) (fn : Fn) (i : BitVec 9) (g : Prg), outsideIde t p.val s = false ∧ linkUp p.val s = true
    ∧ instAt fn.val p.val s = true ∧ (s.tr.prgs.find? fun g => g.fn == fn.val && g.index % 512 == i.toNat && g.out ≠ 0) = some
    g ∧ g.out < g.pages.length) ∧
    (∃ (s : State) (t : Tlp) (p : HP) (fn : Fn) (i : BitVec 9) (g : Prg), outsideIde t p.val s = false ∧ linkUp p.val s = true
    ∧ instAt fn.val p.val s = true ∧ (s.tr.prgs.find? fun g => g.fn == fn.val && g.index % 512 == i.toNat && g.out ≠ 0) = some
    g) ∧
    (∃ (s : State) (fn : Fn) (i : BitVec 9) (g : Prg), (s.tr.prgs.find? fun g => g.fn == fn.val && g.index % 512 == i.toNat &&
    g.out ≠ 0) = some g) ∧
    (∃ (s : State) (c : Fin 4096) (pg : BitVec 45) (w : Walk), (s.tr.walks.find? fun w => w.ctx == c.val && w.page ==
    pg.toNat) = some w ∧ walkRuns w s = false) ∧
    (∃ (s : State) (c : Fin 4096) (pg : BitVec 45) (w : Walk) (x : State), (s.tr.walks.find? fun w => w.ctx == c.val && w.page
    == pg.toNat) = some w ∧ walkRuns w s = true ∧ x = walkAsk c.val pg.toNat w s ∧ ((walkLines c.val pg.toNat x).any (fun l =>
    fillOpen l x)) = true) ∧
    (∃ (s : State) (c : Fin 4096) (pg : BitVec 45) (w : Walk) (x : State), (s.tr.walks.find? fun w => w.ctx == c.val && w.page
    == pg.toNat) = some w ∧ walkRuns w s = true ∧ w.stale = true ∧ x = walkAsk c.val pg.toNat w s ∧ ((walkLines c.val pg.toNat
    x).any (fun l => fillOpen l x)) = false) ∧
    (∃ (s : State) (c : Fin 4096) (pg : BitVec 45) (w : Walk) (x : State) (y : State) (pa : Nat) (sz : Nat) (r : Bool) (wr :
    Bool) (a : Bool), (s.tr.walks.find? fun w => w.ctx == c.val && w.page == pg.toNat) = some w ∧ walkRuns w s = true ∧
    w.stale = false ∧ x = walkAsk c.val pg.toNat w s ∧ ((walkLines c.val pg.toNat x).any (fun l => fillOpen l x)) = false ∧ y
    = walkKeep c.val (pg.toNat * 4096)
    { x with tr := { x.tr with walks := x.tr.walks.filter fun x => !(x.ctx == c.val && x.page == pg.toNat) } } ∧ walkCtx c.val
    (pg.toNat * 4096) y = .leaf pa sz r wr a) ∧
    (∃ (s : State) (c : Fin 4096) (pg : BitVec 45) (w : Walk) (x : State) (y : State) (st : Status) (cause : Nat),
    (s.tr.walks.find? fun w => w.ctx == c.val && w.page == pg.toNat) = some w ∧ walkRuns w s = true ∧ w.stale = false ∧ x =
    walkAsk c.val pg.toNat w s ∧ ((walkLines c.val pg.toNat x).any (fun l => fillOpen l x)) = false ∧ y = walkKeep c.val
    (pg.toNat * 4096) { x with tr := { x.tr with walks := x.tr.walks.filter fun x => !(x.ctx == c.val && x.page == pg.toNat) } }
    ∧ walkCtx c.val (pg.toNat * 4096) y = .fail st cause false) ∧
    (∃ (s : State) (c : Fin 4096) (pg : BitVec 45) (w : Walk) (x : State) (y : State) (st : Status) (cause : Nat),
    (s.tr.walks.find? fun w => w.ctx == c.val && w.page == pg.toNat) = some w ∧ walkRuns w s = true ∧ w.stale = false ∧ x =
    walkAsk c.val pg.toNat w s ∧ ((walkLines c.val pg.toNat x).any (fun l => fillOpen l x)) = false ∧ y = walkKeep c.val
    (pg.toNat * 4096) { x with tr := { x.tr with walks := x.tr.walks.filter fun x => !(x.ctx == c.val && x.page == pg.toNat) } }
    ∧ walkCtx c.val (pg.toNat * 4096) y = .fail st cause true) ∧
    (∃ (s : State) (c : Fin 4096) (pg : BitVec 27) (w : Walk) (x : Ctx) (e : Nat) (v : Env) (m : PeerMap), (s.tr.peers.find?
    fun w => w.ctx == c.val && w.page == pg.toNat) = some w ∧ w.stale = false ∧ mget s.que.ctxs c.val = some x ∧ x.env = some
    e ∧ mget s.env.envs e = some v ∧ mget v.peers (vaChip (pg.toNat * 2 ^ 30)) = some m ∧ pg.toNat * 2 ^ 30 % 2 ^ 43 / 2 ^ 30
    < m.llen ∧ (mgetD s.spl.peers (vaChip (pg.toNat * 2 ^ 30)) {}).st = .active) ∧
    (∃ (s : State) (n : Nat), (s.tr.filter.find? fun f => f.id == n && f.active && !f.swept) = none) ∧
    (∃ (s : State) (n : Nat) (f : FiltEnt), (s.tr.filter.find? fun f => f.id == n && f.active && !f.swept) = some f) :=
  ⟨⟨w148, 0, 1, ({ tag := 1, port := 0, fn := 1, fnGen := 9, pasid := 7, page := 5, waiters := [(0, 4)] } : Ats),
    { S0 with tr := { ats := [] } }, by decide⟩,
   ⟨w149, 0, 1, { ({ tag := 1, port := 0, fn := 1, fnGen := 0, pasid := 7, page := 5, waiters := [(0, 4)] } : Ats) with stale := true },
   { S0 with tr := { ats := [] } }, by decide⟩,
   ⟨w30, 0, 1, ({ tag := 1, port := 0, fn := 1, fnGen := 0, pasid := 7, page := 5, waiters := [(0, 4)] } : Ats),
   { S0 with tr := { ats := [] } }, by decide⟩,
   ⟨w30, 0, 1, ({ tag := 1, port := 0, fn := 1, fnGen := 0, pasid := 7, page := 5, waiters := [(0, 4)] } : Ats),
   { S0 with tr := { ats := [] } }, by decide⟩,
   ⟨w30, 0, 1, ({ tag := 1, port := 0, fn := 1, fnGen := 0, pasid := 7, page := 5, waiters := [(0, 4)] } : Ats),
   { S0 with tr := { ats := [] } }, true, false, by decide⟩,
   ⟨S0, 0, 1, by decide⟩,
   ⟨S0, {}, 0, 1, 31, by decide⟩,
   ⟨S0, {}, 0, 1, 31, by decide⟩,
   ⟨w70, { outside := true }, 0, by decide⟩,
   ⟨w150, 0, 31, ⟨0, 1, 31, 0, 0, [], true, [(0, 1)]⟩, by decide⟩,
   ⟨w151, 0, 31, ⟨0, 1, 31, 0, 0, [], true, []⟩, by decide⟩,
   ⟨w152, ({ index := 0, fn := 1, pasid := 7, req := 4, pages := [(5, true, true)], out := 0 } : Prg), by decide⟩,
   ⟨w153, 0, 1, 0, ({ index := 0, fn := 1, pasid := 7, req := 4, pages := [(5, true, true)], out := 0 } : Prg), by decide⟩,
   ⟨w154, {}, 0, 1, 0, ({ index := 0, fn := 1, pasid := 7, req := 4, pages := [(5, true, true)], out := 1 } : Prg), by
   decide⟩,
   ⟨w154, {}, 0, 1, 0, ({ index := 0, fn := 1, pasid := 7, req := 4, pages := [(5, true, true)], out := 1 } : Prg), by
   decide⟩,
   ⟨w155, {}, 0, 1, 0, ({ index := 0, fn := 1, pasid := 7, req := 4, pages := [(5, true, true), (6, true, true)], out := 1 } :
   Prg), by decide⟩,
   ⟨w154, {}, 0, 1, 0, ({ index := 0, fn := 1, pasid := 7, req := 4, pages := [(5, true, true)], out := 1 } : Prg), by
   decide⟩,
   ⟨w156, 1, 0, { ({ index := 0, fn := 1, pasid := 7, req := 4, pages := [(5, true, true)], out := 1 } : Prg) with ticks := 100000 },
   by decide⟩,
   ⟨w157, 0, 0, ({ ctx := 0, page := 0, waiters := [] } : Walk), by decide⟩,
   ⟨w158, 0, 0, ({ ctx := 0, page := 0, waiters := [4] } : Walk), w159, by decide +kernel⟩,
   ⟨w160, 0, 0, ({ ctx := 0, page := 0, waiters := [4], asked := [0x10000000, 0x10000040] , stale := true} : Walk), w161, by
   decide⟩,
   ⟨w162, 0, 0, ({ ctx := 0, page := 0, waiters := [4], asked := [0x10000000, 0x10000040] } : Walk), w163, w164,
   0x100440000000, 3, true, true, true, by decide⟩,
   ⟨w165, 0, 0, ({ ctx := 0, page := 0, waiters := [4], asked := [0x10000000, 0x10000040] } : Walk), w166, w167, .fault, 1, by
   decide⟩,
   ⟨w168, 0, 0, ({ ctx := 0, page := 0, waiters := [4], asked := [0x10000000, 0x10000040] } : Walk), w169, w170, .fault, 14,
   by decide⟩,
   ⟨w171, 0, 2 * 2^13, { ctx := 0, page := 16384, waiters := [4] }, wCtx, 1,
   { wEnv with peers := [(2, { lbase := 16, llen := 16, rights := 7 })] }, { lbase := 16, llen := 16, rights := 7 }, by
   decide⟩,
   ⟨w171, 1, by decide⟩,
   ⟨w172, 0, { id := 0, revoke := false, m := .host 7 0 4096, active := true }, by decide⟩⟩

theorem witness_EndsAndReleases :
    (∃ (s : State) (c : Fin 4096) (x : Ctx), mget s.que.ctxs c.val = some x ∧ (x.st ≠ .destroying ∨ tokensOf c.val s ≠ [])) ∧
    (∃ (s : State) (c : Fin 4096) (x : Ctx) (n : Nat) (m : Nat) (id : Nat) (t : State), mget s.que.ctxs c.val = some x ∧ x.st
    = .destroying ∧ tokensOf c.val s = [] ∧ endDestroy c.val s = ((n, m, some id), t)) ∧
    (∃ (s : State) (c : Fin 4096) (x : Ctx) (n : Nat) (m : Nat) (t : State), mget s.que.ctxs c.val = some x ∧ x.st =
    .destroying ∧ tokensOf c.val s = [] ∧ endDestroy c.val s = ((n, m, none), t)) ∧
    (∃ (s : State) (n : BitVec 24) (o : Obj), mget s.que.objs n.toNat = some o ∧ (o.st ≠ .quarantine ∨ o.edges < 2 ∨ objBusy o
    s = true)) ∧
    (∃ (s : State) (n : BitVec 24) (o : Obj), mget s.que.objs n.toNat = some o ∧ o.st = .quarantine ∧ 2 ≤ o.edges ∧ objBusy o
    s = false) ∧
    (∃ (n : Nat) (k : Slots), slotGen k n ≠ 0xFFFFFFFF ∧ n ∉ k.retired) ∧
    (∃ (n : Nat) (k : Slots), slotGen k n = 0xFFFFFFFF) ∧
    (∃ (s : State) (n : Nat), s.weir.scrubTicks = n ∧ regRaw rWEIR_SCRUB_TICKS s ≤ BitVec.ofNat 64 n) ∧
    (∃ (s : State) (n : Nat), s.weir.scrubTicks = n ∧ ¬ regRaw rWEIR_SCRUB_TICKS s ≤ BitVec.ofNat 64 n) ∧
    (∃ (s : State), s.stalled = []) ∧
    (∃ (s : State) (c : Instr) (r : List Instr), s.stalled = c :: r ∧ (s.obs.auditOn = false ∨ freeC s = true)) ∧
    (∃ (s : State) (c : Instr) (r : List Instr), s.stalled = c :: r ∧ s.obs.auditOn = true ∧ freeC s = false) :=
  ⟨⟨S0, 0, wCtx, by decide⟩,
   ⟨w173, 0, { wCtx with st := .destroying, reportTo := some 5 }, 0, 1, 5, w174, by decide⟩,
   ⟨w175, 0, { wCtx with st := .destroying }, (endDestroy 0 (qS fun q =>
   { q with ctxs := [(0, { wCtx with st := .destroying })] })).1.1, (endDestroy 0 (qS fun q =>
   { q with ctxs := [(0, { wCtx with st := .destroying })] })).1.2.1, w176, by decide⟩,
   ⟨S0, 0, wObj, by decide⟩,
   ⟨w177, 0, { wObj with st := .quarantine, edges := 2 }, by decide⟩,
   ⟨3, { fresh := 4 }, by decide⟩,
   ⟨3, { fresh := 4, gens := [(3, 0xFFFFFFFF)] }, by decide⟩,
   ⟨w178, 0x141DD76000, by decide⟩,
   ⟨S0, 0, by decide⟩,
   ⟨S0, by decide⟩,
   ⟨{ S0 with stalled := [.sluiceResume 0] }, .sluiceResume 0, [], by decide⟩,
   ⟨w179, .sluiceResume 0, [], by decide +kernel⟩⟩

theorem witness_HostMemoryAndCache :
    (∃ (p : HP) (dec : Fin 4) (hd : HdmDec) (addr : BitVec 52) (s : State) (s1 : State) (l : Nat), frozen s = false ∧ cxlMemOn
    p.val s = true ∧ agentSt (544 + p.val) s ≠ .dead ∧ s1 =
    { s with ep := { s.ep with hdm := mset s.ep.hdm (4 * p.val + dec.val) hd }, coh := (if agentSt (544 + p.val) s = .absent then { s.coh with agents := mset s.coh.agents (544 + p.val) { agentRec (544 + p.val) s with st := .active, en := true } } else s.coh) }
    ∧ ((hdmOffset hd addr.toNat).bind fun x => hdmLocal p.val dec.val x s) = some l) ∧
    (∃ (p : HP) (dec : Fin 4) (hd : HdmDec) (addr : BitVec 52) (s : State) (s1 : State) (l : Nat), frozen s = false ∧ cxlMemOn
    p.val s = true ∧ agentSt (544 + p.val) s ≠ .dead ∧ s1 =
    { s with ep := { s.ep with hdm := mset s.ep.hdm (4 * p.val + dec.val) hd }, coh := (if agentSt (544 + p.val) s = .absent then { s.coh with agents := mset s.coh.agents (544 + p.val) { agentRec (544 + p.val) s with st := .active, en := true } } else s.coh) }
    ∧ ((hdmOffset hd addr.toNat).bind fun x => hdmLocal p.val dec.val x s) = some l) ∧
    (∃ (p : HP) (dec : Fin 4) (hd : HdmDec) (addr : BitVec 52) (s : State) (s1 : State) (l : Nat), frozen s = false ∧ cxlMemOn
    p.val s = true ∧ agentSt (544 + p.val) s ≠ .dead ∧ s1 =
    { s with ep := { s.ep with hdm := mset s.ep.hdm (4 * p.val + dec.val) hd }, coh := (if agentSt (544 + p.val) s = .absent then { s.coh with agents := mset s.coh.agents (544 + p.val) { agentRec (544 + p.val) s with st := .active, en := true } } else s.coh) }
    ∧ ((hdmOffset hd addr.toNat).bind fun x => hdmLocal p.val dec.val x s) = some l) ∧
    (∃ (p : HP) (dec : Fin 4) (hd : HdmDec) (addr : BitVec 52) (s : State) (s1 : State) (l : Nat), frozen s = false ∧ cxlMemOn
    p.val s = true ∧ agentSt (544 + p.val) s ≠ .dead ∧ s1 =
    { s with ep := { s.ep with hdm := mset s.ep.hdm (4 * p.val + dec.val) hd }, coh := (if agentSt (544 + p.val) s = .absent then { s.coh with agents := mset s.coh.agents (544 + p.val) { agentRec (544 + p.val) s with st := .active, en := true } } else s.coh) }
    ∧ ((hdmOffset hd addr.toNat).bind fun x => hdmLocal p.val dec.val x s) = some l ∧ (∀ t, (dirEnt (l / 64) s).txn = some t →
    544 + p.val ∉ t.snooped)) ∧
    (∃ (p : HP) (dec : Fin 4) (hd : HdmDec) (addr : BitVec 52) (s : State) (s1 : State) (l : Nat) (t : CohTxn), frozen s =
    false ∧ cxlMemOn p.val s = true ∧ agentSt (544 + p.val) s ≠ .dead ∧ s1 =
    { s with ep := { s.ep with hdm := mset s.ep.hdm (4 * p.val + dec.val) hd }, coh := (if agentSt (544 + p.val) s = .absent then { s.coh with agents := mset s.coh.agents (544 + p.val) { agentRec (544 + p.val) s with st := .active, en := true } } else s.coh) }
    ∧ ((hdmOffset hd addr.toNat).bind fun x => hdmLocal p.val dec.val x s) = some l ∧ (dirEnt (l / 64) s).txn = some t ∧ 544 +
    p.val ∈ t.snooped) ∧
    (∃ (p : HP) (dec : Fin 4) (hd : HdmDec) (addr : BitVec 52) (s : State) (s1 : State) (op : CxlOp), frozen s = false ∧
    cxlMemOn p.val s = true ∧ agentSt (544 + p.val) s ≠ .dead ∧ s1 =
    { s with ep := { s.ep with hdm := mset s.ep.hdm (4 * p.val + dec.val) hd }, coh := (if agentSt (544 + p.val) s = .absent then { s.coh with agents := mset s.coh.agents (544 + p.val) { agentRec (544 + p.val) s with st := .active, en := true } } else s.coh) }
    ∧ ((hdmOffset hd addr.toNat).bind fun x => hdmLocal p.val dec.val x s) = none ∧ op ≠ .conflict) ∧
    (∃ (p : HP) (s : State), cxlCacheOn p.val s = false) ∧
    (∃ (p : HP) (addr : BitVec 56) (s : State), cxlCacheOn p.val s = true ∧ (∀ t, (dirEnt (hostKey addr.toNat) s).txn = some t
    → t.st ≠ .go)) ∧
    (∃ (p : HP) (addr : BitVec 56) (kind : Fin 3) (s : State) (t : CohTxn), cxlCacheOn p.val s = true ∧ (dirEnt (hostKey
    addr.toNat) s).txn = some t ∧ t.st = .go ∧ ((dirEnt (hostKey addr.toNat) s).owner ≠ none ∨ (kind = 1 ∧ holders (dirEnt
    (hostKey addr.toNat) s) s ≠ []))) ∧
    (∃ (p : HP) (addr : BitVec 56) (kind : Fin 3) (s : State) (t : CohTxn), cxlCacheOn p.val s = true ∧ (dirEnt (hostKey
    addr.toNat) s).txn = some t ∧ t.st = .go ∧ (dirEnt (hostKey addr.toNat) s).owner = none ∧ (kind ≠ 1 ∨ holders (dirEnt
    (hostKey addr.toNat) s) s = [])) ∧
    (∃ (p : HP) (addr : BitVec 56) (st : Fin 4) (t : CohTxn) (s : State), cxlCacheOn p.val s = true ∧ (dirEnt (hostKey
    addr.toNat) s).txn = some t ∧ t.st = .go) ∧
    (∃ (addr : BitVec 56) (s : State), (dirEnt (hostKey addr.toNat) s).txn = none) ∧
    (∃ (p : HP) (k : BitVec 38) (t : CohTxn) (s : State), let a := 544 + p.val; agentSt (544 + p.val) s ≠ .dead ∧ (dirEnt
    k.toNat s).txn = some t ∧ a ∈ t.snooped ∧ (t.st = .xSd ∨ t.st = .xSi ∨ t.st = .sSi)) ∧
    (∃ (p : HP) (k : BitVec 38) (t : CohTxn) (s : State), let a := 544 + p.val; agentSt (544 + p.val) s ≠ .dead ∧ (dirEnt
    k.toNat s).txn = some t ∧ a ∈ t.snooped ∧ t.st = .xSd) ∧
    (∃ (p : HP) (k : BitVec 38) (sh : Bool) (t : CohTxn) (s : State), let a := 544 + p.val; agentSt (544 + p.val) s ≠ .dead ∧
    (dirEnt k.toNat s).txn = some t ∧ (a ∉ t.snooped ∨ (t.st ≠ .xSd ∧ (sh = true ∨ (t.st ≠ .xSi ∧ t.st ≠ .sSi))))) ∧
    (∃ (p : HP) (s : State), agentSt (544 + p.val) s = .dead) ∧
    (∃ (p : HP) (k : BitVec 38) (s : State), agentSt (544 + p.val) s ≠ .dead ∧ (dirEnt k.toNat s).txn = none) ∧
    (∃ (p : HP) (k : BitVec 38) (t : CohTxn) (s : State), (dirEnt k.toNat s).txn = some t ∧ 544 + p.val ∈ t.snooped) ∧
    (∃ (p : HP) (k : BitVec 38) (t : CohTxn) (s : State), (dirEnt k.toNat s).txn = some t ∧ 544 + p.val ∉ t.snooped) ∧
    (∃ (k : BitVec 38) (s : State), (dirEnt k.toNat s).txn = none) ∧
    (∃ (p : HP) (s : State), cxlMemOn p.val s = true ∧ agentSt (544 + p.val) s ≠ .dead) :=
  ⟨⟨0, 0, ⟨0, 2^40, 0, 0⟩, 0, w180, w181, 16 * 2^30, by decide⟩,
   ⟨0, 0, ⟨0, 2^40, 0, 0⟩, 0, w180, w181, 16 * 2^30, by decide⟩,
   ⟨0, 0, ⟨0, 2^40, 0, 0⟩, 0, w180, w181, 16 * 2^30, by decide⟩,
   ⟨0, 0, ⟨0, 2^40, 0, 0⟩, 0, w180, w181, 16 * 2^30, by decide⟩,
   ⟨0, 0, ⟨0, 2^40, 0, 0⟩, 0, w182, w183, 16 * 2^30,
   { st := .xSi, r := { kind := .rdOwn, agent := 0, txn := 3 }, snooped := [544] }, by decide⟩,
   ⟨0, 0, ⟨0, 2^40, 0, 0⟩, 2^40, w180, w181, .rdA, by decide⟩,
   ⟨0, S0, by decide⟩,
   ⟨0, 64, w184, by decide⟩,
   ⟨0, 64, 0, w185, { st := .go, r := { kind := .rdOwn, agent := 0, txn := 3 } }, by decide⟩,
   ⟨0, 64, 0, w186, { st := .go, r := { kind := .rdOwn, agent := 0, txn := 3 } }, by decide⟩,
   ⟨0, 64, 2, { st := .go, r := { kind := .rdOwn, agent := 0, txn := 3 } }, w187, by decide⟩,
   ⟨64, w184, by decide⟩,
   ⟨0, 16 * 2^30 / 64, { st := .xSi, r := { kind := .rdOwn, agent := 0, txn := 3 }, snooped := [544] }, w182, by decide⟩,
   ⟨0, 16 * 2^30 / 64, { st := .xSd, r := { kind := .rdShared, agent := 0, txn := 3 }, snooped := [544] }, w188, by decide⟩,
   ⟨0, 16 * 2^30 / 64, false, { st := .xSi, r := { kind := .rdOwn, agent := 0, txn := 3 }, snooped := [545] }, w189, by
   decide⟩,
   ⟨0, w190, by decide⟩,
   ⟨0, 16 * 2^30 / 64, w184, by decide⟩,
   ⟨0, 16 * 2^30 / 64, { st := .xSd, r := { kind := .rdShared, agent := 0, txn := 3 }, snooped := [544] }, w188, by decide⟩,
   ⟨0, 16 * 2^30 / 64, { st := .xSd, r := { kind := .rdShared, agent := 0, txn := 3 }, snooped := [545] }, w191, by decide⟩,
   ⟨16 * 2^30 / 64, S0, by decide⟩,
   ⟨0, w180, by decide⟩⟩

theorem witness_FenceActions :
    (∃ (p : HP) (fn : Fn) (v : W64) (n : Nat) (f : Fence) (s : State), ActsOn p.val fn.val 0 n v f s) ∧
    (∃ (p : HP) (fn : Fn) (v : W64) (n : Nat) (f : Fence) (s : State) (op : Nat), 6 ≤ op ∧ ActsOn p.val fn.val op n v f s) ∧
    (∃ (p : HP) (fn : Fn) (v : W64) (n : Nat) (f : Fence) (s : State), ActsOn p.val fn.val 1 n v f s ∧ f.st = .live) ∧
    (∃ (p : HP) (fn : Fn) (v : W64) (n : Nat) (f : Fence) (s : State), ActsOn p.val fn.val 1 n v f s ∧ (f.st = .error ∨ f.st =
    .exhausted) ∧ f.compat = false ∧ regRaw (fnKey fn.val fSYN_ARG) s = 0xFFFFFFFFFFFFFFFF) ∧
    (∃ (p : HP) (fn : Fn) (v : W64) (n : Nat) (f : Fence) (s : State), ActsOn p.val fn.val 1 n v f s ∧ (f.st = .error ∨ f.st =
    .exhausted) ∧ f.compat = false ∧ regRaw (fnKey fn.val fSYN_ARG) s ≠ 0xFFFFFFFFFFFFFFFF) ∧
    (∃ (p : HP) (fn : Fn) (v : W64) (n : Nat) (f : Fence) (s : State), ActsOn p.val fn.val 1 n v f s ∧ (f.st = .error ∨ f.st =
    .exhausted) ∧ f.compat = true ∧ (regRaw (fnKey fn.val fSYN_ARG) s).toNat < 2 ^ 32) ∧
    (∃ (p : HP) (fn : Fn) (v : W64) (n : Nat) (f : Fence) (s : State), ActsOn p.val fn.val 2 n v f s ∧ fld (regRaw (fnKey
    fn.val fSYN_ARG) s) 0 57 % 8 ≠ 0) ∧
    (∃ (p : HP) (fn : Fn) (v : W64) (n : Nat) (f : Fence) (s : State), ActsOn p.val fn.val 2 n v f s ∧ fld (regRaw (fnKey
    fn.val fSYN_ARG) s) 0 57 % 8 = 0) ∧
    (∃ (p : HP) (fn : Fn) (v : W64) (n : Nat) (f : Fence) (s : State), ActsOn p.val fn.val 3 n v f s) ∧
    (∃ (p : HP) (fn : Fn) (v : W64) (n : Nat) (f : Fence) (s : State) (vec : Nat), ActsOn p.val fn.val 4 n v f s ∧ regFld
    (fnKey fn.val fSYN_ACTION) 16 11 s = vec ∧ (func fn.val s).vectors ≤ vec) ∧
    (∃ (p : HP) (fn : Fn) (v : W64) (n : Nat) (f : Fence) (s : State) (vec : Nat), ActsOn p.val fn.val 4 n v f s ∧ regFld
    (fnKey fn.val fSYN_ACTION) 16 11 s = vec ∧ vec < (func fn.val s).vectors ∧ (f.compat = true → (regRaw (fnKey fn.val
    fSYN_ARG) s).toNat < 2 ^ 32) ∧ f.st = .live) ∧
    (∃ (p : HP) (fn : Fn) (v : W64) (n : Nat) (f : Fence) (s : State) (vec : Nat), ActsOn p.val fn.val 4 n v f s ∧ regFld
    (fnKey fn.val fSYN_ACTION) 16 11 s = vec ∧ vec < (func fn.val s).vectors ∧ (f.compat = true → (regRaw (fnKey fn.val
    fSYN_ARG) s).toNat < 2 ^ 32) ∧ (f.st = .error ∨ f.st = .exhausted)) ∧
    (∃ (p : HP) (fn : Fn) (v : W64) (n : Nat) (f : Fence) (s : State), ActsOn p.val fn.val 5 n v f s) ∧
    (∃ (p : HP) (fn : Fn) (s : State) (b : Nat × Nat), fnOpen p.val fn.val s = true ∧ mget s.que.actBusy fn.val = some b) ∧
    (∃ (n : Nat) (f : Fence) (s : State) (i : Nat) (w : Wait), mget s.que.waits i = some w ∧ w.fence = n ∧ mget s.que.fences n
    = some f ∧ w.left = some 0) ∧
    (∃ (n : Nat) (f : Fence) (s : State) (i : Nat) (w : Wait), mget s.que.waits i = some w ∧ w.fence = n ∧ mget s.que.fences n
    = some f ∧ w.left ≠ some 0) ∧
    (∃ (n : Nat) (f : Fence) (s : State) (m : Fin 16384), m.val = n ∧ mget s.que.fences n = some f ∧ f.mirrorSent = false) ∧
    (∃ (n : Nat) (f : Fence) (s : State) (m : Fin 16384) (t : State) (u : State), m.val = n ∧ mget s.que.fences n = some f ∧
    f.mirrorSent = true ∧ t = modFence n (fun f => { f with mirrorBusy := false, mirrorSent := false }) s ∧ (u = (if f.armDue
    = true ∨ (f.armNext = true ∧ f.mirrorAgain = false) then fireArm n t else t))) :=
  ⟨⟨0, 1, mkHandle 4 0 0, 0, wFence, w192, by decide⟩,
   ⟨0, 1, mkHandle 4 0 0, 0, wFence, w193, 7, by decide⟩,
   ⟨0, 1, mkHandle 4 0 0, 0, wFence, w194, by decide⟩,
   ⟨0, 1, mkHandle 4 0 0, 0, { wFence with st := .error }, w195, by decide⟩,
   ⟨0, 1, mkHandle 4 0 0, 0, { wFence with st := .error }, w196, by decide⟩,
   ⟨0, 1, mkHandle 4 0 0, 0, { wFence with st := .exhausted, compat := true }, w197, by decide⟩,
   ⟨0, 1, mkHandle 4 0 0, 0, wFence, w198, by decide⟩,
   ⟨0, 1, mkHandle 4 0 0, 0, wFence, w199, by decide⟩,
   ⟨0, 1, mkHandle 4 0 0, 0, { wFence with mirror := some 4096, mirrorBusy := true, mirrorAgain := true }, w200, by decide⟩,
   ⟨0, 1, mkHandle 4 0 0, 0, wFence, w201, 4, by decide⟩,
   ⟨0, 1, mkHandle 4 0 0, 0, wFence, w202, 3, by decide⟩,
   ⟨0, 1, mkHandle 4 0 0, 0, { wFence with st := .error }, w203, 3, by decide⟩,
   ⟨0, 1, mkHandle 4 0 0, 0, wFence, w204, by decide⟩,
   ⟨0, 1, w205, (0, 4096), by decide⟩,
   ⟨0, wFence, w206, 0, ({ fence := 0, target := 9, who := .cmd 0, scope := 0, core := 0, engine := 0, left := some 0, registered := true }
   : Wait), by decide⟩,
   ⟨0, wFence, w207, 0, ({ fence := 0, target := 9, who := .cmd 0, scope := 0, core := 0, engine := 0, left := some 3, registered := true }
   : Wait), by decide⟩,
   ⟨0, { wFence with mirror := some 4096, mirrorBusy := true, mirrorSent := false }, w208, 0, by decide⟩,
   ⟨0, { wFence with mirror := some 4096, mirrorBusy := true, mirrorSent := true }, w209, 0, w210, w210, by decide⟩⟩

theorem witness_CoherentRequests :
    (∃ (h : CohHdr) (s : State) (x : Ctx), frozen s = false ∧ cohHdrOk true h = true ∧ agentSt h.agent.toNat s = .active ∧
    mget s.que.ctxs (agentRec h.agent.toNat s).ctx = some x ∧ slotGen s.que.ctxSlots (agentRec h.agent.toNat s).ctx =
    (agentRec h.agent.toNat s).gen) ∧
    (∃ (h : CohHdr) (s : State), frozen s = false ∧ cohHdrOk true h = true ∧ agentSt h.agent.toNat s ≠ .dead ∧ (agentSt
    h.agent.toNat s ≠ .active ∨ mget s.que.ctxs (agentRec h.agent.toNat s).ctx = none ∨ slotGen s.que.ctxSlots (agentRec
    h.agent.toNat s).ctx ≠ (agentRec h.agent.toNat s).gen)) ∧
    (∃ (h : CohHdr) (s : State), frozen s = false ∧ agentSt h.agent.toNat s = .dead ∧ cohHdrOk true h = true) ∧
    (∃ (h : CohHdr) (s : State), frozen s = false ∧ cohHdrOk false h = true ∧ agentSt h.agent.toNat s ≠ .dead) ∧
    (∃ (h : CohHdr) (s : State), frozen s = false ∧ cohHdrOk true h = false) ∧
    (∃ (h : CohHdr) (s : State), frozen s = false ∧ cohHdrOk false h = false) ∧
    (∃ (k : Nat) (r : CohReq) (s : State), r.req = none ∧ (dirEnt k s).txn.isSome = true) ∧
    (∃ (k : Nat) (r : CohReq) (s : State), let e : DirEnt := { dirEnt k s with stamp := s.coh.stamp + 1 }; r.req = none ∧
    (dirEnt k s).txn = none ∧ setFull k s = false ∧ (dirEnt k s).host = false ∧ r.kind = .rdShared ∧ e.owner = none) ∧
    (∃ (k : Nat) (r : CohReq) (s : State) (o : Nat), let e : DirEnt := { dirEnt k s with stamp := s.coh.stamp + 1 }; r.req =
    none ∧ (dirEnt k s).txn = none ∧ setFull k s = false ∧ (dirEnt k s).host = false ∧ r.kind = .rdShared ∧ e.owner = some o ∧
    o ≠ r.agent) ∧
    (∃ (k : Nat) (r : CohReq) (s : State) (o : Nat), let e : DirEnt := { dirEnt k s with stamp := s.coh.stamp + 1 }; r.req =
    none ∧ (dirEnt k s).txn = none ∧ setFull k s = false ∧ (dirEnt k s).host = false ∧ (r.kind = .rdOwn ∨ r.kind = .upgrade) ∧
    e.owner = some o ∧ o ≠ r.agent) ∧
    (∃ (k : Nat) (r : CohReq) (s : State), let e : DirEnt := { dirEnt k s with stamp := s.coh.stamp + 1 };
    let t : State := { s with coh := { s.coh with stamp := s.coh.stamp + 1 } }; r.req = none ∧ (dirEnt k s).txn = none ∧
    setFull k s = false ∧ (dirEnt k s).host = false ∧ r.kind = .rdOwn ∧ e.owner = none ∧ ((holders e t).filter (· !=
    r.agent)).isEmpty = true) ∧
    (∃ (k : Nat) (r : CohReq) (s : State), let e : DirEnt := { dirEnt k s with stamp := s.coh.stamp + 1 };
    let t : State := { s with coh := { s.coh with stamp := s.coh.stamp + 1 } }; r.req = none ∧ (dirEnt k s).txn = none ∧
    setFull k s = false ∧ (dirEnt k s).host = false ∧ r.kind = .upgrade ∧ e.owner = none ∧ ((holders e t).filter (· !=
    r.agent)).isEmpty = true) ∧
    (∃ (k : Nat) (r : CohReq) (s : State), let e : DirEnt := { dirEnt k s with stamp := s.coh.stamp + 1 };
    let t : State := { s with coh := { s.coh with stamp := s.coh.stamp + 1 } }; r.req = none ∧ (dirEnt k s).txn = none ∧
    setFull k s = false ∧ (dirEnt k s).host = false ∧ (r.kind = .rdOwn ∨ r.kind = .upgrade) ∧ e.owner = none ∧ ((holders e
    t).filter (· != r.agent)).isEmpty = false) ∧
    (∃ (k : Nat) (r : CohReq) (s : State), let e : DirEnt := { dirEnt k s with stamp := s.coh.stamp + 1 }; r.req = none ∧
    (dirEnt k s).txn = none ∧ setFull k s = false ∧ (dirEnt k s).host = false ∧ r.kind = .wrBack ∧ e.owner = some r.agent ∧
    isHostAgent r.agent = false) ∧
    (∃ (k : Nat) (r : CohReq) (s : State), let e : DirEnt := { dirEnt k s with stamp := s.coh.stamp + 1 }; r.req = none ∧
    (dirEnt k s).txn = none ∧ setFull k s = false ∧ (dirEnt k s).host = false ∧ r.kind = .wrBack ∧ e.owner ≠ some r.agent) ∧
    (∃ (k : Nat) (r : CohReq) (s : State), let e : DirEnt := { dirEnt k s with stamp := s.coh.stamp + 1 }; r.req = none ∧
    (dirEnt k s).txn = none ∧ setFull k s = false ∧ (dirEnt k s).host = false ∧ r.kind = .evictClean ∧ e.owner = some r.agent)
    ∧
    (∃ (k : Nat) (r : CohReq) (s : State), let e : DirEnt := { dirEnt k s with stamp := s.coh.stamp + 1 }; r.req = none ∧
    (dirEnt k s).txn = none ∧ setFull k s = false ∧ (dirEnt k s).host = false ∧ r.kind = .evictClean ∧ e.owner ≠ some r.agent)
    :=
  ⟨⟨⟨some 0, 0, 3, 2^26, true, false, true, true⟩, w211, wCtx, by decide⟩,
   ⟨⟨some 0, 0, 3, 2^26, true, false, true, true⟩, w212, by decide⟩,
   ⟨⟨some 0, 0, 3, 2^26, true, false, true, true⟩, w213, by decide⟩,
   ⟨⟨some 0, 0, 3, 16 * 2^30 + 2^44, false, false, true, true⟩, w211, by decide⟩,
   ⟨⟨some 0, 9, 3, 2^26, true, false, true, true⟩, w211, by decide⟩,
   ⟨⟨some 0, 0, 3, 16 * 2^30 + 2^44, false, false, false, true⟩, w211, by decide⟩,
   ⟨16 * 2^30 / 64, { kind := .rdShared, agent := 0, txn := 3 }, w214, by decide⟩,
   ⟨16 * 2^30 / 64, { kind := .rdShared, agent := 0, txn := 3 }, w215, by decide⟩,
   ⟨16 * 2^30 / 64, { kind := .rdShared, agent := 0, txn := 3 }, w216, 9, by decide⟩,
   ⟨16 * 2^30 / 64, { kind := .upgrade, agent := 0, txn := 3 }, w216, 9, by decide⟩,
   ⟨16 * 2^30 / 64, { kind := .rdOwn, agent := 0, txn := 3 }, w217, by decide⟩,
   ⟨16 * 2^30 / 64, { kind := .upgrade, agent := 0, txn := 3 }, w217, by decide⟩,
   ⟨16 * 2^30 / 64, { kind := .upgrade, agent := 0, txn := 3 }, w218, by decide⟩,
   ⟨16 * 2^30 / 64, { kind := .wrBack, agent := 0, txn := 3 }, w219, by decide⟩,
   ⟨16 * 2^30 / 64, { kind := .wrBack, agent := 0, txn := 3 }, w216, by decide⟩,
   ⟨16 * 2^30 / 64, { kind := .evictClean, agent := 0, txn := 3 }, w219, by decide⟩,
   ⟨16 * 2^30 / 64, { kind := .evictClean, agent := 0, txn := 3 }, w218, by decide⟩⟩

theorem witness_CoherentResponses :
    (∃ (h : CohHdr) (s : State) (t : CohTxn), cohHdrOk false h = true ∧ agentSt h.agent.toNat s ≠ .dead ∧ (dirEnt (cohKey h)
    s).txn = some t ∧ h.agent.toNat ∈ t.snooped ∧ (t.st = .xSd ∨ t.st = .xSi ∨ t.st = .sSi)) ∧
    (∃ (h : CohHdr) (s : State) (t : CohTxn), cohHdrOk false h = true ∧ agentSt h.agent.toNat s ≠ .dead ∧ (dirEnt (cohKey h)
    s).txn = some t ∧ h.agent.toNat ∈ t.snooped ∧ t.st = .xSd) ∧
    (∃ (h : CohHdr) (s : State) (t : CohTxn), cohHdrOk false h = true ∧ agentSt h.agent.toNat s ≠ .dead ∧ (dirEnt (cohKey h)
    s).txn = some t ∧ h.agent.toNat ∈ t.snooped ∧ (t.st = .xSd ∨ t.st = .xSi)) ∧
    (∃ (h : CohHdr) (s : State) (t : CohTxn), cohHdrOk false h = true ∧ agentSt h.agent.toNat s ≠ .dead ∧ (dirEnt (cohKey h)
    s).txn = some t ∧ h.agent.toNat ∈ t.snooped ∧ t.st = .xSd) ∧
    (∃ (h : CohHdr) (s : State) (t : CohTxn), cohHdrOk false h = true ∧ agentSt h.agent.toNat s ≠ .dead ∧ (dirEnt (cohKey h)
    s).txn = some t ∧ h.agent.toNat ∈ t.snooped ∧ (t.st = .sSi ∨ t.st = .xSi)) ∧
    (∃ (h : CohHdr) (s : State), cohHdrOk false h = true ∧ agentSt h.agent.toNat s ≠ .dead ∧ (dirEnt (cohKey h) s).txn = none)
    ∧
    (∃ (h : CohHdr) (s : State), cohHdrOk false h = true ∧ agentSt h.agent.toNat s = .dead) ∧
    (∃ (h : CohHdr) (s : State) (t : CohTxn), cohHdrOk false h = true ∧ agentSt h.agent.toNat s ≠ .dead ∧ (dirEnt (cohKey h)
    s).txn = some t ∧ h.agent.toNat ∈ t.owing) ∧
    (∃ (h : CohHdr) (s : State) (t : CohTxn), cohHdrOk false h = true ∧ agentSt h.agent.toNat s ≠ .dead ∧ (dirEnt (cohKey h)
    s).txn = some t ∧ t.st = .wD ∧ t.r.agent = h.agent.toNat) ∧
    (∃ (h : CohHdr) (s : State) (t : CohTxn), cohHdrOk false h = true ∧ agentSt h.agent.toNat s ≠ .dead ∧ (dirEnt (cohKey h)
    s).txn = some t ∧ h.agent.toNat ∉ t.owing) ∧
    (∃ (h : CohHdr) (s : State) (t : CohTxn), cohHdrOk false h = true ∧ agentSt h.agent.toNat s ≠ .dead ∧ (dirEnt (cohKey h)
    s).txn = some t ∧ t.st ≠ .wD) ∧
    (∃ (h : CohHdr) (s : State) (t : CohTxn), cohHdrOk false h = true ∧ agentSt h.agent.toNat s ≠ .dead ∧ (dirEnt (cohKey h)
    s).txn = some t ∧ t.st = .gA ∧ t.r.agent = h.agent.toNat) ∧
    (∃ (h : CohHdr) (s : State), cohHdrOk false h = true ∧ agentSt h.agent.toNat s = .flushing) ∧
    (∃ (h : CohHdr) (s : State), cohHdrOk false h = true ∧ agentSt h.agent.toNat s = .flushing ∧ mget s.env.leaving
    h.agent.toNat = none ∧ (∀ e ∈ s.coh.dir, e.2.sharers.contains h.agent.toNat = false)) ∧
    (∃ (h : CohHdr) (s : State), cohHdrOk false h = true ∧ agentSt h.agent.toNat s = .active) :=
  ⟨⟨⟨some 0, 0, 3, 16 * 2^30 + 2^44, false, false, true, true⟩, w220,
    { st := .xSi, r := { kind := .rdShared, agent := 9, txn := 3 } , snooped := [0] }, by decide⟩,
   ⟨⟨some 0, 0, 3, 16 * 2^30 + 2^44, false, false, true, true⟩, w221,
   { st := .xSd, r := { kind := .rdShared, agent := 9, txn := 3 } , snooped := [0] }, by decide⟩,
   ⟨⟨some 0, 0, 3, 16 * 2^30 + 2^44, false, false, true, true⟩, w220,
   { st := .xSi, r := { kind := .rdShared, agent := 9, txn := 3 } , snooped := [0] }, by decide⟩,
   ⟨⟨some 0, 0, 3, 16 * 2^30 + 2^44, false, false, true, true⟩, w221,
   { st := .xSd, r := { kind := .rdShared, agent := 9, txn := 3 } , snooped := [0] }, by decide⟩,
   ⟨⟨some 0, 0, 3, 16 * 2^30 + 2^44, false, false, true, true⟩, w222,
   { st := .sSi, r := { kind := .rdShared, agent := 9, txn := 3 } , snooped := [0] }, by decide⟩,
   ⟨⟨some 0, 0, 3, 16 * 2^30 + 2^44, false, false, true, true⟩, w211, by decide⟩,
   ⟨⟨some 0, 0, 3, 16 * 2^30 + 2^44, false, false, true, true⟩, w223, by decide⟩,
   ⟨⟨some 0, 0, 3, 16 * 2^30 + 2^44, false, false, true, true⟩, w224,
   { st := .xSd, r := { kind := .rdShared, agent := 9, txn := 3 } , owing := [0] }, by decide⟩,
   ⟨⟨some 0, 0, 3, 16 * 2^30 + 2^44, false, false, true, true⟩, w225,
   { st := .wD, r := { kind := .rdShared, agent := 0, txn := 3 } }, by decide⟩,
   ⟨⟨some 0, 0, 3, 16 * 2^30 + 2^44, false, false, true, true⟩, w225,
   { st := .wD, r := { kind := .rdShared, agent := 0, txn := 3 } }, by decide⟩,
   ⟨⟨some 0, 0, 3, 16 * 2^30 + 2^44, false, false, true, true⟩, w224,
   { st := .xSd, r := { kind := .rdShared, agent := 9, txn := 3 } , owing := [0] }, by decide⟩,
   ⟨⟨some 0, 0, 3, 16 * 2^30 + 2^44, false, false, true, true⟩, w226,
   { st := .gA, r := { kind := .rdShared, agent := 0, txn := 3 } , exclusive := true }, by decide⟩,
   ⟨⟨some 0, 0, 3, 2^26, false, false, true, true⟩, w227, by decide⟩,
   ⟨⟨some 0, 0, 3, 16 * 2^30 + 2^44, false, false, true, true⟩, w228, by decide⟩,
   ⟨⟨some 0, 0, 3, 16 * 2^30 + 2^44, false, false, true, true⟩, w211, by decide⟩⟩

theorem witness_AgentsRangesAndBias :
    (∃ (s : State) (a : Fin 1024), isMoorAgent a.val = true ∧ agentSt a.val s ≠ .dead ∧ owesSnoop a.val s = true) ∧
    (∃ (s : State) (a : Fin 1024), isMoorAgent a.val = true ∧ agentSt a.val s ≠ .dead ∧ owesSnoop a.val s = false) ∧
    (∃ (s : State) (a : Fin 1024), isMoorAgent a.val = true ∧ agentSt a.val s ≠ .dead ∧ agentSt a.val s = .flushing) ∧
    (∃ (s : State) (a : Fin 1024), isMoorAgent a.val = true ∧ agentSt a.val s ≠ .dead ∧ agentSt a.val s ≠ .flushing) ∧
    (∃ (s : State) (a : Fin 1024), isCoreAgent a.val = true ∧ agentSt a.val s ≠ .dead ∧ owesSnoop a.val s = true) ∧
    (∃ (s : State) (a : Fin 1024), isCoreAgent a.val = true ∧ agentSt a.val s ≠ .dead ∧ agentSt a.val s = .flushing) ∧
    (∃ (s : State) (a : Nat), agentSt a s ≠ .dead) ∧
    (∃ (s : State) (a : Fin 1024), (agentSt a.val s ≠ .dead ∨ (mgetD s.coh.agents a.val {}).swept = true)) ∧
    (∃ (s : State) (a : Fin 1024) (r : Agent), mget s.coh.agents a.val = some r ∧ r.st = .dead ∧ r.swept = false) ∧
    (∃ (s : State) (a : Fin 1024) (r : Agent), mget s.coh.agents a.val = some r ∧ r.st = .dead ∧ r.swept = false ∧ linesNaming
    a.val s = []) ∧
    (∃ (s : State) (p : HP) (v : W64) (a : Nat) (u : State),
    let t : State := { s with reg := { s.reg with last := mset s.reg.last rCOH_AGENT_CTL v } }; mgrOpen p.val rCOH_AGENT_CTL s
    = true ∧ (selGet p.val rCOH_AGENT_SEL s).toNat = a ∧ (isCoreAgent a = true ∨ isMoorAgent a = true) ∧ bit v 0 = true ∧
    (agentRec a s).en = false ∧ ((agentRec a s).st = .absent ∨ (agentRec a s).st = .dead) ∧ u = (if sweepDue a t then
    reclaimSweep a t else t)) ∧
    (∃ (s : State) (p : HP) (v : W64) (a : Nat), mgrOpen p.val rCOH_AGENT_CTL s = true ∧ (selGet p.val rCOH_AGENT_SEL s).toNat
    = a ∧ (isCoreAgent a = true ∨ isMoorAgent a = true) ∧ bit v 0 = false ∧ (agentRec a s).en = true ∧ (agentRec a s).st =
    .active) ∧
    (∃ (s : State) (p : HP) (v : W64) (a : Nat), mgrOpen p.val rCOH_AGENT_CTL s = true ∧ (selGet p.val rCOH_AGENT_SEL s).toNat
    = a ∧ (isCoreAgent a = true ∨ isMoorAgent a = true) ∧ bit v 0 = true ∧ (agentRec a s).en = true) ∧
    (∃ (s : State) (p : HP) (n : Fin 64) (v : W64), mgrOpen p.val (rCOH_RANGE + 8 * n.val) s = true ∧ mayClassC s = true ∧
    rangeRefused n.val v s = false) ∧
    (∃ (s : State) (p : HP) (n : Fin 64) (v : W64), mgrOpen p.val (rCOH_RANGE + 8 * n.val) s = true ∧ mayClassC s = true ∧
    rangeRefused n.val v s = true) ∧
    (∃ (s : State) (p : HP) (fn : Fn) (v : W64) (x : Ctx), let va := (regRaw (fnKey fn.val fCOH_BIAS_ARG) s).toNat % 2 ^ 57;
    fnOpen p.val fn.val s = true ∧ (mgetD s.coh.acts fn.val {}).busy = false ∧ mget s.que.ctxs (fld v 0 12) = some x ∧ x.fn =
    fn.val ∧ slotGen s.que.ctxSlots (fld v 0 12) = fld v 32 32 ∧ va % 4096 = 0 ∧ va < 2 ^ 56) ∧
    (∃ (s : State) (p : HP) (fn : Fn) (v : W64) (x : Ctx), fnOpen p.val fn.val s = true ∧ (mgetD s.coh.acts fn.val {}).busy =
    false ∧ mget s.que.ctxs (fld v 0 12) = some x ∧ (x.fn ≠ fn.val ∨ slotGen s.que.ctxSlots (fld v 0 12) ≠ fld v 32 32)) ∧
    (∃ (s : State) (p : HP) (fn : Fn) (v : W64) (x : Ctx), let va := (regRaw (fnKey fn.val fCOH_BIAS_ARG) s).toNat % 2 ^ 57;
    fnOpen p.val fn.val s = true ∧ (mgetD s.coh.acts fn.val {}).busy = false ∧ mget s.que.ctxs (fld v 0 12) = some x ∧ x.fn =
    fn.val ∧ slotGen s.que.ctxSlots (fld v 0 12) = fld v 32 32 ∧ (va % 4096 ≠ 0 ∨ hostHalf va = true)) ∧
    (∃ (s : State) (pg : BitVec 32) (f : Flip), (s.coh.flips.find? fun f => f.page == pg.toNat) = some f ∧ pageLines pg.toNat
    s ≠ []) ∧
    (∃ (s : State) (pg : BitVec 32) (f : Flip), (s.coh.flips.find? fun f => f.page == pg.toNat) = some f ∧ pageLines pg.toNat
    s = []) :=
  ⟨⟨w229, 512, by decide⟩,
   ⟨w184, 512, by decide⟩,
   ⟨w230, 512, by decide⟩,
   ⟨w184, 512, by decide⟩,
   ⟨w231, 0, by decide⟩,
   ⟨w232, 7, by decide⟩,
   ⟨w231, 0, by decide⟩,
   ⟨S0, 0, by decide⟩,
   ⟨w233, 7, { st := .dead, cause := 1, en := false }, by decide⟩,
   ⟨w234, 0, { st := .dead, en := true }, by decide⟩,
   ⟨w235, 0, 1 + 2^12 * 0, 7, w236, by decide⟩,
   ⟨w237, 0, 0, 7, by decide⟩,
   ⟨w237, 0, 1 + 2^12 * 3, 7, by decide⟩,
   ⟨S0, 0, 63, 1 + 8192 * 2^21 + 2^44 + 14, by decide⟩,
   ⟨w238, 0, 1, 1 + 8192 * 2^21 + 2^44 + 14, by decide⟩,
   ⟨w239, 0, 1, 2^12 + 2^13 * 3, wCtx, by decide⟩,
   ⟨w239, 0, 1, 2^32, wCtx, by decide⟩,
   ⟨w240, 0, 1, 0, wCtx, by decide⟩,
   ⟨w241, 5, { page := 5, fn := 1 }, by decide⟩,
   ⟨w242, 5, { page := 5, fn := 1 }, by decide⟩⟩

theorem witness_Reductions :
    (∃ (h : PktHdr) (s : State), InOrder 3 h s) ∧
    (∃ (env : Option Nat) (b : List Byte) (s : State), redNamed env (recOf b).id s = none) ∧
    (∃ (env : Option Nat) (b : List Byte) (id : Nat) (r : Reduction) (s : State), redNamed env (recOf b).id s = some (id, r) ∧
    (recAgrees r (recOf b) = false ∨ (recOf b).sender ∉ r.plan.children ∨ (recOf b).sender ∈ (chunkOf r (recOf b).chunk).got))
    ∧
    (∃ (env : Option Nat) (b : List Byte) (id : Nat) (r : Reduction) (s : State), redNamed env (recOf b).id s = some (id, r) ∧
    recAgrees r (recOf b) = true ∧ (recOf b).sender ∈ r.plan.children ∧ (recOf b).sender ∉ (chunkOf r (recOf b).chunk).got ∧
    (recOf b).failed = true) ∧
    (∃ (env : Option Nat) (b : List Byte) (id : Nat) (r : Reduction) (s : State), let k := (recOf b).chunk;
    let t := if slotTick r k + 8 ≤ tick s then setEvent rCIS_EVENT 0 (countFn ((mget s.que.ctxs r.ctx).map (·.fn) |>.getD 0) 15 1 (modRed id (fun r => { r with late := r.late + 1 }) (modChunk id k (fun c => { c with late := true }) (modCis (fun c => { c with late := satAdd 32 c.late 1 }) s)))) else s;
    let u := modChunk id k (addRecord r (recOf b)) (countOperands ((elemLanes id r k 0 (recOf b).elements t).zip (recBits r (recOf b))) t);
    let spill := overflown id k s < overflown id k u; redNamed env (recOf b).id s = some (id, r) ∧ recAgrees r (recOf b) =
    true ∧ (recOf b).sender ∈ r.plan.children ∧ (recOf b).sender ∉ (chunkOf r (recOf b).chunk).got ∧ (recOf b).failed = false
    ∧ ¬ spill) ∧
    (∃ (env : Option Nat) (b : List Byte) (id : Nat) (r : Reduction) (s : State), let k := (recOf b).chunk;
    let t := if slotTick r k + 8 ≤ tick s then setEvent rCIS_EVENT 0 (countFn ((mget s.que.ctxs r.ctx).map (·.fn) |>.getD 0) 15 1 (modRed id (fun r => { r with late := r.late + 1 }) (modChunk id k (fun c => { c with late := true }) (modCis (fun c => { c with late := satAdd 32 c.late 1 }) s)))) else s;
    let u := modChunk id k (addRecord r (recOf b)) (countOperands ((elemLanes id r k 0 (recOf b).elements t).zip (recBits r (recOf b))) t);
    let spill := overflown id k s < overflown id k u; redNamed env (recOf b).id s = some (id, r) ∧ recAgrees r (recOf b) =
    true ∧ (recOf b).sender ∈ r.plan.children ∧ (recOf b).sender ∉ (chunkOf r (recOf b).chunk).got ∧ (recOf b).failed = false
    ∧ spill) ∧
    (∃ (env : Option Nat) (b : List Byte) (id : Nat) (r : Reduction) (s : State), redNamed env (recOf b).id s = some (id, r) ∧
    (recOf b).kind = 3 ∧ (recOf b).chunk < chunkCount r ∧ (recOf b).sender = r.plan.parent ∧ r.plan.all = true ∧ (chunkOf r
    (recOf b).chunk).sent = true ∧ (chunkOf r (recOf b).chunk).fin = false ∧ (recOf b).sender ∉ (chunkOf r (recOf
    b).chunk).got ∧ (recOf b).fmt = r.fmt ∧ (recOf b).op = r.op ∧ (recOf b).elements = chunkElems r (recOf b).chunk ∧ (recOf
    b).failed = true) ∧
    (∃ (env : Option Nat) (b : List Byte) (id : Nat) (r : Reduction) (s : State), redNamed env (recOf b).id s = some (id, r) ∧
    (recOf b).kind = 3 ∧ (recOf b).chunk < chunkCount r ∧ (recOf b).sender = r.plan.parent ∧ r.plan.all = true ∧ (chunkOf r
    (recOf b).chunk).sent = true ∧ (chunkOf r (recOf b).chunk).fin = false ∧ (recOf b).sender ∉ (chunkOf r (recOf
    b).chunk).got ∧ (recOf b).fmt = r.fmt ∧ (recOf b).op = r.op ∧ (recOf b).elements = chunkElems r (recOf b).chunk ∧ (recOf
    b).failed = false) ∧
    (∃ (id : Nat) (k : Nat) (r : Reduction) (s : State), mget s.cis.reds id = some r ∧ (chunkReady r k = false ∨ tick s <
    slotTick r k)) ∧
    (∃ (id : Nat) (k : Nat) (r : Reduction) (s : State), mget s.cis.reds id = some r ∧ chunkReady r k = true ∧ slotTick r k ≤
    tick s ∧ r.plan.parent ≠ 0xFFFF) ∧
    (∃ (id : Nat) (k : Nat) (r : Reduction) (s : State),
    let y := if s.time.st = .freeRun ∧ slotTick r k + 8 ≤ tick s then noteLate id k r s else s;
    let t := modChunk id k (fun c => { c with sent := true }) (sendRecord r r.plan.parent k (chunkRecord r k y) y); mget
    s.cis.reds id = some r ∧ chunkReady r k = true ∧ slotTick r k ≤ tick s ∧ r.plan.parent ≠ 0xFFFF ∧ peerSt r.plan.parent t =
    .active ∧ r.plan.all = true) ∧
    (∃ (id : Nat) (k : Nat) (r : Reduction) (s : State),
    let y := if s.time.st = .freeRun ∧ slotTick r k + 8 ≤ tick s then noteLate id k r s else s;
    let t := modChunk id k (fun c => { c with sent := true }) (sendRecord r r.plan.parent k (chunkRecord r k y) y); mget
    s.cis.reds id = some r ∧ chunkReady r k = true ∧ slotTick r k ≤ tick s ∧ r.plan.parent ≠ 0xFFFF ∧ peerSt r.plan.parent t =
    .active ∧ r.plan.all = false) ∧
    (∃ (id : Nat) (k : Nat) (r : Reduction) (s : State),
    let y := if s.time.st = .freeRun ∧ slotTick r k + 8 ≤ tick s then noteLate id k r s else s;
    let t := modChunk id k (fun c => { c with sent := true }) (sendRecord r r.plan.parent k (chunkRecord r k y) y); mget
    s.cis.reds id = some r ∧ chunkReady r k = true ∧ slotTick r k ≤ tick s ∧ r.plan.parent ≠ 0xFFFF ∧ peerSt r.plan.parent t ≠
    .active ∧ r.plan.all = true) ∧
    (∃ (id : Nat) (k : Nat) (r : Reduction) (s : State),
    let whole := (chunkOf r k).contribs = r.plan.leaves ∧ (r.ordered = true → r.op = 0 → (chunkOf r k).blocks.map (fun b => (b.1, b.2.1)) = [(0, r.plan.leaves)]);
    mget s.cis.reds id = some r ∧ chunkReady r k = true ∧ slotTick r k ≤ tick s ∧ r.plan.parent = 0xFFFF ∧ ¬ whole) ∧
    (∃ (id : Nat) (k : Nat) (r : Reduction) (s : State),
    let whole := (chunkOf r k).contribs = r.plan.leaves ∧ (r.ordered = true → r.op = 0 → (chunkOf r k).blocks.map (fun b => (b.1, b.2.1)) = [(0, r.plan.leaves)]);
    mget s.cis.reds id = some r ∧ chunkReady r k = true ∧ slotTick r k ≤ tick s ∧ r.plan.parent = 0xFFFF ∧ whole) ∧
    (∃ (id : Nat) (k : Nat) (r : Reduction) (s : State), mget s.cis.reds id = some r ∧ k < chunkCount r ∧ (chunkOf r k).failed
    = false ∧ (chunkOf r k).sent = false ∧ (chunkOf r k).got.length < r.plan.children.length ∧ slotTick r k + 8 + (if
    r.plan.lateTicks = 0 then 1000 else r.plan.lateTicks) ≤ tick s) ∧
    (∃ (id : Nat) (k : Nat) (r : Reduction) (s : State), mget s.cis.reds id = some r ∧ r.plan.children.length ≤ (chunkOf r
    k).got.length) :=
  ⟨⟨⟨0, 2, 0, 2, 5, 0, false, 0, true⟩, w243, by decide⟩,
   ⟨some 1, (toBytes 32 (8 + 2^64 * 1 + 2^68 * 2 + 2^70 + 2^72 * (2 - 1) + 2^83 * 2 + 2^128) ++ [1, 0, 0, 0, 2, 0, 0, 0]),
   w243, by decide⟩,
   ⟨some 1, (toBytes 32 (7 + 2^64 * 1 + 2^68 * 2 + 2^70 + 2^72 * (2 - 1) + 2^83 * 3 + 2^128) ++ [1, 0, 0, 0, 2, 0, 0, 0]), 4,
   ({ plan := ({ id := 7, parent := 5, outFmt := 1, firstSlot := 993, stride := 4, perSlot := 1, leaf := 0, leaves := 2, round := 0, all := true, sat := false, loc := 0, lateTicks := 0, srKey := 0, children := [2], rsvdZero := true } : Plan), fmt := 1, op := 1, ordered := false, count := 2, src := 0, dst := 0, ctx := 0, env := 1, cls := 2, chunks := [(0, { })] }
   : Reduction), w243, by decide⟩,
   ⟨some 1, (partHeader 7 0 1 2 1 2 true 2 8 1 0 0 ++ [1, 0, 0, 0, 2, 0, 0, 0]), 4,
   ({ plan := ({ id := 7, parent := 5, outFmt := 1, firstSlot := 993, stride := 4, perSlot := 1, leaf := 0, leaves := 2, round := 0, all := true, sat := false, loc := 0, lateTicks := 0, srKey := 0, children := [2], rsvdZero := true } : Plan), fmt := 1, op := 1, ordered := false, count := 2, src := 0, dst := 0, ctx := 0, env := 1, cls := 2, chunks := [(0, { })] }
   : Reduction), w243, by decide⟩,
   ⟨some 1, (partHeader 7 0 1 2 1 2 false 2 8 1 0 0 ++ [1, 0, 0, 0, 2, 0, 0, 0]), 4,
   ({ plan := ({ id := 7, parent := 5, outFmt := 1, firstSlot := 993, stride := 4, perSlot := 1, leaf := 0, leaves := 2, round := 0, all := true, sat := false, loc := 0, lateTicks := 0, srKey := 0, children := [2], rsvdZero := true } : Plan), fmt := 1, op := 1, ordered := false, count := 2, src := 0, dst := 0, ctx := 0, env := 1, cls := 2, chunks := [(0, { })] }
   : Reduction), w244, by decide +kernel⟩,
   ⟨some 1, (partHeader 7 0 1 0 0 2 false 2 8 1 0 0 ++ cxpPayload false [{ a := 2^308, nz := true }, {}]), 4,
   ({ plan := ({ id := 7, parent := 5, outFmt := 1, firstSlot := 993, stride := 4, perSlot := 1, leaf := 0, leaves := 2, round := 0, all := true, sat := false, loc := 0, lateTicks := 0, srKey := 0, children := [2], rsvdZero := true } : Plan), fmt := 1, op := 0, ordered := false, count := 2, src := 0, dst := 0, ctx := 0, env := 1, cls := 2, chunks := [(0, { accs := [{ a := 2^308, nz := true }, {}] })] }
   : Reduction), w245, by decide +kernel⟩,
   ⟨some 1, (partHeader 7 0 1 3 1 2 true 5 8 1 0 0 ++ [1, 0, 0, 0, 2, 0, 0, 0]), 4,
   ({ plan := ({ id := 7, parent := 5, outFmt := 1, firstSlot := 993, stride := 4, perSlot := 1, leaf := 0, leaves := 2, round := 0, all := true, sat := false, loc := 0, lateTicks := 0, srKey := 0, children := [2], rsvdZero := true } : Plan), fmt := 1, op := 1, ordered := false, count := 2, src := 0, dst := 0, ctx := 0, env := 1, cls := 2, chunks := [(0, { sent := true })] }
   : Reduction), w246, by decide⟩,
   ⟨some 1, (partHeader 7 0 1 3 1 2 false 5 8 1 0 0 ++ [1, 0, 0, 0, 2, 0, 0, 0]), 4,
   ({ plan := ({ id := 7, parent := 5, outFmt := 1, firstSlot := 993, stride := 4, perSlot := 1, leaf := 0, leaves := 2, round := 0, all := true, sat := false, loc := 0, lateTicks := 0, srKey := 0, children := [2], rsvdZero := true } : Plan), fmt := 1, op := 1, ordered := false, count := 2, src := 0, dst := 0, ctx := 0, env := 1, cls := 2, chunks := [(0, { sent := true })] }
   : Reduction), w246, by decide⟩,
   ⟨4, 0, ({ plan := ({ id := 7, parent := 5, outFmt := 1, firstSlot := 993, stride := 4, perSlot := 1, leaf := 0, leaves := 2, round := 0, all := true, sat := false, loc := 0, lateTicks := 0, srKey := 0, children := [2], rsvdZero := true } : Plan), fmt := 1, op := 1, ordered := false, count := 2, src := 0, dst := 0, ctx := 0, env := 1, cls := 2, chunks := [(0, { })] }
   : Reduction), w243, by decide⟩,
   ⟨4, 0, ({ plan := ({ id := 7, parent := 5, outFmt := 1, firstSlot := 993, stride := 4, perSlot := 1, leaf := 0, leaves := 2, round := 0, all := true, sat := false, loc := 0, lateTicks := 0, srKey := 0, children := [2], rsvdZero := true } : Plan), fmt := 1, op := 1, ordered := false, count := 2, src := 0, dst := 0, ctx := 0, env := 1, cls := 2, chunks := [(0, { own := true, counts := [1, 1], got := [2], native := [some 1, some 2], contribs := 2 })] }
   : Reduction), w247, by decide⟩,
   ⟨4, 0, ({ plan := ({ id := 7, parent := 2, outFmt := 1, firstSlot := 993, stride := 4, perSlot := 1, leaf := 0, leaves := 2, round := 0, all := true, sat := false, loc := 0, lateTicks := 0, srKey := 0, children := [2], rsvdZero := true } : Plan), fmt := 1, op := 1, ordered := false, count := 2, src := 0, dst := 0, ctx := 0, env := 1, cls := 2, chunks := [(0, { own := true, counts := [1, 1], got := [2], native := [some 1, some 2], contribs := 2 })] }
   : Reduction), w248, by decide⟩,
   ⟨4, 0, ({ plan := ({ id := 7, parent := 2, outFmt := 1, firstSlot := 993, stride := 4, perSlot := 1, leaf := 0, leaves := 2, round := 0, all := false, sat := false, loc := 0, lateTicks := 0, srKey := 0, children := [2], rsvdZero := true } : Plan), fmt := 1, op := 1, ordered := false, count := 2, src := 0, dst := 0, ctx := 0, env := 1, cls := 2, chunks := [(0, { own := true, counts := [1, 1], got := [2], native := [some 1, some 2], contribs := 2 })] }
   : Reduction), w249, by decide⟩,
   ⟨4, 0, ({ plan := ({ id := 7, parent := 5, outFmt := 1, firstSlot := 993, stride := 4, perSlot := 1, leaf := 0, leaves := 2, round := 0, all := true, sat := false, loc := 0, lateTicks := 0, srKey := 0, children := [2], rsvdZero := true } : Plan), fmt := 1, op := 1, ordered := false, count := 2, src := 0, dst := 0, ctx := 0, env := 1, cls := 2, chunks := [(0, { own := true, counts := [1, 1], got := [2], native := [some 1, some 2], contribs := 2 })] }
   : Reduction), w247, by decide⟩,
   ⟨4, 0, ({ plan := ({ id := 7, parent := 0xFFFF, outFmt := 1, firstSlot := 993, stride := 4, perSlot := 1, leaf := 0, leaves := 2, round := 0, all := false, sat := false, loc := 0, lateTicks := 0, srKey := 0, children := [2], rsvdZero := true } : Plan), fmt := 1, op := 1, ordered := false, count := 2, src := 0, dst := 0, ctx := 0, env := 1, cls := 2, chunks := [(0, { own := true, counts := [1, 1], got := [2], native := [some 1, some 2], contribs := 1 })] }
   : Reduction), w250, by decide⟩,
   ⟨4, 0, ({ plan := ({ id := 7, parent := 0xFFFF, outFmt := 1, firstSlot := 993, stride := 4, perSlot := 1, leaf := 0, leaves := 2, round := 0, all := false, sat := false, loc := 0, lateTicks := 0, srKey := 0, children := [2], rsvdZero := true } : Plan), fmt := 1, op := 1, ordered := false, count := 2, src := 0, dst := 0, ctx := 0, env := 1, cls := 2, chunks := [(0, { own := true, counts := [1, 1], got := [2], native := [some 1, some 2], contribs := 2 })] }
   : Reduction), w251, by decide⟩,
   ⟨4, 0, ({ plan := ({ id := 7, parent := 5, outFmt := 1, firstSlot := 0, stride := 4, perSlot := 1, leaf := 0, leaves := 2, round := 0, all := true, sat := false, loc := 0, lateTicks := 992, srKey := 0, children := [2], rsvdZero := true } : Plan), fmt := 1, op := 1, ordered := false, count := 2, src := 0, dst := 0, ctx := 0, env := 1, cls := 2, chunks := [(0, { own := true })] }
   : Reduction), w252, by decide⟩,
   ⟨4, 0, ({ plan := ({ id := 7, parent := 5, outFmt := 1, firstSlot := 993, stride := 4, perSlot := 1, leaf := 0, leaves := 2, round := 0, all := true, sat := false, loc := 0, lateTicks := 0, srKey := 0, children := [2], rsvdZero := true } : Plan), fmt := 1, op := 1, ordered := false, count := 2, src := 0, dst := 0, ctx := 0, env := 1, cls := 2, chunks := [(0, { own := true, got := [2] })] }
   : Reduction), w253, by decide⟩⟩

theorem witness_FabricPackets :
    (∃ (h : PktHdr) (pa : BitVec 57) (d : List Byte) (s : State), let t := fabArrive 3 (ceilDiv d.length 64) true h s;
    let at' := if d = [] then pa.toNat / 64 * 64 else pa.toNat; let line := if d = [] then List.replicate 64 0 else d; InOrder
    3 h s ∧ remoteCheck (pktEnv h t).1 (paLocal at') line.length 1 t = true) ∧
    (∃ (h : PktHdr) (pa : BitVec 57) (d : List Byte) (s : State), let t := fabArrive 3 (ceilDiv d.length 64) true h s;
    let at' := if d = [] then pa.toNat / 64 * 64 else pa.toNat; let line := if d = [] then List.replicate 64 0 else d; InOrder
    3 h s ∧ remoteCheck (pktEnv h t).1 (paLocal at') line.length 1 t = false) ∧
    (∃ (h : PktHdr) (pa : BitVec 57) (n : Fin 64) (s : State), let t := fabArrive 3 0 false h s;
    let len := min (64 * (n.val + 1)) (4096 - pa.toNat % 4096); InOrder 3 h s ∧ remoteCheck (pktEnv h t).1 (paLocal pa.toNat)
    len 0 t = true) ∧
    (∃ (h : PktHdr) (pa : BitVec 57) (n : Fin 64) (s : State), let t := fabArrive 3 0 false h s;
    let len := min (64 * (n.val + 1)) (4096 - pa.toNat % 4096); InOrder 3 h s ∧ remoteCheck (pktEnv h t).1 (paLocal pa.toNat)
    len 0 t = false) ∧
    (∃ (h : PktHdr) (pa : BitVec 57) (o : AtomOp) (s : State), let t := fabArrive 3 1 true h s; InOrder 3 h s ∧ remoteCheck
    (pktEnv h t).1 (paLocal pa.toNat) (atomSpan o) 2 t = true ∧ atomOk o pa.toNat = true) ∧
    (∃ (h : PktHdr) (pa : BitVec 57) (o : AtomOp) (s : State), let t := fabArrive 3 1 true h s; InOrder 3 h s ∧ remoteCheck
    (pktEnv h t).1 (paLocal pa.toNat) (atomSpan o) 2 t = true ∧ atomOk o pa.toNat = false) ∧
    (∃ (h : PktHdr) (pa : BitVec 57) (o : AtomOp) (s : State), let t := fabArrive 3 1 true h s; InOrder 3 h s ∧ remoteCheck
    (pktEnv h t).1 (paLocal pa.toNat) (atomSpan o) 2 t = false) ∧
    (∃ (h : PktHdr) (s : State), let t := fabArrive 1 1 false h s; InOrder 1 h s ∧ (pktEnv h t).1 = none) ∧
    (∃ (h : PktHdr) (d : FenceData) (s : State) (e : Nat) (st : Status), let t := fabArrive 1 1 false h s; InOrder 1 h s ∧
    (pktEnv h t).1 = some e ∧ checkHandle d.handle 4 (pktEnv h t).2 (some e) t = .fail st) ∧
    (∃ (h : PktHdr) (d : FenceData) (s : State) (e : Nat) (n : Nat), let t := fabArrive 1 1 false h s; InOrder 1 h s ∧ (pktEnv
    h t).1 = some e ∧ checkHandle d.handle 4 (pktEnv h t).2 (some e) t = .slot n) ∧
    (∃ (h : PktHdr) (q : BitVec 20) (i : Nat) (hd : W64) (val : W64) (a : Nat) (b : Nat) (c : Nat) (tm : Nat) (sg : Bool) (x :
    State) (s : State), InOrder 1 h s ∧ askedTake h.src.val 1 q.toNat (fabArrive 1 1 false h s) = (some (.fenceOp i sg hd val
    a b c tm), x)) ∧
    (∃ (h : PktHdr) (q : BitVec 20) (d : List Byte) (i : Nat) (off : Nat) (pa : Nat) (len : Nat) (x : State) (s : State),
    InOrder 2 h s ∧ askedTake h.src.val 3 q.toNat (fabArrive 2 (ceilDiv d.length 64) false h s) = (some (.read i off pa len),
    x)) ∧
    (∃ (h : PktHdr) (q : BitVec 20) (d : List Byte) (i : Nat) (off : Nat) (pa : Nat) (len : Nat) (x : State) (s : State) (st :
    Status), InOrder 2 h s ∧ askedTake h.src.val 3 q.toNat (fabArrive 2 (ceilDiv d.length 64) false h s) = (some (.read i off
    pa len), x) ∧ st ≠ .ok ∧ st ≠ .poison) ∧
    (∃ (h : PktHdr) (q : BitVec 20) (old : Option (BitVec 128)) (s : State) (i : Nat) (pa : Nat) (o : AtomOp) (x : State),
    let t := fabArrive 2 (if old.isSome then 1 else 0) false h s; InOrder 2 h s ∧ askedTake h.src.val 3 q.toNat t = (some
    (.atomic i pa o), x)) ∧
    (∃ (h : PktHdr) (q : BitVec 20) (old : Option (BitVec 128)) (s : State) (i : Nat) (pa : Nat) (o : AtomOp) (x : State) (st
    : Status), let t := fabArrive 2 (if old.isSome then 1 else 0) false h s; InOrder 2 h s ∧ askedTake h.src.val 3 q.toNat t =
    (some (.atomic i pa o), x) ∧ st ≠ .ok ∧ st ≠ .poison) ∧
    (∃ (h : PktHdr) (q : BitVec 20) (old : Option (BitVec 128)) (s : State) (i : Nat) (pa : Nat) (d : List Byte) (x : State),
    let t := fabArrive 2 (if old.isSome then 1 else 0) false h s; InOrder 2 h s ∧ askedTake h.src.val 3 q.toNat t = (some
    (.write i pa d), x)) ∧
    (∃ (h : PktHdr) (s : State), InOrder 2 h s ∧ (fpeer h.src.val s).asked = []) ∧
    (∃ (h : PktHdr) (s : State), InOrder 1 h s ∧ (fpeer h.src.val s).asked = []) ∧
    (∃ (h : PktHdr) (s : State), flUp h.link.val s = true ∧ fabAuthentic h s = true) ∧
    (∃ (h : PktHdr) (s : State), flUp h.link.val s = true ∧ fabAuthentic h s = false) ∧
    (∃ (h : PktHdr) (s : State), (frozen s = false ∨ beforeCut 3 h s = true) ∧ flUp h.link.val s = true ∧ fabAuthentic h s =
    false) ∧
    (∃ (h : PktHdr) (s : State) (m : Nat), (frozen s = false ∨ beforeCut 3 h s = true) ∧ flUp h.link.val s = true ∧
    fabAuthentic h s = true ∧ mgetD (fpeer h.src.val s).rx 3 0 = m ∧ h.eseq.toNat ≠ m ∧ (m + 2 ^ 20 - h.eseq.toNat) % 2 ^ 20 <
    2 ^ 19) ∧
    (∃ (h : PktHdr) (s : State) (m : Nat), (frozen s = false ∨ beforeCut 3 h s = true) ∧ flUp h.link.val s = true ∧
    fabAuthentic h s = true ∧ mgetD (fpeer h.src.val s).rx 3 0 = m ∧ h.eseq.toNat ≠ m ∧ 2 ^ 19 ≤ (m + 2 ^ 20 - h.eseq.toNat) %
    2 ^ 20) ∧
    (∃ (h : PktHdr) (p : FabPeer) (c : Nat), mget p.rctr (2 * h.link.val + b2n h.kepoch) = some c) :=
  ⟨⟨⟨0, 2, 0, 2, 5, 0, false, 0, true⟩, 16 * 2^30 + 2^44, [1, 2, 3], S0, by decide⟩,
   ⟨⟨0, 2, 0, 2, 5, 0, false, 0, true⟩, 40 * 2^30, [1, 2, 3], S0, by decide⟩,
   ⟨⟨0, 2, 0, 2, 5, 0, false, 0, true⟩, 16 * 2^30 + 2^44, 0, S0, by decide⟩,
   ⟨⟨0, 2, 0, 2, 5, 0, false, 0, true⟩, 32 * 2^30 + 2^44, 0, S0, by decide⟩,
   ⟨⟨0, 2, 0, 2, 5, 0, false, 0, true⟩, 16 * 2^30 + 2^44,
   ({ aop := 2, width := 4, fmt := 9, operand := 3, compare := 0, noret := false } : AtomOp), S0, by decide⟩,
   ⟨⟨0, 2, 0, 2, 5, 0, false, 0, true⟩, 16 * 2^30 + 2^44,
   ({ aop := 2, width := 5, fmt := 9, operand := 3, compare := 0, noret := false } : AtomOp), S0, by decide⟩,
   ⟨⟨0, 2, 0, 2, 5, 0, false, 0, true⟩, 2^44, ({ aop := 2, width := 4, fmt := 9, operand := 3, compare := 0, noret := false }
   : AtomOp), S0, by decide⟩,
   ⟨⟨0, 2, 0, 2, 0xFFF, 0, false, 0, true⟩, S0, by decide⟩,
   ⟨⟨0, 2, 0, 2, 5, 0, false, 0, true⟩, ⟨mkHandle 3 0 0, 9, 1, 7, true⟩, S0, 1, match checkHandle (mkHandle 3 0 0) 4 1 (some
   1) S0 with | .fail st => st | _ => .ok, by decide⟩,
   ⟨⟨0, 2, 0, 2, 5, 0, false, 0, true⟩, ⟨mkHandle 4 0 0, 9, 1, 7, true⟩, S0, 1, 0, by decide⟩,
   ⟨⟨0, 2, 0, 2, 5, 0, false, 0, true⟩, 9, 3, 0, 6, 0, 0, 0, 0, true, w254, w255, by decide⟩,
   ⟨⟨0, 2, 0, 2, 5, 0, false, 0, true⟩, 9, List.replicate 64 6, 4, 0, 5, 64, w256, w257, by decide⟩,
   ⟨⟨0, 2, 0, 2, 5, 0, false, 0, true⟩, 9, List.replicate 64 6, 4, 0, 5, 64, w258, w259, .rights, by decide⟩,
   ⟨⟨0, 2, 0, 2, 5, 0, false, 0, true⟩, 9, some 3, w260, 4, 5,
   ({ aop := 2, width := 4, fmt := 9, operand := 3, compare := 0, noret := false } : AtomOp), w261, by decide⟩,
   ⟨⟨0, 2, 0, 2, 5, 0, false, 0, true⟩, 9, none, w260, 4, 5,
   ({ aop := 2, width := 4, fmt := 9, operand := 3, compare := 0, noret := false } : AtomOp), w262, .rights, by decide⟩,
   ⟨⟨0, 2, 0, 2, 5, 0, false, 0, true⟩, 9, none, w263, 4, 5, [1, 2], w264, by decide⟩,
   ⟨⟨0, 2, 0, 2, 5, 0, false, 0, true⟩, S0, by decide⟩,
   ⟨⟨0, 2, 0, 2, 5, 0, false, 0, true⟩, S0, by decide⟩,
   ⟨⟨0, 2, 0, 2, 5, 0, false, 0, true⟩, S0, by decide⟩,
   ⟨⟨0, 2, 0, 2, 5, 0, false, 0, false⟩, S0, by decide⟩,
   ⟨⟨0, 2, 0, 2, 5, 0, false, 0, false⟩, S0, by decide⟩,
   ⟨⟨0, 2, 2, 2, 5, 0, false, 0, true⟩, w265, 3, by decide⟩,
   ⟨⟨0, 2, 4, 2, 5, 0, false, 0, true⟩, w265, 3, by decide⟩,
   ⟨⟨0, 2, 0, 2, 5, 0, false, 1, true⟩, { rctr := [(0, 7)] }, 7, by decide⟩⟩

theorem witness_FabricLinks :
    (∃ (l : FL) (s : State), (flink l.val s).st ≠ .up) ∧
    (∃ (l : FL) (s : State) (f : FrameIn), (flink l.val s).st = .up ∧ f.good = false) ∧
    (∃ (l : FL) (s : State) (f : FrameIn), (flink l.val s).st = .up ∧ f.good = true ∧ (f.idle = true ∨ f.fseq.toNat = (flink
    l.val s).rxSeq)) ∧
    (∃ (l : FL) (s : State) (f : FrameIn), (flink l.val s).st = .up ∧ f.good = true ∧ f.idle = false ∧ f.fseq.toNat ≠ (flink
    l.val s).rxSeq) ∧
    (∃ (l : FL) (s : State) (n : Nat),
    let m := if (flink l.val s).nakFor.1 = (n + 1) % 2 ^ 32 then (flink l.val s).nakFor.2 + 1 else 1; m < 3) ∧
    (∃ (l : FL) (s : State) (n : Nat),
    let m := if (flink l.val s).nakFor.1 = (n + 1) % 2 ^ 32 then (flink l.val s).nakFor.2 + 1 else 1; 3 ≤ m) ∧
    (∃ (l : FL) (s : State), (flink l.val s).st ≠ .up) ∧
    (∃ (l : FL) (s : State), (flink l.val s).st = .up) ∧
    (∃ (l : FL) (s : State), (flink l.val s).st = .up ∧ ((flink l.val s).retrainAt.filter fun t => tick s < t +
    1000000).length < regFld rFLK_CTRL 28 4 s ∧ (∀ e ∈ s.fab.peers, e.2.path ≠ some l.val)) ∧
    (∃ (l : FL) (s : State), (flink l.val s).st = .retraining ∧ regFld rFLK_CTRL 16 12 s ≤ (flink l.val s).ticks) ∧
    (∃ (l : FL) (s : State), ((flink l.val s).st ≠ .retraining ∨ (flink l.val s).ticks < regFld rFLK_CTRL 16 12 s)) ∧
    (∃ (l : FL) (s : State), ((flink l.val s).st = .training ∨ (flink l.val s).st = .initialising)) ∧
    (∃ (l : FL) (s : State), (flink l.val s).st ≠ .training ∧ (flink l.val s).st ≠ .initialising) ∧
    (∃ (l : FL) (s : State) (bad : BitVec 8), (flink l.val s).mask = 0xFF ∧ ((flink l.val s).st = .up ∨ (flink l.val s).st =
    .retraining) ∧ bad ≠ 0 ∧ bad.toNat % 16 = 0) ∧
    (∃ (l : FL) (s : State) (bad : BitVec 8), (flink l.val s).mask = 0xFF ∧ ((flink l.val s).st = .up ∨ (flink l.val s).st =
    .retraining) ∧ bad ≠ 0 ∧ bad.toNat % 16 ≠ 0 ∧ bad.toNat / 16 = 0) ∧
    (∃ (l : FL) (s : State) (bad : BitVec 8), (flink l.val s).mask = 0xFF ∧ ((flink l.val s).st = .up ∨ (flink l.val s).st =
    .retraining) ∧ bad ≠ 0 ∧ bad.toNat % 16 ≠ 0 ∧ bad.toNat / 16 ≠ 0) ∧
    (∃ (l : FL) (s : State) (bad : BitVec 8), ((flink l.val s).mask ≠ 0xFF ∨ bad = 0)) ∧
    (∃ (l : FL) (s : State), ((flink l.val s).st = .training ∨ ((flink l.val s).st = .retraining ∧ (flink l.val s).locked =
    false))) ∧
    (∃ (l : FL) (s : State) (pl : BitVec 5), ((flink l.val s).st = .initialising ∨ ((flink l.val s).st = .retraining ∧ (flink
    l.val s).locked = true)) ∧ pl.toNat = s.spl.img.planes.getD l.val 0) ∧
    (∃ (l : FL) (s : State) (pl : BitVec 5), ((flink l.val s).st = .initialising ∨ ((flink l.val s).st = .retraining ∧ (flink
    l.val s).locked = true)) ∧ pl.toNat ≠ s.spl.img.planes.getD l.val 0) ∧
    (∃ (s : State) (p : HP), mgrOpen p.val rFLK_RESTORE s = true) ∧
    (∃ (s : State) (p : HP), mgrOpen p.val rFLK_RESTORE s = false) :=
  ⟨⟨1, S0, by decide⟩,
   ⟨0, w266, ⟨[none, some 3, some 0, some 0], [], 0x9⟩, by decide⟩,
   ⟨0, w266, ⟨[some 3, some 0, some 0, some 0], [], 0x1cf8f86e00000000000000000000000000000000020040000000000000000009⟩, by
   decide +kernel⟩,
   ⟨0, w266, ⟨[some 3, some 0, some 0, some 0], [], 0xff2a13c30000000000000000000000000000000002004000000000000000000a⟩, by
   decide +kernel⟩,
   ⟨0, w266, 0, by decide⟩,
   ⟨0, w267, 4, by decide⟩,
   ⟨1, w266, by decide⟩,
   ⟨0, w266, by decide⟩,
   ⟨0, w268, by decide⟩,
   ⟨0, w269, by decide⟩,
   ⟨1, w269, by decide⟩,
   ⟨0, w270, by decide⟩,
   ⟨0, w271, by decide⟩,
   ⟨0, w271, 0x30, by decide⟩,
   ⟨0, w271, 0x03, by decide⟩,
   ⟨0, w271, 0x33, by decide⟩,
   ⟨0, S0, 0, by decide⟩,
   ⟨0, w270, by decide⟩,
   ⟨0, w272, 0, by decide⟩,
   ⟨0, w272, 1, by decide⟩,
   ⟨w273, 0, by decide⟩,
   ⟨(eS fun e => { e with mgr := [] }), 0, by decide⟩⟩

theorem witness_HellosAndSessions :
    (∃ (l : FL) (s : State), flUp l.val s = false) ∧
    (∃ (l : FL) (dom : BitVec 16) (s : State), flUp l.val s = true ∧ dom.toNat ≠ s.spl.img.domainId) ∧
    (∃ (c : Chip) (d : Nat), d ≠ c.val) ∧
    (∃ (c : Chip) (s : State), (mget s.spl.peers c.val).all (fun p => p.digest.isSome) = true) ∧
    (∃ (l : FL) (c : Chip) (dom : BitVec 16) (s : State), flUp l.val s = true ∧ dom.toNat = s.spl.img.domainId ∧ (flink l.val
    s).plane ∉ s.spl.planesExcluded ∧ c.val ≠ s.spl.chip) ∧
    (∃ (l : Nat) (c : Nat) (dg : Nat) (p : Peer) (s : State), mget s.spl.peers c = some p ∧ p.st = .active ∧ p.digest = some
    dg ∧ p.linkMask = ofBits (insNat l (bitsOf 32 p.linkMask))) ∧
    (∃ (l : FL) (s : State), flUp l.val s = true) ∧
    (∃ (l : FL) (s : State), flUp l.val s = false) ∧
    (∃ (l : FL) (s : State), flUp l.val s = false) ∧
    (∃ (l : FL) (c : Chip) (s : State), let r := flReturn l.val 0 16 s;
    let t := if s.spl.chip = 0xFFFF ∧ (linksUp s).head? = some l.val then { r with spl := { r.spl with chip := c.val } } else r;
    flUp l.val s = true ∧ t.spl.chip = 0xFFFF) ∧
    (∃ (l : FL) (c : Chip) (pl : BitVec 5) (s : State), let r := flReturn l.val 0 16 s;
    let t := if s.spl.chip = 0xFFFF ∧ (linksUp s).head? = some l.val then { r with spl := { r.spl with chip := c.val } } else r;
    flUp l.val s = true ∧ t.spl.chip ≠ 0xFFFF ∧ pl.toNat ∈ s.spl.planesExcluded) ∧
    (∃ (l : FL) (c : Chip) (pl : BitVec 5) (s : State), let r := flReturn l.val 0 16 s;
    let t := if s.spl.chip = 0xFFFF ∧ (linksUp s).head? = some l.val then { r with spl := { r.spl with chip := c.val } } else r;
    flUp l.val s = true ∧ t.spl.chip ≠ 0xFFFF ∧ t.spl.chip ≠ c.val ∧ pl.toNat ∉ s.spl.planesExcluded) ∧
    (∃ (l : FL) (c : Chip) (pl : BitVec 5) (s : State), let r := flReturn l.val 0 16 s;
    let t := if s.spl.chip = 0xFFFF ∧ (linksUp s).head? = some l.val then { r with spl := { r.spl with chip := c.val } } else r;
    flUp l.val s = true ∧ t.spl.chip = c.val ∧ pl.toNat ∉ s.spl.planesExcluded) ∧
    (∃ (l : FL) (c : Chip) (pl : BitVec 5) (s : State), flUp l.val s = true ∧ s.spl.chip ≠ 0xFFFF ∧ s.spl.chip ≠ c.val ∧
    pl.toNat ∉ s.spl.planesExcluded ∧ s.spl.peers = []) ∧
    (∃ (l : FL) (c : Chip) (pl : BitVec 5) (cs : List Chip) (s : State), flUp l.val s = true ∧ s.spl.chip ≠ 0xFFFF ∧
    s.spl.chip = c.val ∧ pl.toNat ∉ s.spl.planesExcluded ∧ chipsOn l.val s = cs.map (·.val) ∧ s.spl.peers = [] ∧ s.spl.chip ∉
    cs.map (·.val)) ∧
    (∃ (l : FL) (c : Chip) (s : State), flUp l.val s = true ∧ sessionsOpen s = true ∧ (peerSt c.val s = .seen ∨ peerSt c.val s
    = .active) ∧ ((fpeer c.val s).sess ≠ .initSent ∨ c.val ≤ s.spl.chip)) ∧
    (∃ (l : FL) (c : Chip) (s : State), flUp l.val s = true ∧ sessionsOpen s = true ∧ (peerSt c.val s = .seen ∨ peerSt c.val s
    = .active) ∧ (fpeer c.val s).sess = .initSent ∧ s.spl.chip < c.val) ∧
    (∃ (l : FL) (c : Chip) (s : State), flUp l.val s = true ∧ sessionsOpen s = true ∧ (peerSt c.val s = .seen ∨ peerSt c.val s
    = .active) ∧ (fpeer c.val s).sess = .initSent) ∧
    (∃ (l : FL) (c : Chip) (s : State), flUp l.val s = true ∧ sessionsOpen s = true ∧ (peerSt c.val s = .seen ∨ peerSt c.val s
    = .active) ∧ (fpeer c.val s).sess = .replySent) ∧
    (∃ (l : FL) (c : Chip) (s : State), flUp l.val s = true ∧ sessionsOpen s = true ∧ (peerSt c.val s = .seen ∨ peerSt c.val s
    = .active) ∧ (fpeer c.val s).sess = .finishSent) ∧
    (∃ (l : FL) (c : Chip) (s : State), flUp l.val s = true ∧ sessionsOpen s = true ∧ (peerSt c.val s = .seen ∨ peerSt c.val s
    = .active) ∧ (fpeer c.val s).sess = .established) ∧
    (∃ (c : Chip) (s : State), (fpeer c.val s).live = true) ∧
    (∃ (c : Chip) (s : State), (fpeer c.val s).live = false) ∧
    (∃ (c : Chip) (s : State) (k : Nat), (fpeer c.val s).path = some k ∧ (fpeer c.val s).unacked ≠ [] ∧ 8 ≤ (fpeer c.val
    s).wait) ∧
    (∃ (c : Chip) (s : State), ((fpeer c.val s).path = none ∨ (fpeer c.val s).unacked = [] ∨ (fpeer c.val s).wait < 8)) ∧
    (∃ (c : Chip) (s : State), peerSt c.val s = .active ∧ (fpeer c.val s).live = true ∧ (fpeer c.val s).sess = .established ∧
    ((∃ e ∈ (fpeer c.val s).ctr ++ (fpeer c.val s).rctr, 2 ^ 40 ≤ e.2) ∨ regFld rFLK_CTRL 32 32 s ≤ (fpeer c.val
    s).rekeyTicks)) ∧
    (∃ (c : Chip) (s : State), (∀ e ∈ (fpeer c.val s).ctr ++ (fpeer c.val s).rctr, e.2 < 2 ^ 40) ∧ (fpeer c.val s).rekeyTicks
    < regFld rFLK_CTRL 32 32 s) ∧
    (∃ (c : Chip) (s : State), s.spl.img.peerLostTicks ≤ (mgetD s.spl.peers c.val {}).silent) ∧
    (∃ (c : Chip) (s : State), (mgetD s.spl.peers c.val {}).silent < s.spl.img.peerLostTicks) ∧
    (∃ (c : Chip) (s : State) (p : Peer), mget s.spl.peers c.val = some p ∧ p.st = .seen ∧ frozen s = false) ∧
    (∃ (c : Chip) (s : State) (k : Nat), (fpeer c.val s).moveTo = some k ∧ (fpeer c.val s).unacked = []) ∧
    (∃ (c : Chip) (s : State), ((fpeer c.val s).moveTo = none ∨ (fpeer c.val s).unacked ≠ [])) :=
  ⟨⟨1, S0, by decide⟩,
   ⟨0, 5, S0, by decide⟩,
   ⟨2, 3, by decide⟩,
   ⟨2, S0, by decide⟩,
   ⟨0, 2, 0, S0, by decide⟩,
   ⟨0, 2, 77, { st := .active, linkMask := 1, digest := some 77 }, S0, by decide⟩,
   ⟨0, w274, by decide⟩,
   ⟨1, w274, by decide⟩,
   ⟨1, S0, by decide⟩,
   ⟨1, 3, w275, by decide⟩,
   ⟨0, 1, 3, w276, by decide⟩,
   ⟨0, 4, 0, S0, by decide⟩,
   ⟨0, 1, 0, S0, by decide⟩,
   ⟨0, 4, 3, w277, by decide⟩,
   ⟨0, 1, 3, [2, 5], w278, by decide⟩,
   ⟨0, 2, S0, by decide⟩,
   ⟨0, 2, w279, by decide⟩,
   ⟨0, 2, w279, by decide⟩,
   ⟨0, 2, w280, by decide⟩,
   ⟨0, 2, w281, by decide⟩,
   ⟨0, 2, S0, by decide⟩,
   ⟨2, S0, by decide⟩,
   ⟨2, w281, by decide⟩,
   ⟨2, w282, 0, by decide⟩,
   ⟨2, S0, by decide⟩,
   ⟨2, w283, by decide⟩,
   ⟨2, S0, by decide⟩,
   ⟨2, w284, by decide⟩,
   ⟨2, w285, by decide⟩,
   ⟨2, w286, { st := .seen, linkMask := 1, digest := some 77 }, by decide⟩,
   ⟨2, w287, 1, by decide⟩,
   ⟨2, S0, by decide⟩⟩

theorem witness_EnvelopeActions :
    (∃ (p : HP) (v : W64) (s : State), mgrOpen p.val rENV_ACTION s = true ∧ s.env.busy = false ∧ fld v 0 5 = 0) ∧
    (∃ (p : HP) (v : W64) (s : State), mgrOpen p.val rENV_ACTION s = true ∧ s.env.busy = false ∧ fld v 0 5 = 1) ∧
    (∃ (p : HP) (v : W64) (s : State), mgrOpen p.val rENV_ACTION s = true ∧ s.env.busy = false ∧ fld v 0 5 = 2) ∧
    (∃ (p : HP) (v : W64) (s : State), mgrOpen p.val rENV_ACTION s = true ∧ s.env.busy = false ∧ fld v 0 5 = 3) ∧
    (∃ (p : HP) (v : W64) (s : State), mgrOpen p.val rENV_ACTION s = true ∧ s.env.busy = false ∧ fld v 0 5 = 4) ∧
    (∃ (p : HP) (v : W64) (s : State), mgrOpen p.val rENV_ACTION s = true ∧ s.env.busy = false ∧ fld v 0 5 = 5) ∧
    (∃ (p : HP) (v : W64) (s : State), mgrOpen p.val rENV_ACTION s = true ∧ s.env.busy = false ∧ fld v 0 5 = 6) ∧
    (∃ (p : HP) (v : W64) (s : State), mgrOpen p.val rENV_ACTION s = true ∧ s.env.busy = false ∧ fld v 0 5 = 7) ∧
    (∃ (p : HP) (v : W64) (s : State), mgrOpen p.val rENV_ACTION s = true ∧ s.env.busy = false ∧ fld v 0 5 = 8) ∧
    (∃ (p : HP) (v : W64) (s : State), mgrOpen p.val rENV_ACTION s = true ∧ s.env.busy = false ∧ fld v 0 5 = 9) ∧
    (∃ (p : HP) (v : W64) (s : State), mgrOpen p.val rENV_ACTION s = true ∧ s.env.busy = false ∧ fld v 0 5 = 10) ∧
    (∃ (p : HP) (v : W64) (s : State), mgrOpen p.val rENV_ACTION s = true ∧ s.env.busy = false ∧ fld v 0 5 = 11) ∧
    (∃ (p : HP) (v : W64) (s : State), mgrOpen p.val rENV_ACTION s = true ∧ s.env.busy = false ∧ fld v 0 5 = 12) ∧
    (∃ (p : HP) (v : W64) (s : State), mgrOpen p.val rENV_ACTION s = true ∧ s.env.busy = false ∧ fld v 0 5 = 13) ∧
    (∃ (s : State), mayClassC s = true) ∧
    (∃ (v : W64) (s : State), let ahead := dist32 (fld v 32 32) (tick s); fld v 0 5 < 14 ∧ (ahead < 4 ∨ 2 ^ 31 ≤ ahead)) ∧
    (∃ (v : W64), 14 ≤ fld v 0 5) ∧
    (∃ (v : W64) (s : State), let ahead := dist32 (fld v 32 32) (tick s); 4 ≤ ahead ∧ ahead < 2 ^ 31 ∧ fld v 0 5 = 0 ∧ fld
    (regRaw rENV_ARG0 s) 0 6 ≠ 0) ∧
    (∃ (v : W64) (s : State), let ahead := dist32 (fld v 32 32) (tick s); 4 ≤ ahead ∧ ahead < 2 ^ 31 ∧ ((fld v 0 5 = 0 ∧ fld
    (regRaw rENV_ARG0 s) 0 6 = 0) ∨ fld v 0 5 = 2)) ∧
    (∃ (v : W64) (s : State), let ahead := dist32 (fld v 32 32) (tick s); 4 ≤ ahead ∧ ahead < 2 ^ 31 ∧ fld v 0 5 < 14 ∧ fld v
    0 5 ≠ 0 ∧ fld v 0 5 ≠ 2) ∧
    (∃ (d : TmplRead), d.bad = true) ∧
    (∃ (d : TmplRead) (s : State), d.bad = false ∧ mayClassC s = true) ∧
    (∃ (v : W64) (n : Nat) (tm : List Byte) (a : EnvAct) (s : State), actOf v tm s = some a ∧ n ≤ tick s) ∧
    (∃ (v : W64) (n : Nat) (tm : List Byte) (a : EnvAct) (s : State), actOf v tm s = some a ∧ tick s < n ∧ s.env.pending ≠ []
    ∧ s.env.effect ≠ n) ∧
    (∃ (v : W64) (n : Nat) (tm : List Byte) (a : EnvAct) (s : State) (st : Status), actOf v tm s = some a ∧ tick s < n ∧
    (s.env.pending = [] ∨ s.env.effect = n) ∧ actCheck (fld v 8 8) a s = some st) ∧
    (∃ (v : W64) (n : Nat) (tm : List Byte) (a : EnvAct) (s : State), actOf v tm s = some a ∧ tick s < n ∧ (s.env.pending = []
    ∨ s.env.effect = n) ∧ actCheck (fld v 8 8) a s = none) ∧
    (∃ (s : State), (s.env.pending = [] ∨ tick s < s.env.effect)) ∧
    (∃ (s : State), s.env.pending ≠ [] ∧ s.env.effect ≤ tick s) ∧
    (∃ (e : Nat) (v : Env) (s : State), mget s.env.envs e = some v) ∧
    (∃ (e : Nat) (v : Env) (s : State), mget s.env.envs e = some v) ∧
    (∃ (e : Nat) (v : Env) (s : State), mget s.env.envs e = some v) ∧
    (∃ (e : Nat) (v : Env) (s : State), mget s.env.envs e = some v) ∧
    (∃ (e : Nat) (v : Env) (s : State), mget s.env.envs e = some v ∧ v.st ≠ .ready) ∧
    (∃ (e : Nat) (v : Env) (s : State), mget s.env.envs e = some v ∧ v.st ≠ .paused ∧ v.st ≠ .pausing) ∧
    (∃ (e : Nat) (v : Env) (s : State), mget s.env.envs e = some v ∧ v.st = .ready) ∧
    (∃ (e : Nat) (v : Env) (s : State), mget s.env.envs e = some v ∧ (v.st = .paused ∨ v.st = .pausing) ∧ v.rillDue = []) ∧
    (∃ (e : Nat) (v : Env) (s : State), mget s.env.envs e = some v) ∧
    (∃ (e : Nat) (v : Env) (s : State), mget s.env.envs e = some v) :=
  ⟨⟨0, 0, S0, by decide⟩,
   ⟨0, 1, S0, by decide⟩,
   ⟨0, 2, S0, by decide⟩,
   ⟨0, 3, S0, by decide⟩,
   ⟨0, 4, S0, by decide⟩,
   ⟨0, 5, S0, by decide⟩,
   ⟨0, 6, S0, by decide⟩,
   ⟨0, 7, S0, by decide⟩,
   ⟨0, 8, S0, by decide⟩,
   ⟨0, 9, S0, by decide⟩,
   ⟨0, 10, S0, by decide⟩,
   ⟨0, 11, S0, by decide⟩,
   ⟨0, 12, S0, by decide⟩,
   ⟨0, 13, S0, by decide⟩,
   ⟨S0, by decide⟩,
   ⟨13, S0, by decide⟩,
   ⟨14 + 2^8 + 2^32 * 1004, by decide⟩,
   ⟨0 + 2^8 + 2^32 * 1004, setRaw rENV_ARG0 1 S0, by decide⟩,
   ⟨2 + 2^8 + 2^32 * 1004, S0, by decide⟩,
   ⟨10 + 2^8 + 2^32 * 1004, S0, by decide⟩,
   ⟨({ act := 2 + 2^8 + 2^32 * 1004, port := 0, effect := 1004, bad := true } : TmplRead), by decide⟩,
   ⟨({ act := 2 + 2^8 + 2^32 * 1004, port := 0, effect := 1004, bad := false } : TmplRead), S0, by decide⟩,
   ⟨10 + 2^8 + 2^32 * 1004, 1000, [], .pause, S0, by decide⟩,
   ⟨10 + 2^8 + 2^32 * 1004, 1004, [], .pause, w288, by decide⟩,
   ⟨7 + 2^8 + 2^32 * 1004, 1004, [], .memSwitch, S0, .busy, by decide⟩,
   ⟨10 + 2^8 + 2^32 * 1004, 1004, [], .pause, S0, by decide⟩,
   ⟨w289, by decide⟩,
   ⟨w290, by decide⟩,
   ⟨1, wEnv, S0, by decide⟩,
   ⟨1, { wEnv with peers := [(2, ⟨1, 2, 3⟩)] }, w291, by decide⟩,
   ⟨1, wEnv, S0, by decide⟩,
   ⟨1, { wEnv with newBase := 32, move := .mirrored }, w292, by decide⟩,
   ⟨1, { wEnv with st := .paused }, w293, by decide⟩,
   ⟨1, { wEnv with newBase := 0, lbase := 32, move := .switched }, w294, by decide⟩,
   ⟨1, wEnv, S0, by decide⟩,
   ⟨1, { wEnv with st := .paused }, w295, by decide⟩,
   ⟨1, wEnv, S0, by decide⟩,
   ⟨1, { wEnv with dirty := some { ring := 4096, k := 10, device := true, host := false } }, w296, by decide⟩⟩

theorem witness_CourseOfEnvelopes :
    (∃ (s : State) (e : EnvIx), mget s.env.envs e.val = none) ∧
    (∃ (s : State) (e : EnvIx) (v : Env), mget s.env.envs e.val = some v ∧ (v.st ≠ .creating ∨ keyLeft ⟨0, e.val + 1, some
    e.val, []⟩ s = true)) ∧
    (∃ (s : State) (e : EnvIx) (v : Env), mget s.env.envs e.val = some v ∧ v.st = .creating ∧ keyLeft ⟨0, e.val + 1, some
    e.val, []⟩ s = false) ∧
    (∃ (s : State) (e : EnvIx) (v : Env), mget s.env.envs e.val = some v ∧ (v.st ≠ .removing ∨ v.removeTicks < 2 ∨ keyLeft
    (zeroSlot (e.val + 1) (some e.val)) s = true ∨ v.coresOut ≠ [] ∨ ctxsOfEnv e.val s ≠ [])) ∧
    (∃ (s : State) (e : EnvIx) (v : Env), mget s.env.envs e.val = some v ∧ v.st = .removing ∧ 2 ≤ v.removeTicks ∧ keyLeft
    (zeroSlot (e.val + 1) (some e.val)) s = false ∧ v.coresOut = [] ∧ ctxsOfEnv e.val s = []) ∧
    (∃ (s : State) (e : EnvIx) (v : Env), mget s.env.envs e.val = some v ∧ v.move ≠ .copying) ∧
    (∃ (s : State) (e : EnvIx) (v : Env), mget s.env.envs e.val = some v ∧ v.move = .copying) ∧
    (∃ (s : State) (e : EnvIx) (v : Env), mget s.env.envs e.val = some v ∧ (v.move ≠ .switched ∨ v.rewritten = true)) ∧
    (∃ (s : State) (e : EnvIx) (v : Env), mget s.env.envs e.val = some v ∧ v.move = .switched ∧ v.rewritten = false) ∧
    (∃ (s : State) (p : HP), (mgrOpen p.val rENV_DIRTY_HEAD s = false ∨ dirtyOf (fld (selGet p.val rENV_SEL s) 0 8) s = none))
    ∧
    (∃ (s : State) (p : HP) (v : W32) (e : Nat) (d : Dirty), mgrOpen p.val rENV_DIRTY_HEAD s = true ∧ fld (selGet p.val
    rENV_SEL s) 0 8 = e ∧ dirtyOf e s = some d ∧ d.recs.length < dist32 v.toNat d.head) ∧
    (∃ (s : State) (p : HP) (v : W32) (e : Nat) (d : Dirty), mgrOpen p.val rENV_DIRTY_HEAD s = true ∧ fld (selGet p.val
    rENV_SEL s) 0 8 = e ∧ dirtyOf e s = some d ∧ dist32 v.toNat d.head ≤ d.recs.length) ∧
    (∃ (s : State) (p : HP) (v : W32), (mgrOpen p.val rKEY_CTRL s = false ∨ v.getLsbD 0 = false)) ∧
    (∃ (s : State) (p : HP) (v : W32), mgrOpen p.val rKEY_CTRL s = true ∧ v.getLsbD 0 = true ∧ (s.env.envs ≠ [] ∨ s.sluice.st
    ≠ .idle)) ∧
    (∃ (s : State) (p : HP) (v : W32), mgrOpen p.val rKEY_CTRL s = true ∧ v.getLsbD 0 = true ∧ s.env.envs = [] ∧ s.sluice.st =
    .idle ∧ s.env.zeroising = true) ∧
    (∃ (s : State) (p : HP) (v : W32), mgrOpen p.val rKEY_CTRL s = true ∧ v.getLsbD 0 = true ∧ s.env.envs = [] ∧ s.sluice.st =
    .idle ∧ s.env.zeroising = false) :=
  ⟨⟨w297, 1, by decide⟩,
   ⟨S0, 1, wEnv, by decide⟩,
   ⟨w298, 1, { wEnv with st := .creating }, by decide⟩,
   ⟨S0, 1, wEnv, by decide⟩,
   ⟨w299, 1, { wEnv with st := .removing, removeTicks := 2 }, by decide⟩,
   ⟨S0, 1, wEnv, by decide⟩,
   ⟨w300, 1, { wEnv with move := .copying, newBase := 32 }, by decide⟩,
   ⟨S0, 1, wEnv, by decide⟩,
   ⟨w301, 1, { wEnv with move := .switched, newBase := 32 }, by decide⟩,
   ⟨S0, 0, by decide⟩,
   ⟨w302, 0, 6, 1, ({ ring := 4096, k := 10, device := true, host := false, head := 3, tail := 5, logged := [1, 2], pend := [9], recs := [(false, 1), (true, 2)] }
   : Dirty), by decide⟩,
   ⟨w302, 0, 4, 1, ({ ring := 4096, k := 10, device := true, host := false, head := 3, tail := 5, logged := [1, 2], pend := [9], recs := [(false, 1), (true, 2)] }
   : Dirty), by decide⟩,
   ⟨w302, 0, 4, by decide⟩,
   ⟨S0, 0, 1, by decide⟩,
   ⟨{ S0 with env := { zeroising := true } }, 0, 1, by decide⟩,
   ⟨w303, 0, 1, by decide⟩⟩

theorem witness_FaultsAndUnits :
    (∃ (s : State) (src : Fin 1024) (c : Cause), sourceListed src.val = true ∧ c ≠ .forced ∧ s.spl.recovery = false) ∧
    (∃ (s : State) (src : Fin 1024) (c : Cause), (sourceListed src.val = false ∨ c = .forced ∨ s.spl.recovery = true)) ∧
    (∃ (s : State) (n : Fin 12), (regRaw (rWEIR_STATUS + 8 * n.val) s).toNat % 2 ^ 17 ≠ 0 ∧ (region n.val s).maxLevel < 4 ∧
    quietTicks n.val s ≤ (region n.val s).quiet) ∧
    (∃ (s : State) (n : Fin 12), (regRaw (rWEIR_STATUS + 8 * n.val) s).toNat % 2 ^ 17 ≠ 0 ∧ (region n.val s).maxLevel < 4 ∧
    (region n.val s).quiet < quietTicks n.val s) ∧
    (∃ (s : State) (n : Fin 12), ((regRaw (rWEIR_STATUS + 8 * n.val) s).toNat % 2 ^ 17 = 0 ∨ 4 ≤ (region n.val s).maxLevel)) ∧
    (∃ (s : State) (p : HP), mgrOpen p.val rWEIR_UNIT_CTL s = true ∧ mayClassC s = true) ∧
    (∃ (s : State) (p : HP), mgrOpen p.val rWEIR_UNIT_CTL s = false) ∧
    (∃ (s : State), s.weir.unitBusy.isSome = true) ∧
    (∃ (s : State) (u : UnitSel), let k := u.kind.val; let i := u.inst.val; let spare := (unitCounts k).2; s.weir.unitBusy =
    none ∧ (unitCounts k).1 + spare ≤ i) ∧
    (∃ (s : State) (u : UnitSel), let k := u.kind.val; let i := u.inst.val; let spare := (unitCounts k).2; s.weir.unitBusy =
    none ∧ i < (unitCounts k).1 + spare ∧ mget s.weir.units (unitKey k i) = none) ∧
    (∃ (s : State) (u : UnitSel), let k := u.kind.val; let i := u.inst.val; let spare := (unitCounts k).2; s.weir.unitBusy =
    none ∧ i < (unitCounts k).1 + spare ∧ mget s.weir.units (unitKey k i) = none ∧ k = 5 ∧ (∃ m : MP, (mport m.val s).st =
    .failing)) ∧
    (∃ (s : State) (u : UnitSel), let k := u.kind.val; let i := u.inst.val; let spare := (unitCounts k).2; s.weir.unitBusy =
    none ∧ i < (unitCounts k).1 + spare ∧ mget s.weir.units (unitKey k i) = none ∧ spare ≠ 0 ∧ s.spl.img.ballastPolicy < 2 ∧ i
    < (unitCounts k).1 ∧ spareOf k s = none) ∧
    (∃ (s : State) (u : UnitSel), let k := u.kind.val; let i := u.inst.val; let spare := (unitCounts k).2; s.weir.unitBusy =
    none ∧ i < (unitCounts k).1 + spare ∧ mget s.weir.units (unitKey k i) = none ∧ (¬ (k = 5 ∧ ∃ m : MP, (mport m.val s).st =
    .failing)) ∧ (¬ (spare ≠ 0 ∧ s.spl.img.ballastPolicy < 2 ∧ i < (unitCounts k).1 ∧ spareOf k s = none))) ∧
    (∃ (s : State) (u : UnitSel) (st : UnitSt), let k := u.kind.val; let i := u.inst.val; let spare := (unitCounts k).2;
    s.weir.unitBusy = none ∧ i < (unitCounts k).1 + spare ∧ mget s.weir.units (unitKey k i) = some st) ∧
    (∃ (s : State) (u : UnitSel) (st : UnitSt), let k := u.kind.val; let i := u.inst.val; let spare := (unitCounts k).2;
    s.weir.unitBusy = none ∧ i < (unitCounts k).1 + spare ∧ mget s.weir.units (unitKey k i) = some st ∧ (st = .outOfService ∨
    st = .replaced ∨ st = .waitingSubst)) ∧
    (∃ (s : State) (u : UnitSel) (st : UnitSt), let k := u.kind.val; let i := u.inst.val; let spare := (unitCounts k).2;
    s.weir.unitBusy = none ∧ i < (unitCounts k).1 + spare ∧ mget s.weir.units (unitKey k i) = some st ∧ (st = .leaving ∨ st =
    .testing)) ∧
    (∃ (s : State) (u : UnitSel) (st : UnitSt) (b : Nat), let k := u.kind.val; let i := u.inst.val;
    let spare := (unitCounts k).2; s.weir.unitBusy = none ∧ i < (unitCounts k).1 + spare ∧ mget s.weir.units (unitKey k i) =
    some st ∧ spareOf k s = some b ∧ st = .waitingSubst) ∧
    (∃ (s : State) (u : UnitSel) (st : UnitSt), let k := u.kind.val; let i := u.inst.val; let spare := (unitCounts k).2;
    s.weir.unitBusy = none ∧ i < (unitCounts k).1 + spare ∧ mget s.weir.units (unitKey k i) = some st ∧ (spareOf k s = none ∨
    st ≠ .waitingSubst)) ∧
    (∃ (s : State) (k : Nat) (i : Nat) (o : UnitOp), s.weir.unitBusy = some (k, i, o) ∧ k = 5) ∧
    (∃ (s : State) (k : Nat) (i : Nat) (o : UnitOp), s.weir.unitBusy = some (k, i, o) ∧ k ≠ 5) ∧
    (∃ (s : State) (k : Nat) (i : Nat) (o : UnitOp), s.weir.unitBusy = some (k, i, o) ∧ k ≠ 5) ∧
    (∃ (s : State), s.weir.unitBusy = none) ∧
    (∃ (s : State) (c : Fin 17), s.spl.recovery = false ∧ mget s.weir.units (unitKey 4 c.val) = none) ∧
    (∃ (s : State) (c : Fin 17), (s.spl.recovery = true ∨ (mget s.weir.units (unitKey 4 c.val)).isSome = true)) :=
  ⟨⟨S0, 384, .linkEvent, by decide⟩,
   ⟨S0, 7, .linkEvent, by decide⟩,
   ⟨w304, 3, by decide⟩,
   ⟨w305, 3, by decide⟩,
   ⟨S0, 3, by decide⟩,
   ⟨S0, 0, by decide⟩,
   ⟨(eS fun e => { e with mgr := [] }), 0, by decide⟩,
   ⟨w306, by decide⟩,
   ⟨S0, ⟨2, 70⟩, by decide⟩,
   ⟨S0, ⟨2, 3⟩, by decide⟩,
   ⟨w307, ⟨5, 3⟩, ⟨by decide, by decide, by decide, by decide, ⟨0, by decide⟩⟩⟩,
   ⟨w308, ⟨2, 3⟩, by decide⟩,
   ⟨S0, ⟨2, 3⟩, by decide⟩,
   ⟨w309, ⟨2, 3⟩, .outOfService, by decide⟩,
   ⟨w309, ⟨2, 3⟩, .outOfService, by decide⟩,
   ⟨w310, ⟨2, 3⟩, .testing, by decide⟩,
   ⟨w311, ⟨2, 3⟩, .waitingSubst, 64, by decide⟩,
   ⟨w309, ⟨2, 3⟩, .outOfService, by decide⟩,
   ⟨w312, 5, 3, .test, by decide⟩,
   ⟨w313, 2, 3, .test, by decide⟩,
   ⟨w313, 2, 3, .test, by decide⟩,
   ⟨S0, by decide⟩,
   ⟨S0, 3, by decide⟩,
   ⟨w314, 3, by decide⟩⟩

theorem witness_SluiceStops :
    (∃ (s : State) (p : HP), mgrOpen p.val rWEIR_SLUICE_CTL s = false) ∧
    (∃ (s : State) (p : HP), mgrOpen p.val rWEIR_SLUICE_CTL s = true ∧ mayClassC s = true) ∧
    (∃ (s : State) (p : HP), mgrOpen p.val rWEIR_SLUICE_CTL s = true ∧ mayClassC s = false) ∧
    (∃ (s : State), let T := (regRaw rWEIR_SLUICE_TICK s).toNat; (T < tick s + 8 ∨ s.sluice.st ≠ .idle)) ∧
    (∃ (s : State), let T := (regRaw rWEIR_SLUICE_TICK s).toNat; tick s + 8 ≤ T ∧ s.sluice.st = .idle) ∧
    (∃ (s : State), let T := (regRaw rWEIR_SLUICE_TICK s).toNat; (s.sluice.st ≠ .held ∨ T < tick s + 8 ∨ (s.sluice.domain =
    true ∧ s.sluice.origin = false) ∨ s.weir.fatal = true)) ∧
    (∃ (s : State), let T := (regRaw rWEIR_SLUICE_TICK s).toNat; s.sluice.st = .held ∧ tick s + 8 ≤ T ∧ (s.sluice.domain =
    false ∨ s.sluice.origin = true) ∧ s.weir.fatal = false) ∧
    (∃ (s : State) (l : FL), flUp l.val s = false) ∧
    (∃ (s : State) (l : FL) (c : Chip) (T : W64), flUp l.val s = true ∧ peerSt c.val s = .active ∧ s.sluice.st = .idle ∧ tick
    s + 2 ≤ T.toNat) ∧
    (∃ (s : State) (l : FL) (c : Chip) (T : W64) (o : Chip), flUp l.val s = true ∧ peerSt c.val s = .active ∧ s.sluice.st =
    .announced ∧ s.sluice.domain = true ∧ s.sluice.tickT = T.toNat ∧ s.sluice.originChip = o.val) ∧
    (∃ (s : State) (l : FL) (c : Chip) (T : W64), flUp l.val s = true ∧ peerSt c.val s = .active ∧ s.sluice.st = .idle ∧
    T.toNat < tick s + 2) ∧
    (∃ (s : State) (l : FL) (c : Chip) (T : W64), flUp l.val s = true ∧ peerSt c.val s = .active ∧ s.sluice.origin = true ∧
    s.sluice.tickT = T.toNat ∧ c.val ∈ s.sluice.waiting) ∧
    (∃ (s : State) (l : FL) (c : Chip) (T : W64), flUp l.val s = true ∧ peerSt c.val s = .active ∧ (s.sluice.origin = false ∨
    s.sluice.tickT ≠ T.toNat ∨ c.val ∉ s.sluice.waiting)) ∧
    (∃ (s : State) (l : FL) (c : Chip) (T : W64), flUp l.val s = true ∧ peerSt c.val s = .active ∧ s.sluice.st ≠ .idle ∧
    s.sluice.domain = true ∧ s.sluice.tickT = T.toNat) ∧
    (∃ (s : State) (l : FL) (c : Chip) (T : W64), flUp l.val s = true ∧ peerSt c.val s = .active ∧ (s.sluice.st = .idle ∨
    s.sluice.domain = false ∨ s.sluice.tickT ≠ T.toNat)) ∧
    (∃ (s : State) (l : FL) (c : Chip), flUp l.val s = true ∧ peerSt c.val s = .active ∧ s.sluice.st = .held ∧ s.sluice.domain
    = true ∧ s.sluice.origin = false ∧ s.sluice.originChip = c.val ∧ s.weir.fatal = false) ∧
    (∃ (s : State) (l : FL) (c : Chip), flUp l.val s = true ∧ peerSt c.val s = .active ∧ (s.sluice.st ≠ .held ∨
    s.sluice.domain = false ∨ s.sluice.origin = true ∨ s.sluice.originChip ≠ c.val ∨ s.weir.fatal = true)) ∧
    (∃ (s : State), (s.sluice.st ≠ .capturing ∨ captureReady s = false)) ∧
    (∃ (s : State), s.sluice.st = .capturing ∧ captureReady s = true) ∧
    (∃ (s : State), s.sluice.domain = false ∧ (∀ l ∈ s.rsvr.lines, l.2.dirty = false) ∧ s.obs.auditOn = false) ∧
    (∃ (s : State), (s.sluice.st ≠ .resumePending ∨ tick s < s.sluice.tickR ∨ s.weir.fatal = true)) ∧
    (∃ (s : State), s.sluice.st = .resumePending ∧ s.sluice.tickR ≤ tick s ∧ s.weir.fatal = false) :=
  ⟨⟨(eS fun e => { e with mgr := [] }), 0, by decide⟩,
   ⟨w315, 0, by decide⟩,
   ⟨w316, 0, by decide⟩,
   ⟨S0, by decide⟩,
   ⟨setRaw rWEIR_SLUICE_TICK 1008 S0, by decide⟩,
   ⟨setRaw rWEIR_SLUICE_TICK 1008 S0, by decide⟩,
   ⟨w317, by decide⟩,
   ⟨S0, 1, by decide⟩,
   ⟨S0, 0, 2, 1002, by decide⟩,
   ⟨w318, 0, 2, 1008, 2, by decide⟩,
   ⟨S0, 0, 2, 1001, by decide⟩,
   ⟨w319, 0, 2, 1050, by decide⟩,
   ⟨w319, 0, 2, 1051, by decide⟩,
   ⟨w319, 0, 2, 1050, by decide⟩,
   ⟨S0, 0, 2, 1008, by decide⟩,
   ⟨w320, 0, 2, by decide⟩,
   ⟨w321, 0, 2, by decide⟩,
   ⟨S0, by decide⟩,
   ⟨w322, by decide⟩,
   ⟨w322, by decide⟩,
   ⟨S0, by decide⟩,
   ⟨w323, by decide⟩⟩

theorem witness_ExactSums :
    (∃ (w : Bool) (n : Bool) (m : Nat) (e : Int) (v : Int), m ≠ 0 ∧ -(accL w : Int) ≤ e ∧ v = (if n then -1 else 1) * ((m * 2
    ^ (e + accL w).toNat : Nat) : Int)) ∧
    (∃ (w : Bool) (x : Acc) (n : Bool) (m : Nat) (e : Int) (v : Int), m ≠ 0 ∧ -(accL w : Int) ≤ e ∧ v = (if n then -1 else 1)
    * ((m * 2 ^ (e + accL w).toNat : Nat) : Int) ∧ -(2 ^ accV w : Nat) ≤ x.a + v ∧ x.a + v < (2 ^ accV w : Nat)) ∧
    (∃ (w : Bool) (x : Acc) (n : Bool) (m : Nat) (e : Int) (v : Int), m ≠ 0 ∧ -(accL w : Int) ≤ e ∧ v = (if n then -1 else 1)
    * ((m * 2 ^ (e + accL w).toNat : Nat) : Int) ∧ (x.a + v < -(2 ^ accV w : Nat) ∨ ((2 ^ accV w : Nat) : Int) ≤ x.a + v)) ∧
    (∃ (w : Bool) (n : Bool) (m : Nat) (e : Int) (v : Int), m ≠ 0 ∧ -(accL w : Int) ≤ e ∧ v = (if n then -1 else 1) * ((m * 2
    ^ (e + accL w).toNat : Nat) : Int)) ∧
    (∃ (w : Bool) (x : Acc) (y : Acc), -(2 ^ accV w : Nat) ≤ x.a + y.a ∧ x.a + y.a < (2 ^ accV w : Nat)) ∧
    (∃ (w : Bool) (x : Acc) (y : Acc), (x.a + y.a < -(2 ^ accV w : Nat) ∨ ((2 ^ accV w : Nat) : Int) ≤ x.a + y.a)) ∧
    (∃ (x : Acc), x.ovf = true) ∧
    (∃ (w : Bool) (l : List Val), Addends w l ∧ l.length ≤ 2 ^ 32) ∧
    (∃ (w : Bool) (l : List Val) (k : List Val), Addends w l ∧ l.length ≤ 2 ^ 32 ∧ l.Perm k) ∧
    (∃ (w : Bool) (l : List Val) (a : List Val) (b : List Val), Addends w l ∧ l.length ≤ 2 ^ 32 ∧ l = a ++ b) :=
  ⟨⟨true, true, 3, -1, -(3 * 2 ^ (accL true - 1)), by decide +kernel⟩,
   ⟨true, { a := 5 }, true, 3, -1, -(3 * 2 ^ (accL true - 1)), by decide +kernel⟩,
   ⟨true, { a := 5 }, false, 3, (accV true : Int), 3 * 2 ^ (accL true + accV true), by decide +kernel⟩,
   ⟨true, false, 3, (accV true : Int), 3 * 2 ^ (accL true + accV true), by decide +kernel⟩,
   ⟨true, { a := 5 }, { a := -7, nz := true }, by decide +kernel⟩,
   ⟨true, { a := 2 ^ accV true - 1 }, { a := 1 }, by decide +kernel⟩,
   ⟨{ ovf := true }, by decide⟩,
   ⟨false, [decodeVal .bf16 0x3F80, decodeVal .fp16 0xFC00], ⟨addends_witness, by decide⟩⟩,
   ⟨false, [decodeVal .bf16 0x3F80, decodeVal .fp16 0xFC00], [decodeVal .fp16 0xFC00, decodeVal .bf16 0x3F80],
   ⟨addends_witness, by decide, by decide⟩⟩,
   ⟨false, [decodeVal .bf16 0x3F80, decodeVal .fp16 0xFC00], [decodeVal .bf16 0x3F80], [decodeVal .fp16 0xFC00],
   ⟨addends_witness, by decide, by decide⟩⟩⟩

theorem witness_CxpRoundTrip :
    (∃ (w : Bool) (l : List Acc), (∀ x ∈ l, -(2 ^ accV w : Nat) ≤ x.a ∧ x.a < (2 ^ accV w : Nat))) ∧
    (∃ (w : Bool) (x : Acc), x.a ≠ 0 ∧ -(2 ^ accV w : Nat) ≤ x.a ∧ x.a < (2 ^ accV w : Nat) ∧ x.nan = false ∧ x.ovf = false ∧
    x.pinf = false ∧ x.ninf = false) :=
  ⟨⟨false, [{ a := -5, nz := true }, { nan := true, pinf := true }, { mz := true }], by decide +kernel⟩,
   ⟨false, { a := -5 * 2 ^ 40, nz := true }, by decide +kernel⟩⟩

theorem witness_CompatibilityFences :
    (∃ (n : Nat) (f : Fence) (s : State) (v : W64), mget s.que.fences n = some f ∧ f.st = .live ∧ f.compat = true ∧
    f.value.toNat < 2 ^ 32 ∧ 2 ^ 32 ≤ v.toNat) ∧
    (∃ (n : Nat) (f : Fence) (s : State) (v : W64) (d : Nat), mget s.que.fences n = some f ∧ f.st = .live ∧ f.compat = true ∧
    f.value.toNat < 2 ^ 32 ∧ v.toNat < 2 ^ 32 ∧ d = (v.toNat + 2 ^ 32 - f.value.toNat) % 2 ^ 32 ∧ (d = 0 ∨ 2 ^ 31 < d)) ∧
    (∃ (n : Nat) (f : Fence) (s : State) (v : W64) (d : Nat), mget s.que.fences n = some f ∧ f.st = .live ∧ f.compat = true ∧
    f.value.toNat < 2 ^ 32 ∧ v.toNat < 2 ^ 32 ∧ d = (v.toNat + 2 ^ 32 - f.value.toNat) % 2 ^ 32 ∧ 0 < d ∧ d < 2 ^ 31) ∧
    (∃ (n : Nat) (f : Fence) (s : State) (v : W64) (d : Nat), mget s.que.fences n = some f ∧ f.st = .live ∧ f.compat = true ∧
    f.value.toNat < 2 ^ 32 ∧ v.toNat < 2 ^ 32 ∧ d = (v.toNat + 2 ^ 32 - f.value.toNat) % 2 ^ 32 ∧ d = 2 ^ 31) ∧
    (∃ (n : Nat) (f : Fence) (s : State) (w : Wait), mget s.que.fences n = some f ∧ f.st = .live ∧ f.compat = true ∧
    f.value.toNat < 2 ^ 32 ∧ w.fence = n ∧ 2 ^ 32 ≤ w.target.toNat) ∧
    (∃ (n : Nat) (f : Fence) (s : State) (w : Wait), mget s.que.fences n = some f ∧ f.st = .live ∧ f.compat = true ∧
    f.value.toNat < 2 ^ 32 ∧ w.fence = n ∧ w.target.toNat < 2 ^ 32 ∧ (f.value.toNat + 2 ^ 32 - w.target.toNat) % 2 ^ 32 < 2 ^
    31) ∧
    (∃ (n : Nat) (f : Fence) (s : State) (w : Wait), mget s.que.fences n = some f ∧ f.st = .live ∧ f.compat = true ∧
    f.value.toNat < 2 ^ 32 ∧ w.fence = n ∧ w.target.toNat < 2 ^ 32 ∧ 2 ^ 31 ≤ (f.value.toNat + 2 ^ 32 - w.target.toNat) % 2 ^
    32 ∧ (s.que.waits.filter fun e => e.2.registered).length < 65536) :=
  ⟨⟨0, { wFence with compat := true, value := 0xFFFFFFFE }, w324, 2 ^ 32, by decide⟩,
   ⟨0, { wFence with compat := true, value := 0xFFFFFFFE }, w324, 0xFFFFFFFD, 0xFFFFFFFF, by decide⟩,
   ⟨0, { wFence with compat := true, value := 0xFFFFFFFE }, w324, 3, 5, by decide⟩,
   ⟨0, { wFence with compat := true, value := 0xFFFFFFFE }, w324, 0x7FFFFFFE, 0x80000000, by decide⟩,
   ⟨0, { wFence with compat := true, value := 0xFFFFFFFE }, w324,
   ({ fence := 0, target := 2 ^ 32 + 1, who := .cmd 0, scope := 0, core := 0, engine := 0, left := none, registered := true }
   : Wait), by decide⟩,
   ⟨0, { wFence with compat := true, value := 0xFFFFFFFE }, w324,
   ({ fence := 0, target := 0xFFFFFFF0, who := .cmd 0, scope := 0, core := 0, engine := 0, left := none, registered := true }
   : Wait), by decide⟩,
   ⟨0, { wFence with compat := true, value := 0xFFFFFFFE }, w324,
   ({ fence := 0, target := 9, who := .cmd 0, scope := 0, core := 0, engine := 0, left := none, registered := true } : Wait),
   by decide⟩⟩

theorem witness_SignalsWakeWaits :
    (∃ (n : Nat) (f : Fence) (s : State), mget s.que.fences n = some f ∧ regFld rOBS_TRACE_CTL 0 1 s = 0 ∧ regFld rSYN_CHECK 0
    1 s = 0 ∧ mwf s.que.waits = true ∧ f.st = .live) ∧
    (∃ (n : Nat) (f : Fence) (s : State), mget s.que.fences n = some f ∧ regFld rOBS_TRACE_CTL 0 1 s = 0 ∧ regFld rSYN_CHECK 0
    1 s = 0 ∧ mwf s.que.waits = true ∧ (f.st = .error ∨ f.st = .exhausted)) ∧
    (∃ (n : Nat) (f : Fence) (s : State), mget s.que.fences n = some f ∧ regFld rOBS_TRACE_CTL 0 1 s = 0 ∧ regFld rSYN_CHECK 0
    1 s = 0 ∧ f.compat = false) ∧
    (∃ (n : Nat) (f : Fence) (s : State) (g : W64) (h : W64), mget s.que.fences n = some f ∧ regFld rOBS_TRACE_CTL 0 1 s = 0 ∧
    regFld rSYN_CHECK 0 1 s = 0 ∧ f.compat = false ∧ g.toNat ≤ h.toNat ∧ targetMet f h = true) ∧
    (∃ (n : Nat) (f : Fence) (s : State) (w : Wait), mget s.que.fences n = some f ∧ regFld rOBS_TRACE_CTL 0 1 s = 0 ∧ regFld
    rSYN_CHECK 0 1 s = 0 ∧ w.fence = n ∧ f.st = .live ∧ f.compat = false ∧ w.target.toNat ≤ f.value.toNat) ∧
    (∃ (n : Nat) (f : Fence) (s : State) (w : Wait), mget s.que.fences n = some f ∧ regFld rOBS_TRACE_CTL 0 1 s = 0 ∧ regFld
    rSYN_CHECK 0 1 s = 0 ∧ w.fence = n ∧ f.st = .live ∧ f.compat = false ∧ f.value.toNat < w.target.toNat ∧
    (s.que.waits.filter fun e => e.2.registered).length < 65536) ∧
    (∃ (n : Nat) (f : Fence) (s : State) (w : Wait), mget s.que.fences n = some f ∧ regFld rOBS_TRACE_CTL 0 1 s = 0 ∧ regFld
    rSYN_CHECK 0 1 s = 0 ∧ w.fence = n ∧ f.st = .live ∧ f.compat = false ∧ f.value.toNat < w.target.toNat ∧ 65536 ≤
    (s.que.waits.filter fun e => e.2.registered).length) ∧
    (∃ (n : Nat) (f : Fence) (s : State) (w : Wait), mget s.que.fences n = some f ∧ regFld rOBS_TRACE_CTL 0 1 s = 0 ∧ regFld
    rSYN_CHECK 0 1 s = 0 ∧ w.fence = n ∧ (f.st = .error ∨ f.st = .exhausted)) :=
  ⟨⟨0, wFence, w325, by decide⟩,
   ⟨0, { wFence with st := .exhausted }, w326, by decide⟩,
   ⟨0, { wFence with st := .exhausted }, w326, by decide⟩,
   ⟨0, wFence, w325, 4, 5, by decide⟩,
   ⟨0, wFence, w325, ({ fence := 0, target := 5, who := .cmd 0, scope := 0, core := 0, engine := 0, left := none, registered := true }
   : Wait), by decide⟩,
   ⟨0, wFence, w325, ({ fence := 0, target := 9, who := .cmd 0, scope := 0, core := 0, engine := 0, left := none, registered := true }
   : Wait), by decide⟩,
   ⟨0, wFence, w327, ({ fence := 0, target := 9, who := .cmd 0, scope := 0, core := 0, engine := 0, left := none, registered := true }
   : Wait), ⟨by decide, by decide, by decide, by decide, by decide, by decide, by decide, (Nat.le_of_eq (many_waits
   ({ fence := 0, target := 9, who := .cmd 0, scope := 0, core := 0, engine := 0, left := none, registered := true } : Wait)
   rfl 65536).symm)⟩⟩,
   ⟨0, { wFence with st := .error }, w328,
   ({ fence := 0, target := 9, who := .cmd 0, scope := 0, core := 0, engine := 0, left := none, registered := true } : Wait),
   by decide⟩⟩

theorem witness_ByteMemories :
    (∃ (m : Map Byte), cellsWf m = true) ∧
    (∃ (m : Map Byte) (a : Nat) (b : Nat) (d : List Byte), cellsWf m = true ∧ (b < a ∨ a + d.length ≤ b)) ∧
    (∃ (m : Map Byte), cellsWf m = true) ∧
    (∃ (m : Map Byte) (k : Map Byte), cellsWf m = true ∧ cellsWf k = true ∧ (∀ b : Nat, cellGet m b = cellGet k b)) :=
  ⟨⟨[(3, 1), (9, 2)], by decide⟩,
   ⟨[(3, 1), (9, 2)], 8, 3, [0, 0, 5], by decide⟩,
   ⟨[(3, 1), (9, 2)], by decide⟩,
   ⟨[(3, 1), (9, 2)], [(3, 1), (9, 2)], ⟨by decide, by decide, fun _ => rfl⟩⟩⟩

theorem witness_HandlesChecked :
    (∃ (ty : Nat) (i : Nat) (g : Nat), ty < 16 ∧ i < 2 ^ 24 ∧ g < 2 ^ 32) ∧
    (∃ (h : W64) (ty : Nat), ((handleOf h).rsvd ≠ 0 ∨ (handleOf h).type ≠ ty)) ∧
    (∃ (h : W64) (s : State), (handleOf h).rsvd = 0 ∧ (handleOf h).type = 3 ∧ slotGen s.que.objSlots (handleOf h).index ≠
    (handleOf h).gen) ∧
    (∃ (h : W64) (env : Option Nat) (s : State) (o : Obj), (handleOf h).rsvd = 0 ∧ (handleOf h).type = 3 ∧ slotGen
    s.que.objSlots (handleOf h).index = (handleOf h).gen ∧ (handleOf h).index ∉ s.que.objSlots.retired ∧ mget s.que.objs
    (handleOf h).index = some o ∧ some o.env ≠ env) ∧
    (∃ (h : W64) (env : Option Nat) (s : State) (o : Obj), (handleOf h).rsvd = 0 ∧ (handleOf h).type = 3 ∧ slotGen
    s.que.objSlots (handleOf h).index = (handleOf h).gen ∧ (handleOf h).index ∉ s.que.objSlots.retired ∧ mget s.que.objs
    (handleOf h).index = some o ∧ some o.env = env ∧ o.st = .live) ∧
    (∃ (h : W64) (env : Option Nat) (s : State) (o : Obj), (handleOf h).rsvd = 0 ∧ (handleOf h).type = 3 ∧ slotGen
    s.que.objSlots (handleOf h).index = (handleOf h).gen ∧ (handleOf h).index ∉ s.que.objSlots.retired ∧ mget s.que.objs
    (handleOf h).index = some o ∧ some o.env = env ∧ o.st ≠ .live) ∧
    (∃ (h : W64) (e : Nat) (s : State) (f : Fence) (x : Ctx), (handleOf h).rsvd = 0 ∧ (handleOf h).type = 4 ∧ slotGen
    s.que.fenSlots (handleOf h).index = (handleOf h).gen ∧ (handleOf h).index ∉ s.que.fenSlots.retired ∧ mget s.que.fences
    (handleOf h).index = some f ∧ mget s.que.ctxs f.ctx = some x ∧ x.env ≠ some e) ∧
    (∃ (h : W64) (e : Nat) (s : State) (f : Fence) (x : Ctx), (handleOf h).rsvd = 0 ∧ (handleOf h).type = 4 ∧ slotGen
    s.que.fenSlots (handleOf h).index = (handleOf h).gen ∧ (handleOf h).index ∉ s.que.fenSlots.retired ∧ mget s.que.fences
    (handleOf h).index = some f ∧ mget s.que.ctxs f.ctx = some x ∧ x.env = some e ∧ f.st ≠ .destroying) ∧
    (∃ (h : W64) (e : Nat) (s : State) (f : Fence) (x : Ctx), (handleOf h).rsvd = 0 ∧ (handleOf h).type = 4 ∧ slotGen
    s.que.fenSlots (handleOf h).index = (handleOf h).gen ∧ (handleOf h).index ∉ s.que.fenSlots.retired ∧ mget s.que.fences
    (handleOf h).index = some f ∧ mget s.que.ctxs f.ctx = some x ∧ x.env = some e ∧ f.st = .destroying) :=
  ⟨⟨5, 2^24 - 1, 2^32 - 1, by decide⟩,
   ⟨mkHandle 3 0 0, 4, by decide⟩,
   ⟨mkHandle 3 0 1, S0, by decide⟩,
   ⟨mkHandle 3 0 0, some 2, S0, wObj, by decide⟩,
   ⟨mkHandle 3 0 0, some 1, S0, wObj, by decide⟩,
   ⟨mkHandle 3 0 0, some 1, w329, { wObj with st := .zombie }, by decide⟩,
   ⟨mkHandle 4 0 0, 2, S0, wFence, wCtx, by decide⟩,
   ⟨mkHandle 4 0 0, 1, S0, wFence, wCtx, by decide⟩,
   ⟨mkHandle 4 0 0, 1, w330, { wFence with st := .destroying }, wCtx, by decide⟩⟩

theorem witness_ReportedCapacity :
    (∃ (p : MP) (g : BitVec 11) (s : State), (mport p.val s).st = .training ∧ g ≠ 0) ∧
    (∃ (p : MP) (s : State), (mport p.val s).st = .training) :=
  ⟨⟨3, 64, w331, by decide⟩,
   ⟨3, w331, by decide⟩⟩

theorem witness_CommandsRefused :
    (∃ (i : Instr) (q : Nat) (k : Queue) (h : CmdHdr) (b : CmdBody) (s : State) (st : Status), let c := cmdOf q k h b s;
    let t := started q k h b s; commandOf i = some (q, h, b) ∧ mget s.que.queues q = some k ∧ k.entries.length = entriesOf h b
    ∧ (∀ e ∈ k.entries, e.here = true ∧ e.badHdr = false) ∧ s.que.rung.contains q = false ∧ queueRuns k s = true ∧ (∀ e ∈
    s.que.cmds, e.2.queue ≠ q) ∧ regFld rOBS_TRACE_CTL 0 1 s = 0 ∧ c.hdr.poisonBody = false ∧ c.hdr.poisonSig = false ∧
    admitCheck c t = some st) ∧
    (∃ (i : Instr) (q : Nat) (k : Queue) (h : CmdHdr) (b : CmdBody) (s : State), let c := cmdOf q k h b s; commandOf i = some
    (q, h, b) ∧ mget s.que.queues q = some k ∧ k.entries.length = entriesOf h b ∧ (∀ e ∈ k.entries, e.here = true ∧ e.badHdr =
    false) ∧ s.que.rung.contains q = false ∧ queueRuns k s = true ∧ (∀ e ∈ s.que.cmds, e.2.queue ≠ q) ∧ regFld rOBS_TRACE_CTL
    0 1 s = 0 ∧ (c.hdr.poisonBody = true ∨ c.hdr.poisonSig = true)) ∧
    (∃ (i : Instr) (q : Nat) (k : Queue) (h : CmdHdr) (b : CmdBody) (s : State), commandOf i = some (q, h, b) ∧ mget
    s.que.queues q = some k ∧ k.entries.length = entriesOf h b ∧ (∀ e ∈ k.entries, e.here = true ∧ e.badHdr = false) ∧
    s.que.rung.contains q = false ∧ queueRuns k s = true ∧ (∀ e ∈ s.que.cmds, e.2.queue ≠ q) ∧ regFld rOBS_TRACE_CTL 0 1 s =
    0) ∧
    (∃ (c : Cmd) (s : State), let admin := (cmdCtx c s).isNone; opcodeOk admin c.body = false) ∧
    (∃ (c : Cmd) (s : State), let admin := (cmdCtx c s).isNone;
    let sig := if c.hdr.sigFence = 0 then [] else [(c.hdr.sigFence, 4)]; opcodeOk admin c.body = true ∧ (c.hdr.rsvd ≠ 0 ∨
    bodyRsvd c.body = false ∨ (c.hdr.ext.val ≠ 0 ∧ isInline c.body = false) ∨ handlesForm (bodyHandles c.body ++ sig) =
    false)) ∧
    (∃ (c : Cmd) (s : State), let admin := (cmdCtx c s).isNone;
    let sig := if c.hdr.sigFence = 0 then [] else [(c.hdr.sigFence, 4)]; opcodeOk admin c.body = true ∧ c.hdr.rsvd = 0 ∧
    bodyRsvd c.body = true ∧ (c.hdr.ext.val = 0 ∨ isInline c.body = true) ∧ handlesForm (bodyHandles c.body ++ sig) = true ∧
    bodyFormat c.body = false) ∧
    (∃ (c : Cmd) (s : State), let admin := (cmdCtx c s).isNone; let fn := cmdFn c s;
    let env := if admin then (func fn s).env else cmdEnv c s;
    let sig := if c.hdr.sigFence = 0 then [] else [(c.hdr.sigFence, 4)]; opcodeOk admin c.body = true ∧ c.hdr.rsvd = 0 ∧
    bodyRsvd c.body = true ∧ (c.hdr.ext.val = 0 ∨ isInline c.body = true) ∧ handlesForm (bodyHandles c.body ++ sig) = true ∧
    bodyFormat c.body = true ∧ (4 < c.hdr.scope.val ∨ bodyFields c.hdr.ext.val c.body = false ∨ bodyBounds fn env s c.body =
    false ∨ (admin = false ∧ classOk env c.hdr.cls.val s = false))) ∧
    (∃ (c : Cmd) (s : State), let admin := (cmdCtx c s).isNone; let fn := cmdFn c s;
    let env := if admin then (func fn s).env else cmdEnv c s;
    let sig := if c.hdr.sigFence = 0 then [] else [(c.hdr.sigFence, 4)]; opcodeOk admin c.body = true ∧ c.hdr.rsvd = 0 ∧
    bodyRsvd c.body = true ∧ (c.hdr.ext.val = 0 ∨ isInline c.body = true) ∧ handlesForm (bodyHandles c.body ++ sig) = true ∧
    bodyFormat c.body = true ∧ c.hdr.scope.val ≤ 4 ∧ bodyFields c.hdr.ext.val c.body = true ∧ bodyBounds fn env s c.body =
    true ∧ (admin = true ∨ classOk env c.hdr.cls.val s = true)) ∧
    (∃ (e : Nat) (v : Env) (s : State), mget s.env.envs e = some v) ∧
    (∃ (e : Nat) (v : Env) (s : State) (n : BitVec 16) (first : BitVec 16), mget s.env.envs e = some v ∧ v.cores.length < (if
    first.toNat = 0xFFFF then n.toNat else first.toNat + n.toNat)) ∧
    (∃ (plan : W64), plan.toNat % 64 ≠ 0) ∧
    (∃ (b : CmdBody) (sig : List (W64 × Nat)) (fn : Nat) (env : Option Nat) (s : State),
    let passes (h : W64 × Nat) : Prop := (∃ n, checkHandle h.1 h.2 fn env s = .slot n) ∨ (takesZombie b = true ∧ h.2 = 3 ∧ checkHandle h.1 h.2 fn env s = .fail .revoked);
    (∀ h ∈ bodyHandles b ++ sig, passes h)) ∧
    (∃ (b : CmdBody) (sig : List (W64 × Nat)) (fn : Nat) (env : Option Nat) (s : State) (h : W64 × Nat) (l : List (W64 × Nat))
    (r : List (W64 × Nat)) (st : Status),
    let passes (h : W64 × Nat) : Prop := (∃ n, checkHandle h.1 h.2 fn env s = .slot n) ∨ (takesZombie b = true ∧ h.2 = 3 ∧ checkHandle h.1 h.2 fn env s = .fail .revoked);
    bodyHandles b ++ sig = l ++ h :: r ∧ (∀ x ∈ l, passes x) ∧ ¬ passes h ∧ checkHandle h.1 h.2 fn env s = .fail st) :=
  ⟨⟨.nop 1 wHdr 0x20, 1, wQ, wHdr, .unknown 0x20, S0, .invalidOp, by decide⟩,
   ⟨.nop 1 { wHdr with poisonBody := true } 0x20, 1, wQ, { wHdr with poisonBody := true }, .unknown 0x20, S0, by decide⟩,
   ⟨.nop 1 { wHdr with poisonBody := true } 0x20, 1, wQ, { wHdr with poisonBody := true }, .unknown 0x20, S0, by decide⟩,
   ⟨{ wCmd with queue := 1, body := .unknown 0x20 }, S0, by decide⟩,
   ⟨{ wCmd with body := .nop, hdr := { wHdr with ext := 1 } }, S0, by decide⟩,
   ⟨{ wCmd with body := .convert 0 0 1 15 1 0 0 0, hdr := { wHdr with ext := 0 } }, S0, by decide⟩,
   ⟨{ wCmd with body := .free (mkHandle 3 0 0), hdr := { wHdr with scope := 5 } }, S0, by decide⟩,
   ⟨{ wCmd with queue := 0, body := .ctxReclaim 3 }, S0, by decide⟩,
   ⟨1, wEnv, S0, by decide⟩,
   ⟨1, wEnv, S0, 3, 0xFFFF, by decide⟩,
   ⟨1, by decide⟩,
   ⟨.free (mkHandle 3 0 0), [], 1, some 1, S0, (one_mem rfl (.inl ⟨0, by decide⟩))⟩,
   ⟨.free (mkHandle 4 0 0), [], 1, some 1, S0, (mkHandle 4 0 0, 3), [], [], .invalid, ⟨by decide, (by intro x h; cases h),
   (not_passes (st := .invalid) (by decide) (by decide)), by decide⟩⟩⟩

theorem witness_RegisterReads :
    (∃ (off : Nat), off % 8 ≠ 0) ∧
    (∃ (fn : Fn) (off : Nat), fn.val ≠ 0 ∧ 0x10000 ≤ off) ∧
    (∃ (p : HP) (fn : Fn) (off : Nat) (s : State), fn.val ≠ 0 ∧ boundAt fn.val p.val s = false ∧ off ≠ 0x18) ∧
    (∃ (p : HP) (fn : Fn) (s : State), fn.val ≠ 0 ∧ boundAt fn.val p.val s = false) ∧
    (∃ (p : HP) (fn : Fn) (off : Nat) (s : State), fn.val = 0 ∧ 0x10000 ≤ off ∧ mgrPort p.val s = false) ∧
    (∃ (p : HP) (fn : Fn) (off : Nat) (s : State), fn.val = 0 ∧ 0x440 ≤ off ∧ off ≠ 0x480 ∧ off < 0x10000 ∧ mgrPort p.val s =
    false) ∧
    (∃ (fn : Fn) (off : Nat) (s : State), fn.val = 0 ∧ s.spl.recovery = true ∧ 0x400 ≤ off ∧ off ≠ 0x480 ∧ (off < 0x14000 ∨
    0x18000 ≤ off) ∧ (off < 0x44000 ∨ 0x48000 ≤ off)) ∧
    (∃ (off : Nat), 0x4C000 ≤ off ∧ off < 2 ^ 20) ∧
    (∃ (p : HP) (fn : Fn) (s : State), barOpen p.val fn.val s = true ∧ boundAt fn.val p.val s = true ∧ s.spl.recovery = false)
    ∧
    (∃ (p : HP) (fn : Fn) (s : State), barOpen p.val fn.val s = true ∧ boundAt fn.val p.val s = true ∧ s.spl.recovery = false
    ∧ barOpen p.val 0 s = true) ∧
    (∃ (p : HP) (q : HP), q ≠ p) ∧
    (∃ (x : Tlp) (p : HP) (s : State), outsideIde x p.val s = false ∧ mgrOpen p.val rQUE_CTX_SEL s = true) ∧
    (∃ (x : Tlp) (p : HP) (s : State), outsideIde x p.val s = false ∧ mgrOpen p.val rENV_ARG0 s = true) ∧
    (∃ (off : Nat), off % 8 = 0) ∧
    (∃ (size : Nat), size ≠ 4 ∧ size ≠ 8) ∧
    (∃ (off : Nat) (size : Nat), off % size ≠ 0) :=
  ⟨⟨4, by decide⟩,
   ⟨1, 0x10000, by decide⟩,
   ⟨1, 1, 0x408, w332, by decide⟩,
   ⟨1, 1, w332, by decide⟩,
   ⟨1, 0, 0x10000, w332, by decide⟩,
   ⟨1, 0, 0x440, w332, by decide⟩,
   ⟨0, 0x10000, w115, by decide⟩,
   ⟨0x4C000, by decide⟩,
   ⟨0, 1, S0, by decide⟩,
   ⟨0, 1, S0, by decide⟩,
   ⟨0, 1, by decide⟩,
   ⟨{}, 0, S0, by decide⟩,
   ⟨{}, 0, S0, by decide⟩,
   ⟨0, by decide⟩,
   ⟨2, by decide⟩,
   ⟨2, 4, by decide⟩⟩

end Sys2Proof.Tests
end

section
/-! SUPPORT. Event bits that hardware sets, and what the registers of the tether's window show of them. -/
namespace Sys2Proof.Machine

/-- A bit of a word in the terms of the library's bit tests. -/
theorem bit_eq_getLsbD (w : W64) (i : Nat) : bit w i = w.getLsbD i := by
  rw [← BitVec.testBit_toNat, Nat.testBit_eq_decide_div_mod_eq]
  rfl

/-- Hardware setting a bit leaves the register with that bit added. -/
@[simp] theorem regRaw_regSetBit_same (key i : Nat) (s : State) :
    regRaw key (regSetBit key i s) = regRaw key s ||| at' 1 i := regRaw_setRaw_same ..

/-- A bit that hardware sets reads 1 (R248). -/
theorem bit_regRaw_regSetBit {i : Nat} (h : i < 64) (key : Nat) (s : State) :
    bit (regRaw key (regSetBit key i s)) i = true := by
  rw [bit_eq_getLsbD, regRaw_regSetBit_same, at', Nat.one_mul, BitVec.getLsbD_or, BitVec.getLsbD_ofNat,
    Nat.testBit_two_pow_self]
  simp [h]

/-- No vector fires with TTH_EVENT of itself: setting an event there sets its bit and counts it (Table 10-7). -/
@[simp] theorem setEvent_tth (i : Nat) (s : State) : setEvent rTTH_EVENT i s = regSetBit rTTH_EVENT i s := rfl

end Sys2Proof.Machine
end

section
/-! SUPPORT. The parts of the tether's work at an edge: which fields of the tether each may touch. -/
namespace Sys2Proof.Machine

/-- Judging the tick's sync changes only the excluded links and the message to relay (R30, R32). -/
theorem syncJudge_time (s : State) :
    ∃ ex rl, (syncJudge s).time = { s.time with excluded := ex, relay := rl } := by
  unfold syncJudge
  split
  · exact ⟨s.time.excluded, none, rfl⟩
  · dsimp only [whenS]
    split <;> exact ⟨_, _, rfl⟩

/-- Counting the missed exchanges changes only the exchanges and their counts (R31). -/
theorem delayMissed_time (s : State) :
    ∃ m, (delayMissed s).time = { s.time with exchange := [], linkMissed := m } := by
  obtain ⟨m, hm⟩ : ∃ m, (each (mkeys s.time.exchange) (fun l s => setEvent rTTH_EVENT 5
      (modTime (fun t => { t with linkMissed := mupd t.linkMissed l 0 fun c => satAdd 8 c 1 }) s)) s).time =
      { s.time with linkMissed := m } := by
    refine each_keeps (P := fun u => ∃ m, u.time = { s.time with linkMissed := m }) _ _ ?_ ⟨_, rfl⟩
    rintro l - u ⟨m, hu⟩
    exact ⟨mupd m l 0 fun c => satAdd 8 c 1, by simp [hu]⟩
  refine ⟨m, ?_⟩
  unfold delayMissed
  rw [modTime_time, hm]

/-- Before the tether advances, the edge has changed none of the fields that the advance reads or counts. -/
theorem judged_time (s : State) : ∃ ex rl m,
    (delayMissed (syncJudge s)).time = { s.time with excluded := ex, relay := rl, exchange := [], linkMissed := m } := by
  obtain ⟨ex, rl, hj⟩ := syncJudge_time s
  obtain ⟨m, hd⟩ := delayMissed_time (syncJudge s)
  exact ⟨ex, rl, m, by rw [hd, hj]⟩

theorem judged_nextEdge (s : State) : nextEdge (delayMissed (syncJudge s)) = nextEdge s := by
  obtain ⟨ex, rl, m, h⟩ := judged_time s
  unfold nextEdge tick
  rw [h]

/-- What every edge does to the tether, a step or none: it stands at the next edge, moved by the step where one is made,
and the counts go on (R24, R38, R40). -/
theorem tetherEdge_advance (cycles : Nat) (ref10m : Bool) (s : State) :
    (tetherEdge cycles ref10m s).time.now = (if s.time.stepGo && s.time.st == .stepPending
      then nextEdge s - BitVec.ofInt 64 s.time.stepOffset else nextEdge s) ∧
    (tetherEdge cycles ref10m s).time.cycPerTick = cycles ∧
    (tetherEdge cycles ref10m s).time.noSync = (if s.time.syncThisTick then 0 else s.time.noSync + 1) ∧
    (tetherEdge cycles ref10m s).time.syncRun = (if s.time.syncThisTick then s.time.syncRun + 1 else 0) := by
  obtain ⟨ex, rl, m, h⟩ := judged_time s
  have hn := judged_nextEdge s
  unfold tetherEdge
  generalize delayMissed (syncJudge s) = u at h hn
  dsimp only
  rw [h, hn]
  dsimp only
  split <;> split <;> split <;> exact ⟨rfl, rfl, rfl, rfl⟩

/-- Growth of ERR_BOUND per tick of a state, in units of 0.05 ps (R38, R40). -/
def errGrowth : TthState → Nat
  | .holdover => 1
  | .freeRun => 40
  | .stepPending => 40
  | _ => 0

/-- Without a step, a slew and the lock, an edge lets ERR_BOUND grow by its state's rate. -/
theorem tetherEdge_errBound (cycles : Nat) (ref10m : Bool) {s : State} (hgo : s.time.stepGo = false)
    (hslew : s.time.slewTicks = none) (hst : s.time.st ≠ .locked) :
    (tetherEdge cycles ref10m s).time.errBound20 = s.time.errBound20 + errGrowth s.time.st := by
  obtain ⟨ex, rl, m, h⟩ := judged_time s
  unfold tetherEdge
  generalize delayMissed (syncJudge s) = u at h
  simp only [modTime_time, h, hgo, hslew, Bool.false_and, Bool.false_eq_true, if_false, Option.map_none,
    beq_iff_eq, reduceCtorEq, hst]
  cases s.time.st <;> rfl

/-- An edge that makes the step locks the tether and counts the step (R40; log 115). -/
theorem tetherEdge_step (cycles : Nat) (ref10m : Bool) {s : State} (hgo : s.time.stepGo = true)
    (hst : s.time.st = .stepPending) :
    (tetherEdge cycles ref10m s).time.st = .locked ∧
    (tetherEdge cycles ref10m s).time.stepCount = min (s.time.stepCount + 1) 65535 := by
  obtain ⟨ex, rl, m, h⟩ := judged_time s
  have hcond : (s.time.stepGo && s.time.st == .stepPending) = true := by simp [hgo, hst]
  unfold tetherEdge
  generalize delayMissed (syncJudge s) = u at h
  dsimp only
  rw [h]
  dsimp only
  rw [if_pos hcond]
  split <;> split <;> exact ⟨rfl, rfl⟩

/-! ### Link delays -/

/-- What a sum of stamps leaves once its first two parts are taken away. -/
theorem stamp_sub_parts (a b c : Stamp) : a + b + c - a - b = c :=
  calc a + b + c - a - b = c + b + a - a - b := by
        rw [BitVec.add_comm (a + b) c, BitVec.add_comm a b, ← BitVec.add_assoc]
    _ = c := by rw [BitVec.add_sub_cancel, BitVec.add_sub_cancel]

/-- Four stamps of an exchange that waited `d` each way give the delay `d` (R31). -/
theorem linkDelayOf_roundTrip (t1 t2 t3 : Stamp) {d : Nat} (h : d < 2 ^ 24) :
    linkDelayOf t1 t2 t3 (t1 + (t3 - t2) + BitVec.ofNat 68 (2 * d)) = d := by
  have back : (BitVec.ofNat 68 (2 * d)).toInt = 2 * d := by
    rw [BitVec.toInt_eq_toNat_of_lt (by simp; omega)]
    simp; omega
  unfold linkDelayOf
  rw [stamp_sub_parts, back, Int.mul_ediv_cancel_left _ (by decide), BitVec.ofInt_natCast, BitVec.toNat_ofNat, Nat.mod_eq_of_lt h]

/-! ### Sync -/

/-- Where the links that were heard are in service and none is excluded, all their sync may serve (R32). -/
theorem syncHeard_eq_heard {s : State} (hex : s.time.excluded = [])
    (hup : ∀ e ∈ s.time.heard, (linksUp s).contains e.1 = true) : syncHeard s = s.time.heard := by
  refine List.filter_eq_self.mpr fun e he => ?_
  rw [hex, hup e he]
  rfl

/-- Of two links heard, the lower one is the source unless the other has fewer hops (R32). -/
theorem syncSource_pair {s : State} {a b : Nat} {x y : Int × SyncMsg} (h : syncHeard s = [(a, x), (b, y)])
    (hops : x.2.hops ≤ y.2.hops) : syncSource s = some (a, x) := by
  simp [syncSource, h, Nat.not_lt.mpr hops]

/-- The links other than the source `a` that the edge excludes, of two heard (R32). -/
theorem syncJudge_pair {s : State} {a b : Nat} {x y : Int × SyncMsg} (h : syncHeard s = [(a, x), (b, y)])
    (hab : a < b) (hops : x.2.hops ≤ y.2.hops) :
    syncJudge s = whenS (disagree y.1 x.1) (regSetBit rTTH_EVENT 4) (modTime (fun t => { t with
      excluded := if disagree y.1 x.1 then insNat b t.excluded else t.excluded
      relay := some (a, x.2, mkeys t.heard) }) s) := by
  unfold syncJudge
  rw [syncSource_pair h hops, h]
  cases hd : disagree y.1 x.1 <;> simp [hd, Nat.ne_of_gt hab]

end Sys2Proof.Machine
end

section
/-! The tick edge, link delays and sync: what settles O14. -/
namespace Sys2Proof.Machine

/-! ### What the commands answer -/

/-- TICK_EDGE in the stages of Table 2-2: `e` after its first three rows, `m` after the sync and the ports' flushes. -/
theorem exec_tickEdge (cycles : BitVec 16) (ref10m : Bool) (s e m : State)
    (he : e = (if frozen s then edgeFirst cycles.toNat ref10m s else parkPieces (edgeFirst cycles.toNat ref10m s)))
    (hm : m = each (List.range 4) portTick (syncSend (if frozen e then e else bindingEdge (guaranteeEdge e)))) :
    exec (.tickEdge cycles ref10m) s = .next (errOutputs (settle (if frozen m then m else edgeWork m))) := by
  change execTickEdge cycles ref10m s = _
  rw [execTickEdge, answerAll_eq]
  rw [← he, ← hm]

/-- LINK_DELAY_EXCHANGE stamps a request on every link that is up (R31). -/
theorem exec_linkDelayExchange (ofs : BitVec 18) (s : State) : exec (.linkDelayExchange ofs) s =
    .next (errOutputs (each (linksUp s) (fun l x =>
      flSend l 0 1 (.delayReq (BitVec.ofNat 68 (s.time.now.toNat * 16 + ofs.toNat)))
        { x with time := { x.time with
          exchange := mset x.time.exchange l (BitVec.ofNat 68 (s.time.now.toNat * 16 + ofs.toNat)) } }) s)) := rfl

/-- DELAY of an exchange under way gives the link's delay and ends the exchange (R31). -/
theorem exec_delay_of_exchange {l : FL} {t1 : Stamp} {s : State} (h : mget s.time.exchange l.val = some t1)
    (t2 t3 t4 : Stamp) : exec (.delay l t2 t3 t4) s = .next (errOutputs { s with time := { s.time with
      exchange := mdel s.time.exchange l.val
      linkDelay := mset s.time.linkDelay l.val (linkDelayOf t1 t2 t3 t4) } }) := by
  change execDelay l t2 t3 t4 s = _
  unfold execDelay
  rw [h]
  rfl

/-- DELAY without an exchange under way changes nothing. -/
theorem exec_delay_of_none {l : FL} {s : State} (h : mget s.time.exchange l.val = none) (t2 t3 t4 : Stamp) :
    exec (.delay l t2 t3 t4) s = .next (errOutputs s) := by
  change execDelay l t2 t3 t4 s = _
  unfold execDelay
  rw [h]
  rfl

/-- The state in which a sync message has been kept and not yet weighed against the others of its tick. -/
def keepSync (l : Nat) (m : SyncMsg) (s : State) : State :=
  modTime (fun t => { t with heard := mset t.heard l (syncOffset l m s, m), syncThisTick := true }) s

/-- The first message of a tick is the only one kept. -/
theorem keepSync_lone {s : State} (h : s.time.heard = []) (l : Nat) (m : SyncMsg) : keepSync l m s =
    modTime (fun t => { t with heard := [(l, (syncOffset l m s, m))], syncThisTick := true }) s := by
  simp only [keepSync, modTime, h, mset]

/-- SYNC that a follower takes is kept, and the chosen link of the tick so far gives offset and hops (R32). -/
theorem exec_sync_taken {l : FL} {m : SyncMsg} {s : State} (hroot : s.time.isRoot = false)
    (hup : (linksUp s).contains l.val = true) (hdom : m.domain = s.spl.img.domainId)
    (hex : s.time.excluded.contains l.val = false) :
    exec (.sync l m) s = answer (match syncSource (keepSync l.val m s) with
      | none => keepSync l.val m s
      | some c => modTime (fun t => { t with offset := c.2.1, hops := min 7 c.2.2.hops }) (keepSync l.val m s)) := by
  change execSync l m s = _
  unfold execSync
  rw [if_neg (by simpa [hroot, hdom] using And.intro hup hex)]
  rfl

/-- SYNC of an excluded link is ignored (log 116). -/
theorem exec_sync_excluded {l : FL} {s : State} (hex : s.time.excluded.contains l.val = true) (m : SyncMsg) :
    exec (.sync l m) s = .next (errOutputs s) := by
  change execSync l m s = _
  unfold execSync
  rw [if_pos (by simp only [hex, Bool.or_true])]
  rfl

/-- A lone link's sync is the source. -/
theorem syncSource_keepSync_lone {l : Nat} {m : SyncMsg} {s : State} (hup : (linksUp s).contains l = true)
    (hex : s.time.excluded.contains l = false) (hlone : s.time.heard = []) :
    syncSource (keepSync l m s) = some (l, syncOffset l m s, m) := by
  have hheard : syncHeard (keepSync l m s) = [(l, syncOffset l m s, m)] := by
    have up : (linksUp (modTime (fun t => { t with heard := [(l, (syncOffset l m s, m))], syncThisTick := true }) s)).contains l
      = true := hup
    simp only [syncHeard, keepSync_lone hlone, modTime_time, List.filter_cons, hex, up]
    rfl
  rw [syncSource, hheard]
  rfl

/-- Whatever link is chosen, SYNC that is taken changes only what was heard, the offset and the hops. -/
theorem exec_sync_kept {l : FL} {m : SyncMsg} {s : State} (hroot : s.time.isRoot = false)
    (hup : (linksUp s).contains l.val = true) (hdom : m.domain = s.spl.img.domainId)
    (hex : s.time.excluded.contains l.val = false) :
    ∃ x : Int × Nat, exec (.sync l m) s = .next (errOutputs { s with time := { s.time with
      heard := mset s.time.heard l.val (syncOffset l.val m s, m), syncThisTick := true, offset := x.1, hops := x.2 } }) := by
  rw [exec_sync_taken hroot hup hdom hex]
  split
  · exact ⟨(s.time.offset, s.time.hops), rfl⟩
  · next c _ => exact ⟨(c.2.1, min 7 c.2.2.hops), rfl⟩

/-- SYNC on the first link heard in a tick gives the offset and the hops itself (R32). -/
theorem exec_sync_lone {l : FL} {m : SyncMsg} {s : State} (hroot : s.time.isRoot = false)
    (hup : (linksUp s).contains l.val = true) (hdom : m.domain = s.spl.img.domainId)
    (hex : s.time.excluded.contains l.val = false) (hlone : s.time.heard = []) :
    exec (.sync l m) s = .next (errOutputs { s with time := { s.time with
      heard := [(l.val, (syncOffset l.val m s, m))], syncThisTick := true,
      offset := syncOffset l.val m s, hops := min 7 m.hops } }) := by
  rw [exec_sync_taken hroot hup hdom hex, syncSource_keepSync_lone hup hex hlone, keepSync_lone hlone]
  rfl

/-- Settles O14: each command's equation, the edge's advance over the judged sync, and the two links of a tick. -/
theorem tetherClock : Obligations.TetherClock := by
  unfold Obligations.TetherClock
  refine ⟨exec_tickEdge, ?noStep, ?step, exec_linkDelayExchange, ?delay, ?roundTrip, ?sync, ?pair⟩
  case noStep =>
    intro cycles ref10m s hgo
    obtain ⟨hnow, hcyc, hno, hrun⟩ := tetherEdge_advance cycles ref10m s
    refine ⟨?_, hcyc, hno, hrun, fun hst hslew => ?_, fun hst hslew => ?_⟩
    · rw [hnow, hgo]
      rfl
    · rw [tetherEdge_errBound cycles ref10m hgo hslew (by simp [hst]), hst, errGrowth]
    · rw [tetherEdge_errBound cycles ref10m hgo hslew (by simp [hst]), hst, errGrowth]
  case step =>
    intro cycles ref10m s hgo hst
    refine ⟨?_, tetherEdge_step cycles ref10m hgo hst⟩
    rw [(tetherEdge_advance cycles ref10m s).1, hgo, hst]
    rfl
  case delay =>
    exact fun l t2 t3 t4 s => ⟨fun t1 h => exec_delay_of_exchange h t2 t3 t4, fun h => exec_delay_of_none h t2 t3 t4⟩
  case roundTrip =>
    rintro t1 t2 t3 t4 d hd - - rfl
    exact linkDelayOf_roundTrip t1 t2 t3 hd
  case sync =>
    intro l m s hroot hup hdom
    exact ⟨exec_sync_kept hroot hup hdom, exec_sync_lone hroot hup hdom, fun hex => exec_sync_excluded hex m⟩
  case pair =>
    intro a b x y s hheard hab hex hupA hupB hops
    have hall : syncHeard s = [(a, x), (b, y)] := by
      rw [syncHeard_eq_heard hex (by rw [hheard]; simpa using And.intro hupA hupB), hheard]
    rw [syncJudge_pair hall hab hops]
    refine ⟨fun hd => ?_, fun hd => ?_⟩
    · rw [hd]
      exact ⟨by simp [hex, insNat], bit_regRaw_regSetBit (by decide) ..⟩
    · rw [hd]
      exact ⟨by simp [hex], rfl⟩

end Sys2Proof.Machine
end

section
/-! Elections of the time root and its references: what settles O15. -/
namespace Sys2Proof.Machine

/-- Signing a class C record changes the audit log only. -/
theorem signC_obs (t : AuditType) (env : Nat) (payload : List W64) (s : State) :
    ∃ o, signC t env payload s = { s with obs := o } := by
  unfold signC
  split
  · exact ⟨_, rfl⟩
  · exact ⟨s.obs, rfl⟩

/-- A manager's write that class C may sign now takes effect at once (R414). -/
theorem heldWrite_of_mayClassC {s : State} (h : mayClassC s = true) (key : Nat) (v : W64) (cmd : Instr)
    (go : State → State) : heldWrite key v cmd go s = go s := by
  simp [heldWrite, classCWrite, classC, h]

/-- ELECT that the manager may write starts an election behind its record (R28). -/
theorem exec_elect {p : HP} {s : State} (hopen : mgrOpen p.val rTTH_CTRL s = true) (hmay : mayClassC s = true) :
    exec (.elect p) s = .next (errOutputs (electDo s)) := by
  change execElect p s = _
  rw [execElect, if_pos hopen, heldWrite_of_mayClassC hmay, answer_eq]

/-- What an election's end leaves in the tether, the root being `c` (R28, R29). -/
theorem finishElection_of_winner {s : State} {c : RootClaim} (h : winner s = some c) :
    (finishElection s).time.election = none ∧ (finishElection s).time.rootChip = c.chip ∧
    (finishElection s).time.rootPriority = c.priority ∧
    (finishElection s).time.isRoot = (rootCapable s && c.chip == s.spl.chip) ∧
    (s.time.isRoot = true → (finishElection s).time.now = s.time.now) := by
  unfold finishElection
  rw [h]
  dsimp only [whenS]
  have keeps : ∀ (b : Bool) (x : W64), s.time.isRoot = true →
      (if b && !s.time.isRoot && inPhase4 s && s.spl.resetCause != 1 then x else s.time.now) = s.time.now := by
    intro b x hroot
    simp [hroot]
  split <;> exact ⟨rfl, rfl, rfl, rfl, keeps _ _⟩

/-- An election's end leaves the queues, start-up and the raised errors alone. -/
theorem finishElection_frame (s : State) :
    (finishElection s).que = s.que ∧ (finishElection s).spl = s.spl ∧ (finishElection s).weir = s.weir := by
  unfold finishElection
  split
  · exact ⟨rfl, rfl, rfl⟩
  · dsimp only [whenS]
    split <;> exact ⟨rfl, rfl, rfl⟩

/-- ELECTION_COMPLETE of a running election takes its result (R28). -/
theorem exec_electionComplete {n : Nat} {s : State} (h : s.time.election = some n) :
    exec .electionComplete s = .next (errOutputs (finishElection s)) := by
  change execElectionComplete s = _
  rw [execElectionComplete, if_pos (by simp [h]), answer_eq]

/-- Without a claim an election ends and changes nothing else. -/
theorem finishElection_of_none {s : State} (h : winner s = none) :
    finishElection s = { s with time := { s.time with election := none } } := by
  unfold finishElection
  rw [h]
  rfl

/-- The tether value to which a new root of REF_QUALITY 0 advances at the 1 PPS edge: the next multiple of
16,000,000,000 (R29). -/
def ppsValue (now : W64) : W64 := BitVec.ofNat 64 (ceilDiv now.toNat 16000000000 * 16000000000)

/-- Short of the tether's end, the value at the 1 PPS edge is the least multiple that is not below the tether. -/
theorem ppsValue_spec {now : W64} (h : now.toNat + 16000000000 ≤ 2 ^ 64) :
    (ppsValue now).toNat % 16000000000 = 0 ∧ now.toNat ≤ (ppsValue now).toNat ∧
    (ppsValue now).toNat < now.toNat + 16000000000 := by
  have value : (ppsValue now).toNat = ceilDiv now.toNat 16000000000 * 16000000000 := by
    unfold ppsValue ceilDiv
    rw [BitVec.toNat_ofNat, Nat.mod_eq_of_lt]
    omega
  rw [value, ceilDiv, Nat.mul_mod_left]
  omega

/-- PPS_EDGE at a new root that waits for it (R29). -/
theorem exec_ppsEdge_of_await {s : State} (hroot : s.time.isRoot = true) (hawait : s.time.awaitPps = true) :
    exec .ppsEdge s = .next (errOutputs { s with
      port := { s.port with refPps := true }
      time := { s.time with now := ppsValue s.time.now, awaitPps := false } }) := by
  change execPpsEdge s = _
  rw [execPpsEdge, if_pos (by simp [hroot, hawait])]
  rfl

/-- PPS_EDGE elsewhere is noted only (R48). -/
theorem exec_ppsEdge_noted {s : State} (h : s.time.isRoot = false ∨ s.time.awaitPps = false) :
    exec .ppsEdge s = .next (errOutputs { s with port := { s.port with refPps := true } }) := by
  change execPpsEdge s = _
  rw [execPpsEdge, if_neg (by rcases h with h | h <;> simp [h])]
  rfl

/-- REFERENCE_ABSENT of a 1 PPS input that the root had starts an election, with a level-0 event (R48). -/
theorem exec_referenceAbsent_root {s : State} (hroot : s.time.isRoot = true) (hpps : s.port.refPps = true) :
    exec (.referenceAbsent true) s = .next (errOutputs (raise 0 .timeEvent none none 0 (startElection
      { s with port := { s.port with refPps := false } }))) := by
  change execReferenceAbsent true s = _
  simp [execReferenceAbsent, hroot, hpps, answer_eq]

/-- REFERENCE_ABSENT of the 10 MHz input at a follower marks it absent (R48). -/
theorem exec_referenceAbsent_follower {s : State} (hroot : s.time.isRoot = false) :
    exec (.referenceAbsent false) s = .next (errOutputs { s with port := { s.port with ref10m := false } }) := by
  change execReferenceAbsent false s = _
  simp [execReferenceAbsent, hroot, answer_eq]

/-- Settles O15: each command's answer, and what the end of an election leaves. -/
theorem elections : Obligations.Elections := by
  unfold Obligations.Elections
  refine ⟨?elect, ?complete, ?noClaim, ?pps, fun s => exec_ppsEdge_noted, ?absent, fun s => exec_referenceAbsent_follower⟩
  case elect =>
    intro p s hopen hmay
    obtain ⟨o, ho⟩ := signC_obs .managerConfig noEnv [BitVec.ofNat 64 rTTH_CTRL, regRaw rTTH_CTRL s, 2] s
    refine ⟨electDo s, exec_elect hopen hmay, ?_⟩
    rw [electDo, signWrite, ho]
    exact ⟨rfl, rfl, rfl, rfl⟩
  case complete =>
    intro n c s hrun hwin
    obtain ⟨hel, hchip, hprio, hroot, hnow⟩ := finishElection_of_winner hwin
    obtain ⟨hque, hspl, hweir⟩ := finishElection_frame s
    exact ⟨finishElection s, exec_electionComplete hrun, hel, hchip, hprio, hroot, hnow, hque, hspl, by rw [hweir]⟩
  case noClaim =>
    intro n s hrun hwin
    rw [exec_electionComplete hrun, finishElection_of_none hwin]
  case pps =>
    intro s hroot hawait
    exact ⟨_, exec_ppsEdge_of_await hroot hawait, rfl, rfl, ppsValue_spec⟩
  case absent =>
    intro s hroot hpps hrec
    refine ⟨_, exec_referenceAbsent_root hroot hpps, ?_⟩
    rcases raise_cases 0 .timeEvent none none 0 (startElection { s with port := { s.port with refPps := false } })
      with ⟨h, -⟩ | ⟨-, h⟩
    · exact absurd (hrec.symm.trans h) (by decide)
    · rw [h]
      exact ⟨rfl, rfl, rfl⟩

end Sys2Proof.Machine
end

section
/-! MGMT, the sensors and the test port: what settles O30. -/
namespace Sys2Proof.Machine

/-! ### MGMT -/

/-- A request that reaches the block is answered by its kind (R69). -/
theorem exec_mgmtRequest_reaches {v : MgmtVia} {s : State} (h : mgmtReaches v s = true) :
    (∀ n, exec (.mgmtRequest ⟨v, .mctpControl n⟩) s = .next (errOutputs (mgmtFree v s))) ∧
    (∀ n, exec (.mgmtRequest ⟨v, .pldmBase n⟩) s = .next (errOutputs (mgmtFree v s))) ∧
    (∀ n, exec (.mgmtRequest ⟨v, .pldmSensor n⟩) s = .next (errOutputs (match sensorRead n s with
      | some l => emit (.mgmt v mgmtOk l) s
      | none => emit (.mgmt v mgmtSensor []) s))) ∧
    (∀ n, exec (.mgmtRequest ⟨v, .pldmOther n⟩) s = .next (errOutputs (emit (.mgmt v mgmtType []) s))) ∧
    (∀ x, exec (.mgmtRequest ⟨v, .writeRootSet x⟩) s = .next (errOutputs (emit (.mgmt v mgmtOk [])
      (if s.spl.ended.contains 3 then s else setRaw rTTH_ROOT_SET x s)))) := by
  have reached : ¬ (!mgmtReaches v s) = true := by simp [h]
  have answered : ∀ m, exec (.mgmtRequest ⟨v, m⟩) s = execMgmtRequest ⟨v, m⟩ s := fun _ => rfl
  refine ⟨fun n => ?_, fun n => ?_, fun n => ?_, fun n => ?_, fun x => ?_⟩ <;>
  · rw [answered, execMgmtRequest, if_neg reached]
    rfl

/-- A message through a port whose link is down does not reach the block. -/
theorem exec_mgmtRequest_linkDown {p : Nat} {s : State} (h : linkUp p s = false) (m : MgmtReq) :
    exec (.mgmtRequest ⟨.vdm p, m⟩) s = .next (errOutputs s) := by
  change execMgmtRequest ⟨.vdm p, m⟩ s = _
  rw [execMgmtRequest, if_pos (by simp [mgmtReaches, h]), answer_eq]

/-! ### Sensors -/

/-- SENSOR_SAMPLE keeps a connected sensor's value and its tick (R70). -/
theorem exec_sensorSample (power : Bool) (n : Fin 16) (v : BitVec 16) (s : State) :
    exec (.sensorSample power n v) s = .next (errOutputs (if sensorOn power n.val s then
      putSensor power n.val ⟨if power then (v.toNat : Int) else v.toInt, tick s, false⟩ s else s)) := rfl

/-- A connected sensor whose last sample is 10,000 ticks old and that is not marked yet (R70). -/
def goesStale (power : Bool) (n : Nat) (s : State) : Bool :=
  sensorOn power n s && !(sensorRec power n s).stale && (sensorRec power n s).tick + 10000 ≤ tick s

/-- SENSOR_STALE marks such a sensor, with a level-0 event, and no other (R70). -/
theorem exec_sensorStale (power : Bool) (n : Fin 16) (s : State) :
    exec (.sensorStale power n) s = .next (errOutputs (if goesStale power n.val s then
      raise 2 .sensorStale none none (if power then 16 + n.val else n.val)
        (putSensor power n.val { sensorRec power n.val s with stale := true } s) else s)) := rfl

theorem goesStale_iff {power : Bool} {n : Nat} {s : State} : goesStale power n s = true ↔
    sensorOn power n s = true ∧ (sensorRec power n s).stale = false ∧ (sensorRec power n s).tick + 10000 ≤ tick s := by
  simp [goesStale, and_assoc]

theorem exec_sensorStale_of_goesStale {power : Bool} {n : Fin 16} {s : State} (hon : sensorOn power n.val s = true)
    (hfresh : (sensorRec power n.val s).stale = false) (hold : (sensorRec power n.val s).tick + 10000 ≤ tick s) :
    exec (.sensorStale power n) s = .next (errOutputs (
      raise 2 .sensorStale none none (if power then 16 + n.val else n.val)
        (putSensor power n.val { sensorRec power n.val s with stale := true } s))) := by
  rw [exec_sensorStale, if_pos (goesStale_iff.mpr ⟨hon, hfresh, hold⟩)]

theorem exec_sensorStale_of_not {power : Bool} {n : Fin 16} {s : State} (h : ¬ goesStale power n.val s = true) :
    exec (.sensorStale power n) s = .next (errOutputs s) := by
  rw [exec_sensorStale, if_neg h]

/-! ### The test port -/

/-- The state in which the test port has taken an instruction (R72). -/
def tapTaken (t : TapOp) (s : State) : State :=
  { s with port := { s.port with tap := t }, out := s.out ++ [.tap true] }

/-- The audit record of a refused instruction. -/
def tapAudit (c : BitVec 16) (s : State) : State :=
  auditO .tapRefused 3 0 noEnv false [BitVec.ofNat 64 c.toNat] s

/-- TAP_INSTRUCTION always takes IDCODE, BYPASS and the monitors (R72). -/
theorem exec_tapInstruction_open {t : TapOp} (h : t = .idcode ∨ t = .bypass ∨ t = .bistMonitor) (s : State) :
    exec (.tapInstruction t) s = .next (errOutputs (tapTaken t s)) := by
  rcases h with rfl | rfl | rfl <;> rfl

/-- TAP_INSTRUCTION takes an intrusive instruction in phase 1 and while no key slot holds a key (R72). -/
theorem exec_tapInstruction_taken {s : State} (h : s.spl.phase = 1 ∨ keyHeld s = false) (c : BitVec 16) :
    exec (.tapInstruction (.intrusive c)) s = .next (errOutputs (tapTaken (.intrusive c) s)) := by
  change execTapInstruction (.intrusive c) s = _
  dsimp only [execTapInstruction]
  rw [if_neg (by rcases h with h | h <;> simp [h])]
  rfl

/-- TAP_INSTRUCTION refuses it behind an audit record where a key slot holds a key after phase 1 (R72). -/
theorem exec_tapInstruction_refused {s : State} (hphase : s.spl.phase ≠ 1) (hkey : keyHeld s = true) (c : BitVec 16) :
    exec (.tapInstruction (.intrusive c)) s = .next (errOutputs (emit (.tap false) (tapAudit c s))) := by
  change execTapInstruction (.intrusive c) s = _
  dsimp only [execTapInstruction]
  rw [if_pos (by simp [hphase, hkey])]
  rfl

/-- Recording an event changes neither sensors nor the test port: at most the log, and what setting an event bit changes
(R416). -/
theorem auditO_port (t : AuditType) (actor fn env : Nat) (refused : Bool) (payload : List W64) (s : State) :
    (auditO t actor fn env refused payload s).port = s.port := by
  unfold auditO
  split
  · rfl
  · split
    · rfl
    · dsimp only
      split <;> exact (setEvent_traffic rOBS_EVENT 2 _).port

/-- Where an event of class O finds room or no log runs, recording it drives nothing and leaves the test port alone, and
a running log grows by one record (R413, R416). -/
theorem auditO_of_room {s : State} (h : AuditRoom s) (t : AuditType) (actor fn env : Nat) (refused : Bool)
    (payload : List W64) : (auditO t actor fn env refused payload s).out = s.out ∧
    (s.obs.auditOn = true → (auditO t actor fn env refused payload s).obs.auditSeq = s.obs.auditSeq + 1) := by
  unfold auditO
  rcases h with hoff | ⟨hfree, hnone⟩
  · simp [hoff]
  · simp only [hfree, hnone]
    split
    · next hoff => exact ⟨rfl, fun hon => by simp [hon] at hoff⟩
    · exact ⟨rfl, fun _ => rfl⟩

/-- Settles O30: each command's answer in its cases. -/
theorem managementPorts : Obligations.ManagementPorts := by
  unfold Obligations.ManagementPorts
  refine ⟨?sensorRead, ?otherType, fun p m s h => exec_mgmtRequest_linkDown h m, ?rootSetLate, ?rootSet, ?sampleT, ?sampleP,
    ?staleT, ?staleP, ?unconnected, ?notStale, fun t s h => exec_tapInstruction_open h s, ?tapTaken, ?tapRefused,
    ?tapRecorded⟩
  case sensorRead =>
    intro v n s h
    obtain ⟨hctl, hbase, hsensor, -, -⟩ := exec_mgmtRequest_reaches h
    refine ⟨fun l hl => ?_, fun hl => ?_, fun m hm => ⟨Config.freeWord s.free, ?_⟩⟩
    · rw [hsensor, hl]
      rfl
    · rw [hsensor, hl]
      rfl
    · rcases hm with rfl | rfl
      · exact hbase n
      · exact hctl n
  case otherType =>
    intro v n s h
    obtain ⟨-, -, -, hother, -⟩ := exec_mgmtRequest_reaches h
    exact hother n
  case rootSetLate =>
    intro v x s h hend
    obtain ⟨-, -, -, -, hroot⟩ := exec_mgmtRequest_reaches h
    rw [hroot, if_pos hend]
    rfl
  case rootSet =>
    intro v s hend
    obtain ⟨-, -, -, -, hroot⟩ := exec_mgmtRequest_reaches (v := .i3c) (s := s) rfl
    refine ⟨_, hroot v, ?_⟩
    rw [if_neg (by rw [hend]; decide)]
    exact ⟨regRaw_setRaw_same .., fun k hk => regRaw_setRaw_ne v s hk.symm, rfl, rfl⟩
  case sampleT =>
    intro n v s hon
    rw [exec_sensorSample, if_pos hon]
    rfl
  case sampleP =>
    intro n v s hon
    rw [exec_sensorSample, if_pos hon]
    rfl
  case staleT => exact fun n s => exec_sensorStale_of_goesStale
  case staleP => exact fun n s => exec_sensorStale_of_goesStale
  case unconnected =>
    intro b n v s hoff
    refine ⟨exec_sensorStale_of_not ?_, ?_⟩
    · simp [goesStale_iff, hoff]
    · rw [exec_sensorSample, if_neg (by simp [hoff])]
  case notStale =>
    intro b n s h
    refine exec_sensorStale_of_not fun hs => ?_
    obtain ⟨-, hfresh, hold⟩ := goesStale_iff.mp hs
    rcases h with h | h
    · simp [h] at hfresh
    · omega
  case tapTaken => exact fun c s h => exec_tapInstruction_taken h c
  case tapRefused =>
    exact fun c s hphase hkey => ⟨_, exec_tapInstruction_refused hphase hkey c, List.getLast?_concat .., auditO_port ..⟩
  case tapRecorded =>
    intro c s hphase hkey hroom
    obtain ⟨hout, hseq⟩ := auditO_of_room hroom .tapRefused 3 0 noEnv false [BitVec.ofNat 64 c.toNat]
    refine ⟨_, exec_tapInstruction_refused hphase hkey c, ?_, auditO_port .., hseq⟩
    rw [emit_out, tapAudit, hout]

end Sys2Proof.Machine
end

section
/-! SUPPORT. What host-bound traffic, vectors, events and trace records can change of the queues and of the endpoint. -/
namespace Sys2Proof.Machine

/-- Of the queues only contexts have changed between two states, and of the endpoint only what sending to a host
writes: ports, functions and their instances, and what waits, is pending, accumulates or has been noted for them. -/
structure HostSideOnly (s t : State) : Prop where
  que : t.que = { s.que with ctxs := t.que.ctxs }
  ep : t.ep = { s.ep with
    ports := t.ep.ports, funcs := t.ep.funcs, insts := t.ep.insts, msixPending := t.ep.msixPending, mods := t.ep.mods
    pubs := t.ep.pubs, parked := t.ep.parked, pmeOut := t.ep.pmeOut, vecThisTick := t.ep.vecThisTick }

namespace HostSideOnly

theorem refl (s : State) : HostSideOnly s s := ⟨rfl, rfl⟩

theorem trans {s t u : State} (h : HostSideOnly s t) (k : HostSideOnly t u) : HostSideOnly s u := by
  obtain ⟨hque, hep⟩ := h
  obtain ⟨kque, kep⟩ := k
  exact ⟨by rw [kque, hque], by rw [kep, hep]⟩

/-- The later change first: the state between the two is read off it, and `h` may then hold by computation. -/
theorem after {s t u : State} (k : HostSideOnly t u) (h : HostSideOnly s t) : HostSideOnly s u := h.trans k

variable {s t : State} (h : HostSideOnly s t)
include h

theorem cmds : t.que.cmds = s.que.cmds := by rw [h.que]

theorem reqs : t.que.reqs = s.que.reqs := by rw [h.que]

theorem dlmiss : t.ep.dlmiss = s.ep.dlmiss := by rw [h.ep]

end HostSideOnly

/-! ### Issue on a port -/

theorem emit_hostSide (o : Out) (s : State) : HostSideOnly s (emit o s) := ⟨rfl, rfl⟩

theorem count_hostSide (g e n k : Nat) (s : State) : HostSideOnly s (count g e n k s) := ⟨rfl, rfl⟩

theorem regSetBit_hostSide (key i : Nat) (s : State) : HostSideOnly s (regSetBit key i s) := ⟨rfl, rfl⟩

theorem modPort_hostSide (p : Nat) (f : HostPort → HostPort) (s : State) : HostSideOnly s (modPort p f s) := ⟨rfl, rfl⟩

theorem pendMsix_hostSide (fn vec : Nat) (s : State) : HostSideOnly s (pendMsix fn vec s) := ⟨rfl, rfl⟩

theorem countFn_hostSide (fn e n : Nat) (s : State) : HostSideOnly s (countFn fn e n s) := by
  unfold countFn
  dsimp only
  split
  · exact (count_hostSide ..).trans (count_hostSide ..)
  · exact count_hostSide ..

theorem exitL1_hostSide (p : Nat) (s : State) : HostSideOnly s (exitL1 p s) := by
  unfold exitL1
  refine .trans ?_ (modPort_hostSide ..)
  split
  · exact (modPort_hostSide ..).trans (emit_hostSide ..)
  · exact .refl _

theorem tell_hostSide (p : Nat) (m : HostMsg) (s : State) : HostSideOnly s (tell p m s) :=
  (exitL1_hostSide p s).trans (emit_hostSide ..)

/-- Issuing a message changes its port and its context's marks, and counts (R203, R207). -/
theorem issueNow_hostSide (p : Nat) (e : UqEntry) (s : State) : HostSideOnly s (issueNow p e s) := by
  unfold issueNow
  dsimp only
  refine .trans ?_ (emit_hostSide ..)
  have entered : ∀ f : HostPort → HostPort,
      HostSideOnly s (count 7 0 p (e.units * 64) (modPort p f (exitL1 p s))) := fun f =>
    (exitL1_hostSide p s).trans ((modPort_hostSide ..).trans (count_hostSide ..))
  have counted : ∀ t : State, HostSideOnly s t → HostSideOnly s (match e.msg with
      | .write fn _ _ d => countFn fn 3 d.length t
      | .writeEp fn _ _ d => countFn fn 3 d.length t
      | .msix fn _ _ _ => countFn fn 13 1 t
      | _ => t) := by
    intro t h
    split
    · exact h.trans (countFn_hostSide ..)
    · exact h.trans (countFn_hostSide ..)
    · exact h.trans (countFn_hostSide ..)
    · exact h
  refine counted _ ?_
  split
  · exact (entered _).trans ⟨rfl, rfl⟩
  · exact entered _

theorem issueU_hostSide (p : Nat) (e : UqEntry) (s : State) : HostSideOnly s (issueU p e s) := by
  have go : ∀ (e : UqEntry) (f : HostPort → HostPort), HostSideOnly s (issueNow p e (modPort p f s)) := fun e f =>
    (modPort_hostSide ..).trans (issueNow_hostSide ..)
  unfold issueU
  dsimp only
  split
  · split
    · exact pendMsix_hostSide ..
    · exact go ..
  · exact go ..
  · exact go ..

theorem sendU_hostSide (p : Nat) (e : UqEntry) (s : State) : HostSideOnly s (sendU p e s) := by
  unfold sendU
  split
  · exact issueU_hostSide ..
  · exact modPort_hostSide ..

/-! ### Wake events, flushes and vectors -/

/-- A wake event marks instances and ports and sends PME messages (R109). -/
theorem wake_hostSide (fn : Nat) (s : State) : HostSideOnly s (wake fn s) := by
  have noted : ∀ (c : Bool) (t : State), HostSideOnly s t →
      HostSideOnly s (if c then t else regSetBit rEPT_EVENT 17 t) := by
    intro c t h
    split
    · exact h
    · exact h.trans (regSetBit_hostSide ..)
  unfold wake
  dsimp only
  refine noted _ _ (each_keeps (P := HostSideOnly s) _ _ (fun p _ t h => h.trans (modPort_hostSide ..)) ?_)
  refine each_keeps (P := HostSideOnly s) _ _ (fun p _ t h => ?_) (.refl s)
  exact (tell_hostSide ..).after (h.trans ⟨rfl, rfl⟩)

theorem parkWake_hostSide (fn : Nat) (s : State) : HostSideOnly s (parkWake fn s) := by
  unfold parkWake
  split
  · exact .refl _
  · exact (wake_hostSide ..).after ⟨rfl, rfl⟩

theorem viaPrimary_hostSide (e : UqEntry) (s : State) : HostSideOnly s (viaPrimary e s).2 := by
  unfold viaPrimary
  split
  · exact sendU_hostSide ..
  · exact (parkWake_hostSide ..).after ⟨rfl, rfl⟩

theorem npIssue_hostSide (p : Nat) (n : NpReq) (m : HostMsg) (rank : Option Nat) (u : Nat) (s : State) :
    HostSideOnly s (npIssue p n m rank u s) := by
  unfold npIssue
  dsimp only
  split
  · exact (modPort_hostSide ..).trans (sendU_hostSide ..)
  · exact (modPort_hostSide ..).trans (issueNow_hostSide ..)

theorem flushPort_hostSide (p fn addr : Nat) (s : State) : HostSideOnly s (flushPort p fn addr s) := by
  unfold flushPort
  dsimp only
  split
  · exact .refl _
  · generalize (if usable fn p s = true then _ else _ : Nat × Nat) = target
    split
    · exact .refl _
    · exact (count_hostSide ..).trans (npIssue_hostSide ..)

theorem flushTo_hostSide (p fn seq : Nat) (s : State) : HostSideOnly s (flushTo p fn seq s) := by
  unfold flushTo
  split
  · exact .refl _
  · unfold flushWork
    split
    · exact flushPort_hostSide ..
    · exact flushPort_hostSide ..

theorem publish_hostSide (need : List (Nat × Nat)) (a : PubAct) (s : State) : HostSideOnly s (publish need a s) :=
  ⟨rfl, rfl⟩

theorem msixVia_hostSide (fn vec p : Nat) (s : State) : HostSideOnly s (msixVia fn vec p s) := by
  unfold msixVia
  dsimp only
  split
  · exact ⟨rfl, rfl⟩
  · split
    · exact (sendU_hostSide ..).after ⟨rfl, rfl⟩
    · refine (publish_hostSide ..).after (each_keeps (P := HostSideOnly s) _ _ (fun n _ t h => ?_) ⟨rfl, rfl⟩)
      split
      · exact h.trans (flushTo_hostSide ..)
      · exact h

theorem sendMsix_hostSide (fn vec : Nat) (s : State) : HostSideOnly s (sendMsix fn vec s) := by
  unfold sendMsix
  split
  · split
    · exact pendMsix_hostSide ..
    · exact msixVia_hostSide ..
  · exact (pendMsix_hostSide ..).trans (parkWake_hostSide ..)

/-- A vector that fires accumulates, or its message goes out (R249, R250). -/
theorem fire_hostSide (fn vec : Nat) (s : State) : HostSideOnly s (fire fn vec s) := by
  unfold fire
  split
  · exact .refl _
  · dsimp only
    split
    · exact (sendMsix_hostSide ..).after ⟨rfl, rfl⟩
    · exact ⟨rfl, rfl⟩

theorem setEvent_hostSide (key i : Nat) (s : State) : HostSideOnly s (setEvent key i s) := by
  refine (regSetBit_hostSide key i s).trans ?_
  unfold setEvent
  dsimp only
  split
  · exact fire_hostSide ..
  · split
    · split
      · exact .refl _
      · exact (fire_hostSide ..).after ⟨rfl, rfl⟩
    · exact .refl _

/-! ### Trace records -/

theorem tailPush_hostSide (r : TraceRec) (s : State) : HostSideOnly s (tailPush r s) := ⟨rfl, rfl⟩

theorem traceRing_hostSide (b : List Byte) (s : State) : HostSideOnly s (traceRing b s) :=
  (viaPrimary_hostSide _ s).trans ⟨rfl, rfl⟩

theorem closeGap_hostSide (s : State) : HostSideOnly s (closeGap s) := by
  unfold closeGap
  split
  · exact .refl _
  · dsimp only
    split
    · exact (tailPush_hostSide ..).after ⟨rfl, rfl⟩
    · exact (traceRing_hostSide ..).after ⟨rfl, rfl⟩

/-- A trace record is written behind a loss record, or dropped; either way nothing outside the trace changes but what
sending it changes (R406 to R408). -/
theorem traceRec_hostSide (r : TraceRec) (s : State) : HostSideOnly s (traceRec r s) := by
  have gapClosed : ∀ o, HostSideOnly s (closeGap { s with obs := o }) := fun o =>
    (closeGap_hostSide _).after ⟨rfl, rfl⟩
  unfold traceRec
  dsimp only
  split
  · exact .refl _
  · split
    · split
      · split
        · exact (gapClosed _).trans (tailPush_hostSide ..)
        · exact (gapClosed _).trans (traceRing_hostSide ..)
      · exact (setEvent_hostSide ..).after ((gapClosed _).trans ⟨rfl, rfl⟩)
    · split
      · exact ⟨rfl, rfl⟩
      · exact (setEvent_hostSide ..).after ⟨rfl, rfl⟩

theorem trace_hostSide (ty : Nat) (i : Ident) (env : Option Nat) (u : Nat) (arg : W64) (s : State) :
    HostSideOnly s (trace ty i env u arg s) := traceRec_hostSide ..

end Sys2Proof.Machine
end

section
/-! Traffic classes, admission at a resource and missed deadlines: what settles O36. -/
namespace Sys2Proof.Machine

/-! ### CLASS_WRITE -/

/-- A full write of a 64-bit register of the manager windows that reaches it takes effect with its value (R11). -/
theorem mgrTake_full_wide {p key : Nat} {d : RegDesc} {s : State} (hd : regDesc key = some d) (hwide : d.wide = true)
    (hopen : mgrOpen p key s = true) (v : W64) : mgrTake p key (.full v) s = (some v, regTook key v s) := by
  simp [mgrTake, mgrOffer, hd, hopen, regTake, hwide, takeOffer]

theorem regTook_last (key : Nat) (v : W64) (s : State) :
    ∃ l, regTook key v s = { s with reg := { s.reg with last := l } } := by
  unfold regTook
  split
  · exact ⟨_, rfl⟩
  · exact ⟨s.reg.last, rfl⟩

/-- The class registers have one descriptor, and are 64 bits wide. -/
theorem regDesc_class (n : Cls) : regDesc (rDPA_CLASS + 8 * n.val) =
    some { off := rDPA_CLASS, count := 16, wide := true, rw := 0x7FFFFFFFFFF } := by
  revert n
  decide

/-- What a class descriptor leaves in the endpoint: taken for the next edge, or refused (R194, R197). -/
def classNoted (n : Nat) (v : W64) (s : State) : EndState :=
  if classBad n v s then { s.ep with classRefused := true }
  else { s.ep with classRefused := false, classNext := mset s.ep.classNext n (v &&& 0x7FFFFFFFFFF) }

/-- CLASS_WRITE signs its record and notes the descriptor; neither the record nor the register's last value enters into
the judgement. -/
theorem classDo_eq (n : Nat) (v : W64) (s : State) :
    ∃ o, classDo n v s = { s with obs := o, ep := classNoted n v s } := by
  obtain ⟨o, ho⟩ := signC_obs .managerConfig noEnv
    [BitVec.ofNat 64 (rDPA_CLASS + 8 * n), regRaw (rDPA_CLASS + 8 * n) s, v] s
  have judged : classBad n v { s with obs := o } = classBad n v s := rfl
  refine ⟨o, ?_⟩
  rw [classDo, signWrite, ho, judged, classNoted]
  split <;> rfl

/-- A full CLASS_WRITE that the manager may make, and class C may sign now, takes effect (R414). -/
theorem exec_classWrite_full {p : HP} {n : Cls} {s : State} (hopen : mgrOpen p.val (rDPA_CLASS + 8 * n.val) s = true)
    (hmay : mayClassC s = true) (v : W64) : ∃ l o, exec (.classWrite p n (.full v)) s =
      .next (errOutputs { s with reg := { s.reg with last := l }, obs := o, ep := classNoted n.val v s }) := by
  change ∃ l o, execClassWrite p n (.full v) s = _
  obtain ⟨l, hl⟩ := regTook_last (rDPA_CLASS + 8 * n.val) v s
  obtain ⟨o, ho⟩ := classDo_eq n.val v { s with reg := { s.reg with last := l } }
  have hmay' : mayClassC (regTook (rDPA_CLASS + 8 * n.val) v s) = true := by rw [hl]; exact hmay
  refine ⟨l, o, ?_⟩
  rw [execClassWrite, mgrTake_full_wide (regDesc_class n) rfl hopen]
  dsimp only
  rw [heldWrite_of_mayClassC hmay', hl, ho]
  rfl

/-! ### PIECE_ADMISSION -/

theorem exec_pieceAdmission (res : Fin 108) (late : Bool) (s : State) : exec (.pieceAdmission res late) s =
    .next (errOutputs (settle (if frozen s then s else admitOne res.val late s))) := rfl

/-- What the class of a request lacks for its cost at a resource (R196). -/
def lackOf (res : Nat) (r : Req) (s : State) : Nat :=
  if eligible res r.ident.cls r.cost s then 0 else r.cost - creditLeft res r.ident.cls s

/-- The state in which a request has been paid for: what its class lacks is borrowed, the rest spent (R196). -/
def payFor (res : Nat) (r : Req) (s : State) : State :=
  spend res r.ident.cls (r.cost - lackOf res r s) (if lackOf res r s = 0 then s else
    count 2 1 (16 * res + r.ident.cls) (lackOf res r s) (borrow res r.ident.cls (lenders res s) (lackOf res r s) s))

/-- The state in which an admitted request may go on: the turn lies behind its class (R195, R196). -/
def goesOn (res id : Nat) (r : Req) (s : State) : State :=
  modReq id (fun r => { r with st := .translate, paid := insNat res r.paid })
    { s with ep := { s.ep with turn := mset s.ep.turn res ((r.ident.cls + 1) % 16) } }

theorem admitOne_of_none {res : Nat} {late : Bool} {s : State} (h : arbiter res late s = none) :
    admitOne res late s = s := by
  rw [admitOne, h]

/-- The request that arbitration chooses is paid for and goes on. -/
theorem admitOne_of_some {res : Nat} {late : Bool} {id : Nat} {r : Req} {s : State}
    (harb : arbiter res late s = some id) (hreq : mget s.que.reqs id = some r) :
    admitOne res late s = kick id (goesOn res id r (payFor res r s)) := by
  rw [admitOne, harb]
  dsimp only
  rw [hreq]
  rfl

/-- Borrowing changes what has been lent, and nothing else. -/
theorem borrow_lent (res cls : Nat) (l : List Nat) (n : Nat) (s : State) :
    ∃ m, borrow res cls l n s = { s with ep := { s.ep with lent := m } } := by
  induction l generalizing n s with
  | nil => exact ⟨s.ep.lent, rfl⟩
  | cons c l ih =>
    exact ih _ _

/-- A class that is eligible pays from its own credit. -/
theorem payFor_of_eligible {res : Nat} {r : Req} {s : State} (h : eligible res r.ident.cls r.cost s = true) :
    payFor res r s = spend res r.ident.cls r.cost s := by
  have hlack : lackOf res r s = 0 := if_pos h
  rw [payFor, hlack, if_pos rfl, Nat.sub_zero]

/-- Paying leaves the requests, the Reservoir and the registers alone. -/
theorem payFor_frame (res : Nat) (r : Req) (s : State) :
    (payFor res r s).que = s.que ∧ (payFor res r s).rsvr = s.rsvr ∧ (payFor res r s).reg = s.reg := by
  obtain ⟨m, hm⟩ := borrow_lent res r.ident.cls (lenders res s) (lackOf res r s) s
  rw [payFor, hm]
  split
  · exact ⟨rfl, rfl, rfl⟩
  · exact ⟨rfl, rfl, rfl⟩

theorem exec_pieceAdmission_none {res : Fin 108} {late : Bool} {s : State}
    (h : frozen s = true ∨ arbiter res.val late s = none) :
    exec (.pieceAdmission res late) s = .next (errOutputs (settle s)) := by
  rw [exec_pieceAdmission]
  rcases h with h | h
  · rw [if_pos h]
  · rw [admitOne_of_none h, ite_self]

theorem exec_pieceAdmission_some {res : Fin 108} {late : Bool} {id : Nat} {r : Req} {s : State}
    (hrun : frozen s = false) (harb : arbiter res.val late s = some id) (hreq : mget s.que.reqs id = some r) :
    exec (.pieceAdmission res late) s =
      .next (errOutputs (settle (kick id (goesOn res.val id r (payFor res.val r s))))) := by
  rw [exec_pieceAdmission, hrun, admitOne_of_some harb hreq]
  rfl

/-! ### DEADLINE_MISS -/

theorem exec_deadlineMiss (cmd : Bool) (id : Nat) (s : State) :
    exec (.deadlineMiss cmd id) s = .next (errOutputs (deadlineMiss cmd id s)) := rfl

/-- A command's deadline is missed once, when its time has run out after its start (R199, log 28). -/
theorem deadlineMiss_cmd {id : Nat} {c : Cmd} {s : State} (h : mget s.que.cmds id = some c) :
    deadlineMiss true id s = if c.hdr.deadline = 0 || c.dlLeft ≠ 0 || c.dlMiss || c.st == .queued then s
      else missed (cmdIdent c s) (cmdFn c s) (cmdEnv c s) (modCmd id (fun c => { c with dlMiss := true }) s) := by
  rw [deadlineMiss, if_pos rfl, h]

/-- A request's deadline is missed once, when its time has run out (R199, log 28). -/
theorem deadlineMiss_req {id : Nat} {r : Req} {s : State} (h : mget s.que.reqs id = some r) :
    deadlineMiss false id s = if r.ident.deadline = 0 || r.dlLeft ≠ 0 || r.dlMissed then s
      else missed r.ident r.fn r.env (modReq id (fun r => { r with dlMissed := true }) s) := by
  rw [deadlineMiss, if_neg Bool.false_ne_true, h]

theorem dpaVector_hostSide (s : State) : HostSideOnly s (dpaVector s) := by
  unfold dpaVector
  split
  · exact .refl s
  · exact (fire_hostSide ..).after ⟨rfl, rfl⟩

/-- A miss is counted against its class; the rest of it is a function's counter, a trace record and an event (R199). -/
theorem missed_hostSide (i : Ident) (fn : Nat) (env : Option Nat) (s : State) : HostSideOnly
    (modEp (fun x => { x with dlmiss := mupd x.dlmiss i.cls 0 fun n => satAdd 32 n 1 }) s) (missed i fn env s) := by
  have traced := fun t => (countFn_hostSide fn 12 1 t).trans
    (trace_hostSide 0x0B i env 8 (BitVec.ofNat 64 i.deadline) (countFn fn 12 1 t))
  unfold missed
  dsimp only
  split
  · exact (traced _).trans ((setEvent_hostSide ..).trans (dpaVector_hostSide _))
  · exact traced _

/-- Settles O36: each command's answer in its cases, and what a miss counts. -/
theorem classesAndAdmission : Obligations.ClassesAndAdmission := by
  unfold Obligations.ClassesAndAdmission
  refine ⟨?classWrite, fun res late s => exec_pieceAdmission_none, ?ownCredit, ?admitted, ?cmdMiss, ?reqMiss, ?counted⟩
  case classWrite =>
    intro p n v s hopen hmay
    obtain ⟨l, o, hexec⟩ := exec_classWrite_full hopen hmay v
    refine ⟨_, hexec, rfl, fun hgood => ?_, fun hbad => ?_⟩
    · simp [classNoted, hgood]
    · simp [classNoted, hbad]
  case ownCredit =>
    intro res late id r s hrun harb hreq helig
    rw [exec_pieceAdmission_some hrun harb hreq, payFor_of_eligible helig]
    rfl
  case admitted =>
    intro res late id r s hrun harb hreq
    obtain ⟨hque, hrsvr, hreg⟩ := payFor_frame res.val r s
    refine ⟨_, exec_pieceAdmission_some hrun harb hreq, ?_, mgetD_mset_same .., hrsvr, hreg⟩
    simp [goesOn, hque, mget_mmod, hreq]
  case cmdMiss =>
    intro id c s hcmd
    rw [exec_deadlineMiss, deadlineMiss_cmd hcmd]
    refine ⟨fun hset hout hfirst hstarted => ?_, fun hdone => ?_⟩
    · rw [if_neg (by simpa [hout, hfirst, hstarted] using hset)]
      rfl
    · rw [if_pos (by simp [hdone])]
  case reqMiss =>
    intro id r s hreq
    rw [exec_deadlineMiss, deadlineMiss_req hreq]
    refine ⟨fun hset hout hfirst => ?_, fun hdone => ?_⟩
    · rw [if_neg (by simp [hset, hout, hfirst])]
      rfl
    · rw [if_pos (by simp [hdone])]
  case counted =>
    intro i fn env s
    have kept := missed_hostSide i fn env s
    refine ⟨?_, kept.cmds, kept.reqs⟩
    rw [kept.dlmiss]
    exact mgetD_mupd_same s.ep.dlmiss i.cls 0 fun n => satAdd 32 n 1

end Sys2Proof.Machine
end
